-- ==== Sys2Proof/Word.lean ====
section
/-! DEFINITION. The word types, the small closed sets of names that instruction fields and packets are
decoded into, and the records that the operations of the other agents carry. -/
namespace Sys2Proof

abbrev W64 := BitVec 64
abbrev W32 := BitVec 32
abbrev W16 := BitVec 16
abbrev Byte := BitVec 8
/-- Numbers of g registers (R260). -/
abbrev GReg := BitVec 6
/-- Numbers of v registers (R260). -/
abbrev VNum := BitVec 5
/-- Numbers of predicate registers (R260). -/
abbrev PNum := BitVec 3
/-- Numbers of mask registers (R260). -/
abbrev MNum := BitVec 3
/-- Numbers of token registers (R260). -/
abbrev KNum := BitVec 5

/-- The guard of every word: GP names the predicate, GN inverts it (R258). -/
structure Guard where
  gp : PNum
  gn : Bool
deriving DecidableEq, Repr

/-- Format tags (R143). -/
inductive Tag where
  | i32 | w32 | fp32 | bf16 | fp16 | e4m3 | e5m2 | e2m1 | qc4 | ob8 | ob4 | invalid
deriving DecidableEq, Repr

/-- Rounding modes as an RM field names them (R151); `dyn` reads RMODE. -/
inductive Rm where
  | rne | rtz | rdn | rup | rna | dyn
deriving DecidableEq, Repr

/-- Conditions of CMP and CMPI (R295). -/
inductive Cond where
  | eq | ne | lt | ge | ltu | geu
deriving DecidableEq, Repr

/-- Conditions of VCMP (R345). -/
inductive VCond where
  | eq | ne | lt | le | gt | ge | unord
deriving DecidableEq, Repr

/-- Operations of AMO (R281). -/
inductive AmoOp where
  | add | and | or | xor | min | max | minu | maxu | xchg | badd
deriving DecidableEq, Repr

/-- Operations of VRED (R350). -/
inductive RedOp where
  | sum | max | min
deriving DecidableEq, Repr

/-- Modes of BAR (R288). -/
inductive BarMode where
  | both | arrive | wait
deriving DecidableEq, Repr

/-- Scopes of BAR (R287). -/
inductive BarScope where
  | comp | launch | gang
deriving DecidableEq, Repr

/-- Levels of a handle and of CANCEL (R25, R232). -/
inductive Level where
  | launch | graph | phase | job
deriving DecidableEq, Repr

/-- Widths of EXT (R301). -/
inductive ExtW where
  | b | h | w
deriving DecidableEq, Repr

/-- A fabric target as its 16-byte block names it (R193): KIND 0 memory, 1 scratchpad, 2 group. -/
structure Target where
  kind : Nat
  pkg  : Nat
  die  : Nat
  pane : Nat
  addr : W64
deriving DecidableEq, Repr

/-- What every fabric packet carries (R189), the command it belongs to at its requester, the sequence
number of R207, and the group VERSION of R201. -/
structure FHdr where
  srcPkg : Nat
  srcDie : Nat
  inc    : Nat
  reqPkg : Nat
  reqDie : Nat
  reqCtx : W16
  cmd    : Nat
  seq    : Nat
  ver    : W32
deriving DecidableEq, Repr

/-- Where a unit stands in its command: its offset, and with ORD the offset at which the command began (R196, R202). -/
structure UnitAt where
  off : Nat
  ord : Option Nat
deriving DecidableEq, Repr

/-- What a negative reply speaks of: an offset, and whether the owner of a fetch sends it (R200). -/
structure NakAt where
  off   : Nat
  owner : Bool
deriving DecidableEq, Repr

/-- A buffer of the fabric (R206): of a port of a die, or of a switch, named by the packet that it holds. -/
inductive FabBuffer where
  | port (die port : Nat)
  | switch (idx : Nat)
deriving DecidableEq, Repr

/-- A fetch order as XFETCH sends it (R197, R198). -/
structure FetchOrder where
  source  : Target
  length  : Nat
  recip   : Target
  landing : W64
  resume  : Nat
  ord     : Bool
deriving DecidableEq, Repr

/-- Packets of the fabric, by class (R189, R198, R200, R376, R204). A write or add of a command with ORD names the
offset that the command started at (R202); a negative reply says whether the owner of a fetch sends it. `spawn` creates
a child of a phase in another package (R209). -/
inductive FMsg where
  | write (t : Target) (off : Nat) (data : List Byte) (ord : Option Nat)
  | add (t : Target) (off : Nat) (fp : Bool) (data : List Byte) (ord : Option Nat)
  | order (o : FetchOrder)
  | unit (o : FetchOrder) (off : Nat) (data : List Byte)
  | ack (off : Nat)
  | nak (code : Nat) (off : Nat) (owner : Bool)
  | endUnits (endOff : Nat)
  | landed (landedTo : Nat)
  | commit (addr : W64) (length : Nat)
  | committed
  | stop
  | report (resume endOff : Nat)
  | resetNotice (die inc : Nat)
  | ready (slice : Nat) (ok : Bool)
  | go (slice : Nat)
  | abandon (slice : Nat)
  | fail (slice : Nat)
  | barArrive (slice bar : Nat)
  | barDone (slice bar : Nat)
  | weight (ent : Nat) (exp : Nat) (failed : Option Nat)
  | spawn (ent : Nat) (exp : Nat) (lpb : W64)
deriving DecidableEq, Repr

/-- A packet on its way to package `dst`. -/
structure FPkt where
  dst : Nat
  hdr : FHdr
  msg : FMsg
deriving DecidableEq, Repr

/-- Where a part comes home from (R42, R209): the parts returned inside the package stand in the state's
list, a part from another package arrives as a fabric add. -/
inductive PartSrc where
  | here (idx : Nat)
  | away (hdr : FHdr) (ent exp : Nat) (failed : Option Nat)
deriving DecidableEq, Repr

end Sys2Proof
end

