-- ==== Sys2Proof/Machine/Aes.lean ====
section
/-! DEFINITION. AES-256 in XTS mode over 64-byte data units, with the line's physical address as the tweak
(R177). The algorithms are those the standards of that name give (assumption 14). -/
namespace Sys2Proof.Machine

/-- The AES S-box, entry i in bits 8i to 8i + 7. -/
def aesSbox : Nat := 0x16bb54b00f2d99416842e6bf0d89a18cdf2855cee9871e9b948ed9691198f8e19e1dc186b95735610ef6034866b53e708a8bbd4b1f74dde8c6b4a61c2e2578ba08ae7a65eaf4566ca94ed58d6d37c8e779e4959162acd3c25c2406490a3a32e0db0b5ede14b8ee4688902a22dc4f816073195d643d7ea7c41744975fec130ccdd2f3ff1021dab6bcf5389d928f40a351a89f3c507f02f94585334d43fbaaefd0cf584c4a39becb6a5bb1fc20ed00d153842fe329b3d63b52a05a6e1b1a2c830975b227ebe28012079a059618c323c7041531d871f1e5a534ccf73f362693fdb7c072a49cafa2d4adf04759fa7dc982ca76abd7fe2b670130c56f6bf27b777c63
/-- Its inverse. -/
def aesInv : Nat := 0x7d0c2155631469e126d677ba7e042b17619953833cbbebc8b0f52aae4d3be0a0ef9cc9939f7ae52d0d4ab519a97f51605fec8027591012b131c7078833a8dd1ff45acd78fec0db9a2079d2c64b3e56fc1bbe18aa0e62b76f89c5291d711af1476edf751ce837f9e28535ade72274ac9673e6b4f0cecff297eadc674f4111913a6b8a130103bdafc1020f3fca8f1e2cd00645b3b80558e4f70ad3bc8c00abd890849d8da75746155edab9edfd5048706c92b6655dcc5ca4d41698688664f6f87225d18b6d49a25b76b224d92866a12e084ec3fa420b954cee3d23c2a632947b54cbe9dec444438e3487ff2f9b8239e37cfbd7f3819ea340bf38a53630d56a0952
def aesSub (x : Nat) : Nat := (aesSbox >>> (8 * x)) % 256
def aesUnsub (x : Nat) : Nat := (aesInv >>> (8 * x)) % 256

/-- Multiplication by x in GF(2^8). -/
def aesX (x : Nat) : Nat := if x < 128 then 2 * x else (2 * x - 256) ^^^ 0x1b
/-- Multiplication by a small constant. -/
def aesMul (c x : Nat) : Nat :=
  let x2 := aesX x
  let x4 := aesX x2
  let x8 := aesX x4
  (if c % 2 = 1 then x else 0) ^^^ (if (c / 2) % 2 = 1 then x2 else 0)
    ^^^ (if (c / 4) % 2 = 1 then x4 else 0) ^^^ (if (c / 8) % 2 = 1 then x8 else 0)

def xorL (a b : List Nat) : List Nat := List.zipWith (· ^^^ ·) a b

/-- Key schedule words from the four-byte words so far (newest first), the next index, the round constant. -/
def aesExpand : Nat → Nat → Nat → List (List Nat) → List (List Nat)
  | 0, _, _, ws => ws
  | fuel + 1, i, rc, ws =>
    let prev := ws.headD []
    let old := (ws[7]?).getD []
    let t := if i % 8 = 0 then
        match prev with
        | [a, b, c, d] => [aesSub b ^^^ rc, aesSub c, aesSub d, aesSub a]
        | _ => prev
      else if i % 8 = 4 then prev.map aesSub else prev
    aesExpand fuel (i + 1) (if i % 8 = 0 then aesX rc else rc) (xorL old t :: ws)

def chunk4 : List Nat → List (List Nat)
  | a :: b :: c :: d :: t => [a, b, c, d] :: chunk4 t
  | _ => []

/-- The fifteen round keys of a 32-byte key, 16 bytes each. -/
def aesKeys (key : List Nat) : List (List Nat) :=
  let ws := (aesExpand 52 8 1 (chunk4 key).reverse).reverse
  (List.range 15).map (fun r => ((List.range 4).map (fun j => (ws[4 * r + j]?).getD [])).flatten)

def byteAt (st : List Nat) (i : Nat) : Nat := (st[i]?).getD 0

/-- Bytes are held column by column: byte 4c + r is row r of column c. -/
def aesShift (st : List Nat) : List Nat :=
  (List.range 16).map (fun i => byteAt st ((i + 4 * (i % 4)) % 16))
def aesUnshift (st : List Nat) : List Nat :=
  (List.range 16).map (fun i => byteAt st ((i + 16 - 4 * (i % 4)) % 16))
def aesMix (m : List Nat) (st : List Nat) : List Nat :=
  (List.range 16).map (fun i =>
    let c := 4 * (i / 4)
    let r := i % 4
    (List.range 4).foldl (fun acc j => acc ^^^ aesMul (byteAt m ((j + 4 - r) % 4)) (byteAt st (c + j))) 0)

def aesEnc (keys : List (List Nat)) (blk : List Nat) : List Nat :=
  let s0 := xorL blk (keys.headD [])
  let mid := (keys.drop 1).dropLast.foldl (fun s k => xorL (aesMix [2, 3, 1, 1] (aesShift (s.map aesSub))) k) s0
  xorL (aesShift (mid.map aesSub)) (keys.getLastD [])

def aesDec (keys : List (List Nat)) (blk : List Nat) : List Nat :=
  let s0 := aesUnshift (xorL blk (keys.getLastD [])) |>.map aesUnsub
  let mid := (keys.drop 1).dropLast.reverse.foldl
    (fun s k => (aesUnshift (aesMix [14, 11, 13, 9] (xorL s k))).map aesUnsub) s0
  xorL mid (keys.headD [])

def leNat : List Nat → Nat
  | [] => 0
  | b :: t => b + 256 * leNat t
def leList : Nat → Nat → List Nat
  | 0, _ => []
  | n + 1, x => x % 256 :: leList n (x / 256)

/-- Multiplication of a tweak by the primitive element of GF(2^128). -/
def xtsNext (t : Nat) : Nat := if t < 2 ^ 127 then 2 * t else (2 * t - 2 ^ 128) ^^^ 135

/-- Byte keys of a slot: the data key and the tweak key. -/
def slotKeys (k : BitVec 512) : List Nat × List Nat :=
  let bs := leList 64 k.toNat
  (bs.take 32, bs.drop 32)

/-- Tweak of the 16-byte block that holds physical address `a`: the address of its 64-byte line, encrypted,
times the element to the power of the block's number in the line. -/
def xtsTweak (k : BitVec 512) (a : Nat) : List Nat :=
  let t0 := leNat (aesEnc (aesKeys (slotKeys k).2) (leList 16 (a / 64 * 64)))
  let t1 := xtsNext t0
  let t2 := xtsNext t1
  leList 16 (match a / 16 % 4 with
    | 0 => t0
    | 1 => t1
    | 2 => t2
    | _ => xtsNext t2)

/-- A 16-byte block at physical address `a` (a multiple of 16), enciphered and deciphered. -/
def xtsEnc (k : BitVec 512) (a : Nat) (blk : List Nat) : List Nat :=
  let t := xtsTweak k a
  xorL (aesEnc (aesKeys (slotKeys k).1) (xorL blk t)) t
def xtsDec (k : BitVec 512) (a : Nat) (blk : List Nat) : List Nat :=
  let t := xtsTweak k a
  xorL (aesDec (aesKeys (slotKeys k).1) (xorL blk t)) t

end Sys2Proof.Machine
end

