-- ==== Sys2Proof/Syntax.lean ====
section
/-! DEFINITION. The operations of the part: one constructor per row of spec/opcode_table.json, in the table's
order. The first 123 are the instruction words of the Odzazel architecture (each carries its guard, R258);
the others are the steps of the other agents, with the operands that say where the step happens. -/
namespace Sys2Proof

inductive Instr where
  /-- ACLR (R275). Array command that clears a row range of the working half of the fragment's accumulator bank to zero. -/
  | aclr (gd : Guard) (ko ka kb kc : KNum) (gb : GReg) (bg : Bool)
  /-- ADD (R277). Writes the 64-bit wrapped sum of two scalar registers. -/
  | add (gd : Guard) (d a b : GReg)
  /-- AND (R277). Writes the bitwise AND of two scalar registers. -/
  | and (gd : Guard) (d a b : GReg)
  /-- ANDN (R277). Writes g[A] AND NOT g[B]. -/
  | andn (gd : Guard) (d a b : GReg)
  /-- ADDI (R278). Adds a sign-extended 32-bit immediate to a scalar register. -/
  | addi (gd : Guard) (d a : GReg) (imm : W32)
  /-- ANDI (R278). ANDs a scalar register with a sign-extended immediate. -/
  | andi (gd : Guard) (d a : GReg) (imm : W32)
  /-- ADRAIN (R279). Array command that passes visible accumulator rows through the edge unit and writes them to a destination stream. -/
  | adrain (gd : Guard) (ko ka kb kc : KNum) (ga gb : GReg) (bg : Bool)
  /-- AMO (R281). Performs one atomic read-modify-write (add, logic, min/max, exchange or bounded add) on memory and returns the old value. -/
  | amo (gd : Guard) (d a b c : GReg) (op : AmoOp) (wide : Bool)
  /-- AQ (R283). Requests or takes the array lease of a shared fragment. -/
  | aq (gd : Guard)
  /-- AREL (R283). Releases the array lease or leaves the request list. -/
  | arel (gd : Guard)
  /-- ARRIVE (R284). Engine command that atomically adds an increment to a 64-bit counter once its input tokens are complete. -/
  | arrive (gd : Guard) (ko ka kb kc : KNum) (ga gb : GReg)
  /-- ASWAP (R286). Array command that exchanges the working and visible halves of every south-edge bank after earlier commands finish. -/
  | aswap (gd : Guard) (ko ka kb kc : KNum) (bg : Bool)
  /-- BAR (R288). Arrives at and/or waits on a companion-, launch- or gang-scope barrier generation. -/
  | bar (gd : Guard) (mode : BarMode) (scope : BarScope) (id : BitVec 4)
  /-- BR (R290). Branches by a signed word offset. -/
  | br (gd : Guard) (off : W32)
  /-- BRL (R290). Writes the return address to g63 and branches by a word offset. -/
  | brl (gd : Guard) (off : W32)
  /-- CANCEL (R291). Sends a cancel of a launch, graph, phase or job to its home and waits for acceptance. -/
  | cancel (gd : Guard) (a : GReg) (lvl : Level)
  /-- CAS (R292). Atomically compares a memory word and swaps in a new value if equal, returning the old value. -/
  | cas (gd : Guard) (d a b c : GReg) (wide : Bool)
  /-- CHAIN (R293). Connects the fragment's chain output to the west input of another fragment, optionally with a spill ring. -/
  | chain (gd : Guard) (a : GReg) (spill : Bool) (off : BitVec 28)
  /-- CLZ (R294). Counts leading zero bits of a scalar register. -/
  | clz (gd : Guard) (d a : GReg)
  /-- CMP (R295). Compares two scalar registers into a predicate. -/
  | cmp (gd : Guard) (d : PNum) (a b : GReg) (cond : Cond)
  /-- CMPI (R295). Compares a scalar register with a sign-extended immediate into a predicate. -/
  | cmpi (gd : Guard) (d : PNum) (a : GReg) (cond : Cond) (imm : W32)
  /-- DIV (R296). Signed 64-bit division truncating towards zero, with IDZ on division by zero. -/
  | div (gd : Guard) (d a b : GReg)
  /-- DIVU (R296). Unsigned 64-bit division, with IDZ on division by zero. -/
  | divu (gd : Guard) (d a b : GReg)
  /-- EDGE (R297). Array command that loads an edge-unit configuration from an edge block. -/
  | edge (gd : Guard) (ko ka kb kc : KNum) (ga : GReg) (bg : Bool)
  /-- ERET (R299). Returns from a trap handler to TPC in user mode. -/
  | eret (gd : Guard)
  /-- EXIT (R300). Ends the unit or companion, fusing halves, leaving barriers, closing chains and freeing the fragment after the trailer-mask queues drain. -/
  | exit (gd : Guard) (mask : BitVec 6)
  /-- EXT (R301). Zero- or sign-extends the low byte, half-word or word of a register. -/
  | ext (gd : Guard) (d a : GReg) (width : ExtW) (sgn : Bool)
  /-- FENCE (R302). Waits for WC visibility, host visibility or idle engine queues, or invalidates the instruction cache. -/
  | fence (gd : Guard) (wc sys eng ifetch : Bool)
  /-- FFUSE (R303). Waits for the most recently split-off companion to exit and drain, then rejoins the halves. -/
  | ffuse (gd : Guard)
  /-- FSPLIT (R303). Drains the queues and halves the fragment, starting a companion on the other half. -/
  | fsplit (gd : Guard) (d a : GReg) (col : Bool)
  /-- GCFG (R305). Grid command that reads, checks and loads a grid image, leaving the grid CONFIGURED. -/
  | gcfg (gd : Guard) (ko ka kb kc : KNum) (ga : GReg)
  /-- GSPILL (R305). Grid command that attaches a scratchpad spill ring to an output port. -/
  | gspill (gd : Guard) (ko ka kb kc : KNum) (ga : GReg)
  /-- GSTART (R305). Grid command that sets a CONFIGURED grid RUNNING; its token completes at quiescence. -/
  | gstart (gd : Guard) (ko ka kb kc : KNum)
  /-- GSTOP (R305). Grid command that ends all streams, detaches rings and returns every element to its initial state. -/
  | gstop (gd : Guard) (ko ka kb kc : KNum)
  /-- JR (R307). Jumps to a register plus byte offset. -/
  | jr (gd : Guard) (a : GReg) (off : W32)
  /-- JRL (R307). Jumps through a register and links the return address in g63. -/
  | jrl (gd : Guard) (a : GReg) (off : W32)
  /-- KWATCH (R308). Engine command whose token completes when a 64-bit location reaches a threshold. -/
  | kwatch (gd : Guard) (ko ka kb kc : KNum) (ga gb : GReg)
  /-- LAUNCH (R309). Creates a child launch whose LPB is read and checked once its input tokens complete. -/
  | launch (gd : Guard) (ko ka kb kc : KNum) (ga : GReg)
  /-- LD (R311). Scalar load of 1, 2, 4 or 8 bytes with optional sign extension. -/
  | ld (gd : Guard) (d a : GReg) (sz : BitVec 2) (sgn : Bool) (hint : BitVec 4) (off : W32)
  /-- ST (R311). Scalar store, optionally ST.sys waiting for host visibility. -/
  | st (gd : Guard) (d a : GReg) (sz : BitVec 2) (sys : Bool) (off : W32)
  /-- LDV (R314). Loads a vector record with its side fields into a vector register and sets its tag. -/
  | ldv (gd : Guard) (d : VNum) (a : GReg) (tag : Tag) (hint : BitVec 4) (off : W32)
  /-- STV (R314). Stores a vector register as a vector record of its tag. -/
  | stv (gd : Guard) (d : VNum) (a : GReg) (tag : Tag) (off : W32)
  /-- LI (R316). Loads a sign-extended 32-bit immediate. -/
  | li (gd : Guard) (d : GReg) (imm : W32)
  /-- LIH (R316). Sets the high 32 bits from an immediate, keeping the low 32 bits of a register. -/
  | lih (gd : Guard) (d a : GReg) (imm : W32)
  /-- LOOP (R317). Decrements a register and branches if the result is non-zero. -/
  | loop (gd : Guard) (a : GReg) (off : W32)
  /-- MAX (R318). Writes the signed maximum of two registers. -/
  | max (gd : Guard) (d a b : GReg)
  /-- MAXU (R318). Writes the unsigned maximum of two registers. -/
  | maxu (gd : Guard) (d a b : GReg)
  /-- MIN (R318). Writes the signed minimum of two registers. -/
  | min (gd : Guard) (d a b : GReg)
  /-- MINU (R318). Writes the unsigned minimum of two registers. -/
  | minu (gd : Guard) (d a b : GReg)
  /-- MFC (R319). Reads a control register into a scalar register. -/
  | mfc (gd : Guard) (d : GReg) (num : BitVec 12)
  /-- MTC (R319). Writes a control register with its register-specific checks and effects. -/
  | mtc (gd : Guard) (a : GReg) (num : BitVec 12)
  /-- MLOG (R321). Applies a 4-entry truth table lane by lane to two masks. -/
  | mlog (gd : Guard) (d a b : MNum) (tbl : BitVec 4)
  /-- MMA (R322). Array command that multiplies activation rows by the active weight plane into the working bank or chain output. -/
  | mma (gd : Guard) (ko ka kb kc : KNum) (ga gb : GReg) (bg chn rag cin set : Bool)
  /-- MUL (R324). Writes the low 64 bits of the product. -/
  | mul (gd : Guard) (d a b : GReg)
  /-- MULH (R324). Writes the high 64 bits of the signed product. -/
  | mulh (gd : Guard) (d a b : GReg)
  /-- MULHU (R324). Writes the high 64 bits of the unsigned product. -/
  | mulhu (gd : Guard) (d a b : GReg)
  /-- NOP (R325). Changes nothing but the PC. -/
  | nop (gd : Guard)
  /-- OR (R326). Writes the bitwise OR of two registers. -/
  | or (gd : Guard) (d a b : GReg)
  /-- ORI (R326). ORs a register with a sign-extended immediate. -/
  | ori (gd : Guard) (d a : GReg) (imm : W32)
  /-- POPC (R327). Counts the set bits of a register. -/
  | popc (gd : Guard) (d a : GReg)
  /-- PSET (R328). Sets a predicate from a truth table of two predicates. -/
  | pset (gd : Guard) (d a b : PNum) (tbl : BitVec 4)
  /-- QMARK (R329). Supervisor instruction that waits until the named engine queues have drained. -/
  | qmark (gd : Guard) (mask : BitVec 6)
  /-- REM (R330). Signed remainder, with the dividend returned and IDZ on division by zero. -/
  | rem (gd : Guard) (d a b : GReg)
  /-- REMU (R330). Unsigned remainder, with the dividend returned and IDZ on division by zero. -/
  | remu (gd : Guard) (d a b : GReg)
  /-- SEL (R331). Selects one of two registers by a predicate. -/
  | sel (gd : Guard) (d a b : GReg) (c : PNum)
  /-- SHL (R332). Shifts left by a register count. -/
  | shl (gd : Guard) (d a b : GReg)
  /-- SHR (R332). Shifts right logically by a register count. -/
  | shr (gd : Guard) (d a b : GReg)
  /-- SHRA (R332). Shifts right arithmetically by a register count. -/
  | shra (gd : Guard) (d a b : GReg)
  /-- SHLI (R332). Shifts left by an immediate count. -/
  | shli (gd : Guard) (d a : GReg) (sh : BitVec 6)
  /-- SHRI (R332). Shifts right logically by an immediate count. -/
  | shri (gd : Guard) (d a : GReg) (sh : BitVec 6)
  /-- SHRAI (R332). Shifts right arithmetically by an immediate count. -/
  | shrai (gd : Guard) (d a : GReg) (sh : BitVec 6)
  /-- STRM (R333). Engine command that attaches an input or output stream to a grid port. -/
  | strm (gd : Guard) (ko ka kb kc : KNum) (ga gb : GReg)
  /-- SUB (R335). Writes the 64-bit wrapped difference of two registers. -/
  | sub (gd : Guard) (d a b : GReg)
  /-- SYS (R336). Traps with cause SYS passing its immediate in TDATA. -/
  | sys (gd : Guard) (code : BitVec 28)
  /-- TJOIN (R337). Makes a token that completes when its inputs complete, carrying the first fault. -/
  | tjoin (gd : Guard) (ko ka kb kc : KNum)
  /-- TSTAT (R337). Waits for a token and writes its status word without consuming it. -/
  | tstat (gd : Guard) (d : GReg) (ka : KNum)
  /-- TWAIT (R119). Waits for up to three tokens and traps with TOKEN on a faulted one, consuming it. -/
  | twait (gd : Guard) (ka kb kc : KNum)
  /-- TRAPF (R339). Traps with ARITH when AFLAGS AND AMASK is non-zero. -/
  | trapf (gd : Guard)
  /-- UNCHAIN (R340). Queues an end marker behind all earlier chain rows of the open chain output. -/
  | unchain (gd : Guard)
  /-- VADD (R341). Floating lane-wise addition rounded once to the destination tag. -/
  | vadd (gd : Guard) (d a b : VNum) (fmt : Tag) (rm : Rm) (sat : Bool) (mk : Option MNum)
  /-- VSUB (R341). Floating lane-wise subtraction. -/
  | vsub (gd : Guard) (d a b : VNum) (fmt : Tag) (rm : Rm) (sat : Bool) (mk : Option MNum)
  /-- VMUL (R341). Floating lane-wise multiplication. -/
  | vmul (gd : Guard) (d a b : VNum) (fmt : Tag) (rm : Rm) (sat : Bool) (mk : Option MNum)
  /-- VFMA (R341). Floating lane-wise fused multiply-add with one rounding. -/
  | vfma (gd : Guard) (d a b c : VNum) (fmt : Tag) (rm : Rm) (sat : Bool) (mk : Option MNum)
  /-- VMIN (R341). Lane-wise IEEE minimumNumber. -/
  | vmin (gd : Guard) (d a b : VNum) (fmt : Tag) (rm : Rm) (sat : Bool) (mk : Option MNum)
  /-- VMAX (R341). Lane-wise IEEE maximumNumber. -/
  | vmax (gd : Guard) (d a b : VNum) (fmt : Tag) (rm : Rm) (sat : Bool) (mk : Option MNum)
  /-- VABS (R341). Lane-wise absolute value. -/
  | vabs (gd : Guard) (d a : VNum) (fmt : Tag) (rm : Rm) (sat : Bool) (mk : Option MNum)
  /-- VNEG (R341). Lane-wise negation. -/
  | vneg (gd : Guard) (d a : VNum) (fmt : Tag) (rm : Rm) (sat : Bool) (mk : Option MNum)
  /-- VRCP (R341). Lane-wise correctly rounded reciprocal. -/
  | vrcp (gd : Guard) (d a : VNum) (fmt : Tag) (rm : Rm) (sat : Bool) (mk : Option MNum)
  /-- VRSQ (R341). Lane-wise correctly rounded reciprocal square root. -/
  | vrsq (gd : Guard) (d a : VNum) (fmt : Tag) (rm : Rm) (sat : Bool) (mk : Option MNum)
  /-- VEXP (R341). Lane-wise correctly rounded 2^x. -/
  | vexp (gd : Guard) (d a : VNum) (fmt : Tag) (rm : Rm) (sat : Bool) (mk : Option MNum)
  /-- VLOG (R341). Lane-wise correctly rounded log2. -/
  | vlog (gd : Guard) (d a : VNum) (fmt : Tag) (rm : Rm) (sat : Bool) (mk : Option MNum)
  /-- VIADD (R343). Lane-wise 32-bit wrapping integer addition. -/
  | viadd (gd : Guard) (d a b : VNum) (mk : Option MNum)
  /-- VISUB (R343). Lane-wise 32-bit wrapping integer subtraction. -/
  | visub (gd : Guard) (d a b : VNum) (mk : Option MNum)
  /-- VIMUL (R343). Lane-wise low 32 bits of the integer product. -/
  | vimul (gd : Guard) (d a b : VNum) (mk : Option MNum)
  /-- VAND (R343). Lane-wise bitwise AND. -/
  | vand (gd : Guard) (d a b : VNum) (mk : Option MNum)
  /-- VOR (R343). Lane-wise bitwise OR. -/
  | vor (gd : Guard) (d a b : VNum) (mk : Option MNum)
  /-- VXOR (R343). Lane-wise bitwise XOR. -/
  | vxor (gd : Guard) (d a b : VNum) (mk : Option MNum)
  /-- VSHL (R343). Lane-wise left shift. -/
  | vshl (gd : Guard) (d a b : VNum) (mk : Option MNum)
  /-- VSHR (R343). Lane-wise logical right shift. -/
  | vshr (gd : Guard) (d a b : VNum) (mk : Option MNum)
  /-- VSHRA (R343). Lane-wise arithmetic right shift. -/
  | vshra (gd : Guard) (d a b : VNum) (mk : Option MNum)
  /-- VBC (R344). Broadcasts the low bits of a scalar register to every selected lane with a tag. -/
  | vbc (gd : Guard) (d : VNum) (a : GReg) (fmt : Tag) (mk : Option MNum)
  /-- VCMP (R345). Compares two vector registers lane by lane into a mask. -/
  | vcmp (gd : Guard) (d : MNum) (a b : VNum) (cond : VCond)
  /-- VCVT (R346). Converts every selected lane to the destination tag. -/
  | vcvt (gd : Guard) (d a : VNum) (fmt : Tag) (rm : Rm) (sat : Bool) (mk : Option MNum)
  /-- VLDX (R347). Gathers elements at base plus scaled lane indices into a vector register. -/
  | vldx (gd : Guard) (d : VNum) (a : GReg) (b : VNum) (fmt : Tag) (mk : Option MNum)
  /-- VSTX (R347). Scatters vector lanes to base plus scaled lane indices. -/
  | vstx (gd : Guard) (d : VNum) (a : GReg) (b : VNum) (fmt : Tag) (mk : Option MNum)
  /-- VPERM (R348). Permutes lanes by an index register. -/
  | vperm (gd : Guard) (d a b : VNum) (mk : Option MNum)
  /-- VQNT (R349). Quantises float lanes to a block-scaled or zero-point tag, choosing side fields. -/
  | vqnt (gd : Guard) (d a : VNum) (fmt : Tag) (rm : Rm) (sat : Bool) (mk : Option MNum)
  /-- VRED (R350). Reduces 128 lanes by sum, max or min in a fixed tree into a scalar register. -/
  | vred (gd : Guard) (d : GReg) (a : VNum) (op : RedOp) (rm : Rm)
  /-- VSEL (R351). Selects lanes from two vector registers by a mask. -/
  | vsel (gd : Guard) (d a b : VNum) (c : MNum)
  /-- VTAG (R352). Retags a vector register without conversion (SUB 0). -/
  | vtag (gd : Guard) (d a : VNum) (tag : Tag)
  /-- VTAG_READ (R352). Reads a vector register's tag and side fields into a scalar register (SUB 1). -/
  | vtagRead (gd : Guard) (d : GReg) (a : VNum)
  /-- VXTR (R353). Extracts one lane's code into a scalar register. -/
  | vxtr (gd : Guard) (d : GReg) (a : VNum) (b : GReg)
  /-- WAITGE (R354). Stalls until a memory location reaches a threshold. -/
  | waitge (gd : Guard) (d a : GReg) (sz : BitVec 2) (sgn : Bool) (hint : BitVec 4) (off : W32)
  /-- WLOAD (R355). Array command that loads a K x N weight tile into a weight plane. -/
  | wload (gd : Guard) (ko ka kb kc : KNum) (ga gb : GReg) (bg : Bool)
  /-- WSWAP (R355). Array command that exchanges the active and shadow weight planes in single-queue mode. -/
  | wswap (gd : Guard) (ko ka kb kc : KNum) (bg : Bool)
  /-- XCAST (R357). Copy-engine command that delivers one source stream to up to 16 receivers. -/
  | xcast (gd : Guard) (ko ka kb kc : KNum) (ga gb : GReg) (res : Option GReg)
  /-- XCOPY (R357). Copy-engine command that copies a source stream to a destination stream bit for bit. -/
  | xcopy (gd : Guard) (ko ka kb kc : KNum) (ga gb : GReg) (res : Option GReg)
  /-- XRED (R357). Copy-engine command that atomically adds source elements into destination elements. -/
  | xred (gd : Guard) (ko ka kb kc : KNum) (ga gb : GReg) (res : Option GReg)
  /-- XFETCH (R359). Fabric command that orders an owner to write source bytes to recipients with optional landing commit. -/
  | xfetch (gd : Guard) (ko ka kb kc : KNum) (ga : GReg)
  /-- XSEND (R359). Fabric command that writes or adds stream bytes at a remote package or group. -/
  | xsend (gd : Guard) (ko ka kb kc : KNum) (ga gb : GReg) (add : Bool) (res : Option GReg)
  /-- XOR (R361). Writes the bitwise XOR of two registers. -/
  | xor (gd : Guard) (d a b : GReg)
  /-- XORI (R361). XORs a register with a sign-extended immediate. -/
  | xori (gd : Guard) (d a : GReg) (imm : W32)
  /-- YIELD (R362). Declared yield point that writes a yield image and frees the fragment when a pre-emption decision is pending. -/
  | yield (gd : Guard) (n : BitVec 6)
  /-- COMMAND_START (R80). An engine command at the head of its queue starts once its input tokens are complete, or completes faulted from a faulted input. -/
  | commandStart (seq q : Nat)
  /-- COMMAND_BOUNDARY (R81). The array takes its next command from AFG, else ABG, adding change-over cycles in dual-queue mode. -/
  | commandBoundary (seq : Nat)
  /-- COMMAND_COMPLETION (R116). An engine or array command finishes and its token completes with a status word. -/
  | commandCompletion (seq q id : Nat) (upto : Nat)
  /-- RAGGED_COUNTER_READ (R110). A ragged MMA rereads its counter after 16 rows or every 16 cycles while waiting and continues or ends. -/
  | raggedCounterRead (seq : Nat)
  /-- SPILL_ENGINE_MOVE (R141). The spill engine moves the oldest ring token or chain row into a free queue or FIFO entry each cycle. -/
  | spillEngineMove (seq : Nat) (port : Option Nat)
  /-- GRID_CYCLE (R134). Each element of a running grid scans its slots and fires up to four moves. -/
  | gridCycle (seq : Nat)
  /-- KWATCH_READ (R131). An active watch rereads its location after a write to the line or at least every 2 µs and completes if satisfied. -/
  | kwatchRead (seq id : Nat)
  /-- WAITGE_READ (R354). A stalled WAITGE rereads its location after a write or at least every 2 µs and ends when satisfied. -/
  | waitgeRead (cid : Nat)
  /-- WC_VISIBILITY_TIMEOUT (R174). A WC store becomes visible no later than 4 µs after it issues. -/
  | wcVisibilityTimeout (cid : Nat)
  /-- LAUNCH_ACCEPT (R309). Once a LAUNCH's input tokens complete, its LPB is read and checked and the child is spawned or refused. -/
  | launchAccept (cid id : Nat)
  /-- WEIGHT_RETURN (R42). A returned part is added to a home counter, the reserve is lowered, and the entity completes when the counter reaches 2^56. -/
  | weightReturn (src : PartSrc)
  /-- GRAPH_NODE_SPAWN (R46). A graph node is spawned once all its predecessors are complete. -/
  | graphNodeSpawn (ent node : Nat)
  /-- FRAGMENT_FREE (R49). After EXIT, the fragment frees once every queue of the effective trailer mask has drained. -/
  | fragmentFree (seq : Nat)
  /-- UNIT_COMPLETION (R49). A finished unit's completion is counted once its six queues have drained and its stores are host-visible. -/
  | unitCompletion (lid unit : Nat)
  /-- SELECTION (R65). The Mordant chooses a candidate launch and places, reserves or pre-empts for its placement set. -/
  | selection
  /-- PRIORITY_AGEING_STEP (R61). Each 2 ms step of a ready launch's unplaced wait raises its effective priority. -/
  | priorityAgeingStep (lid : Nat)
  /-- WAIT_QUANTUM_EXPIRY (R54). A unit that has waited over 50 µs with equal or higher work queued is fully pre-empted and deferred. -/
  | waitQuantumExpiry (cid : Nat)
  /-- YIELD_WINDOW_EXPIRY (R70). A victim's 10 µs yield window expires and full pre-emption begins at the next instruction boundary. -/
  | yieldWindowExpiry (cid : Nat)
  /-- QUIESCE_COMPLETE (R224). All quiesce markers of a fully pre-empted victim return and the image is written. -/
  | quiesceComplete (cid : Nat)
  /-- IMAGE_WRITE_DONE (R229). A pre-emption image is written and the fragment frees, or the image is discarded on a fault. -/
  | imageWriteDone (cid : Nat)
  /-- RESUMPTION_READ_DONE (R230). A resumed unit's image has been read and its first instruction starts. -/
  | resumptionReadDone (cid : Nat)
  /-- TENURE_LIMIT (R73). A lease tenure reaches 64 commands or 100 µs and the lease passes to the head of the request list. -/
  | tenureLimit (seq : Nat)
  /-- CANCEL_AT_HOME (R232). A cancel takes effect at an entity's home, stopping units and releasing waiters with CANCELLED. -/
  | cancelAtHome (idx : Nat)
  /-- FIRMWARE_PAGE_SERVICE_DONE (R221). Control-die firmware maps or declines a faulting page and the stalled access retries or traps. -/
  | firmwarePageServiceDone (cid : Nat) (cmd : Option Nat) (maps : Option (List (Nat × Nat × W64 × W64)))
  /-- SLICE_REPORT (R77). At T − 20 µs each member sends READY or MISS to the coordinator. -/
  | sliceReport (lid : Nat)
  /-- READY (R77). The coordinator receives a member's READY or MISS report. -/
  | ready (hdr : FHdr) (slice : Nat) (ok : Bool)
  /-- SLICE_DECISION (R77). At T − 10 µs the coordinator sends GO, ABANDON or FAIL to every member. -/
  | sliceDecision (lid : Nat)
  /-- GO (R78). A member receives GO and starts its part at T or at once if late. -/
  | go (hdr : FHdr) (slice : Nat)
  /-- SLICE_START (R77). At fabric time T a member holding GO starts its part's units. -/
  | sliceStart (lid : Nat)
  /-- ABANDON (R78). A member receives ABANDON, drops its slice hold and resumes its victims. -/
  | abandon (hdr : FHdr) (slice : Nat)
  /-- FAIL (R79). A member receives FAIL and completes its part failed with STALE. -/
  | fail (hdr : FHdr) (slice : Nat)
  /-- SLICE_REOFFER (R78). An abandoned slice is offered again at T + 1 ms. -/
  | sliceReoffer (lid : Nat)
  /-- FABRIC_WRITE (R196). A target checks WR and writes a received write unit. -/
  | fabricWrite (rdie : Nat) (hdr : FHdr) (t : Target) (u : UnitAt) (data : List Byte)
  /-- FABRIC_ADD (R196). A target checks ADD and applies an element-wise atomic add once per sequence number. -/
  | fabricAdd (rdie : Nat) (hdr : FHdr) (t : Target) (u : UnitAt) (fp : Bool) (data : List Byte)
  /-- FETCH_ORDER (R198). An owner's responder checks RD and reads and sends source units to the recipients. -/
  | fetchOrder (rdie : Nat) (hdr : FHdr) (o : FetchOrder) (upto : Nat)
  /-- FETCH_UNIT (R198). A recipient checks LAND and writes a unit sent for a fetch. -/
  | fetchUnit (rdie : Nat) (hdr : FHdr) (o : FetchOrder) (off : Nat) (data : List Byte)
  /-- END (R198). The requester receives the owner's END with the unit count. -/
  | fetchEnd (hdr : FHdr) (endOff : Nat)
  /-- LANDED (R198). The requester receives a recipient's LANDED with its landed prefix. -/
  | landed (hdr : FHdr) (landedTo : Nat)
  /-- FABRIC_COMMIT (R198). A recipient receives COMMIT and adds LENGTH to its landing counter. -/
  | fabricCommit (rdie : Nat) (hdr : FHdr) (addr : W64) (length : Nat)
  /-- COMMITTED (R198). The requester receives COMMITTED and completes the fetch token when all have answered. -/
  | committed (hdr : FHdr)
  /-- FABRIC_STOP (R200). An owner receives STOP, sends no further units and sends END. -/
  | fabricStop (hdr : FHdr)
  /-- REPORT (R376). A recipient receives a REPORT order and answers with its landed prefix. -/
  | report (rdie : Nat) (hdr : FHdr) (resume endOff : Nat)
  /-- NEGATIVE_REPLY (R200). The requester receives a refusal or NACK and records its code and prefix. -/
  | negativeReply (hdr : FHdr) (code : Nat) (n : NakAt)
  /-- ACKNOWLEDGEMENT (R203). The requester receives a target's acknowledgement of a sent unit. -/
  | acknowledgement (hdr : FHdr) (off : Nat)
  /-- RESET_NOTICE (R204). A peer receives a die's new incarnation and completes affected commands with STALE. -/
  | resetNotice (pkg die inc : Nat)
  /-- PORT_LOSS (R205). A peer learns that a package's ports are down and treats it as a reset notice for all its dies. -/
  | portLoss (pkg : Nat)
  /-- NO_PROGRESS_TIMEOUT (R206). A buffer's 100 µs no-progress timer expires, the head packet is dropped and its sender gets NACK_TIMEOUT. -/
  | noProgressTimeout (buf : FabBuffer)
  /-- FABRIC_TIME (R208). A package synchronises to the domain's fabric time and FTIME becomes valid. -/
  | fabricTime (ns : Nat)
  /-- LINK_STEP (R22). A UCIe link steps its clock and opens a retraining window that holds its traffic. -/
  | linkStep (a b : Nat)
  /-- RETRAINING_WINDOW_CLOSE (R22). A retraining window closes and held packets leave in order. -/
  | retrainingWindowClose (a b : Nat)
  /-- HOST_ACCESS (R185). A host read or write of device memory takes its place in the global order at the line's home. -/
  | hostAccess (link die addr : Nat) (n : Nat) (wr : Option (List Byte))
  /-- CLAIM (R237). A write to CLAIM makes the writer owner if ownership is vacant. -/
  | claim (m : W16) (n : W64)
  /-- HANDOVER (R237). The owner records or cancels a pending handover to a successor. -/
  | handover (m : W16) (v : W64)
  /-- COMMIT (R237). The pending successor writing the nonce becomes owner. -/
  | commit (m : W16) (n : BitVec 48)
  /-- RELEASE (R237). The owner makes ownership vacant. -/
  | release (m : W16) (v : W64)
  /-- REGISTER_WRITE (R239). A write to a queue register without its own row, checked for owner, state, reserved bits and alignment. -/
  | registerWrite (m : W16) (off : Nat) (v : W64)
  /-- TAIL (R240). A write to TAIL raises the effective tail or is counted in STALECNT. -/
  | tail (m : W16) (q : Nat) (v : W64)
  /-- TAIL_WORD_READ (R240). The thread reads the tail word after a write to its line or every 2 µs and accepts or ignores its value. -/
  | tailWordRead (q : Nat)
  /-- QUEUE_ENABLE (R239). Writing EN = 1 starts, resumes or continues the queue thread and may open a phase. -/
  | queueEnable (m : W16) (q : Nat)
  /-- QUEUE_DISABLE (R239). Writing EN = 0 brings the queue to IDLE at the next packet boundary, ending its phase. -/
  | queueDisable (m : W16) (q : Nat)
  /-- STOP_PACKET (R243). The thread takes STOP and enters STOPPED. -/
  | stopPacket (q : Nat)
  /-- NOP_PACKET (R243). The thread takes a NOP packet with no effect. -/
  | nopPacket (q : Nat)
  /-- LAUNCH_PACKET (R243). The thread takes a LAUNCH packet, assigns a handle and outcome index and hands the launch to the Mordant. -/
  | launchPacket (q : Nat)
  /-- SLICE_LAUNCH (R244). The thread takes a LAUNCH packet with N = 1 naming a gang-slice block. -/
  | sliceLaunch (q : Nat)
  /-- GRAPH (R45). The thread takes a GRAPH packet and checks the graph block and tables. -/
  | graph (q : Nat)
  /-- WAIT_THRESHOLD (R243). A WAIT of kind 0 blocks the thread until a location reaches a threshold. -/
  | waitThreshold (q : Nat)
  /-- WAIT_QUEUE (R243). A WAIT of kind 1 blocks until every earlier launch, graph, resume and checkpoint of the queue is complete. -/
  | waitQueue (q : Nat)
  /-- WAIT_HANDLE (R243). A WAIT of kind 2 blocks until the entity of a handle is complete. -/
  | waitHandle (q : Nat)
  /-- WAIT_RELEASE (R243). A blocked WAIT's condition holds and the thread returns to RUN. -/
  | waitRelease (q : Nat)
  /-- SIGNAL_STORE (R243). A SIGNAL with N = 0 stores a value once in the global order. -/
  | signalStore (q : Nat)
  /-- SIGNAL_ADD (R243). A SIGNAL with N = 1 atomically adds a value once. -/
  | signalAdd (q : Nat)
  /-- CALL (R243). The thread executes a buffer of packets at the next nesting level. -/
  | call (q : Nat)
  /-- PRED (R243). Sets the queue predicate from a memory word. -/
  | pred (q : Nat)
  /-- LOOP_PACKET (R243). Executes a buffer of packets AUX times. -/
  | loopPacket (q : Nat)
  /-- FFENCE (R243). Discards packets read ahead. -/
  | ffence (q : Nat)
  /-- RESUME_PACKET (R231). Takes a RESUME packet that launches a unit from a detached image. -/
  | resumePacket (q : Nat)
  /-- CHKPT (R255). Waits for earlier work of the queue, then writes ranges to a safe-tier fabric target and blocks until acknowledged. -/
  | chkpt (q : Nat)
  /-- TIME_PACKET (R243). Stores FTIME at a location. -/
  | timePacket (q : Nat)
  /-- PHASE (R27). Ends the queue's current phase and opens the next when the spawn is allowed. -/
  | phase (q : Nat)
  /-- COAL_WINDOW_EXPIRY (R247). A coalescing window closes and one MSI-X message is sent for its events. -/
  | coalWindowExpiry (q : Nat)
  /-- JOB_OPEN (R248). Mailbox command that opens a job with its root table, page-fault setting, handler and save area. -/
  | jobOpen (m : W16) (ctx rootDie rootAddr pfh tvec sscr saveAddr saveLen : W64)
  /-- JOB_CLOSE (R248). Mailbox command that cancels a job and closes it when empty. -/
  | jobClose (m : W16) (ctx : W64)
  /-- FAT_SET (R248). Mailbox command that installs a fabric access table entry. -/
  | fatSet (m : W16) (index addr : W64)
  /-- GROUP_SET (R248). Mailbox command that installs a multicast group entry. -/
  | groupSet (m : W16) (gid ver addr count : W64)
  /-- KEY_LOAD (R248). Mailbox command that loads or empties an encryption key slot. -/
  | keyLoad (m : W16) (slot addr : W64)
  /-- FAULTREC (R218). Mailbox command that writes a launch's fault record. -/
  | faultrec (m : W16) (handle addr : W64)
  /-- IMAGES (R233). Mailbox command that lists a context's detached images. -/
  | images (m : W16) (ctx addr count : W64)
  /-- IMAGE_FREE (R233). Mailbox command that returns a detached image to the save area. -/
  | imageFree (m : W16) (ctx addr : W64)
  /-- FW_STAGE (R254). Mailbox command that verifies and holds a new firmware image. -/
  | fwStage (m : W16) (addr len : W64)
  /-- FW_COMMIT (R254). Mailbox command that switches the management harts to the staged firmware. -/
  | fwCommit (m : W16)
  /-- FW_ABORT (R254). Mailbox command that discards the staged firmware image. -/
  | fwAbort (m : W16)
  /-- HEAT_SET (R75). Management command that sets a die's heat allowance. -/
  | heatSet (m : W16) (die heat : W64)
  /-- PARTITION (R192). Management command that assigns the package to a fabric partition. -/
  | partition (m : W16) (pid : W64)
  /-- FORCE_RELEASE (R237). Management command that makes ownership vacant. -/
  | forceRelease (m : W16)
  /-- SCRUB (R252). Management command that latches a nonce and resets the module to run Whiting. -/
  | scrub (m : W16) (nonce : BitVec 256)
  /-- RECOVER (R251). Management command that latches recovery and resets the module. -/
  | recover (m : W16)
  /-- OPKEY (R250). Management command that provisions or clears the operator key hash. -/
  | opkey (m : W16) (hash : BitVec 256)
  /-- COUNTERS (R249). Command that writes the error-counter block. -/
  | counters (m : W16) (addr ctx : W64)
  /-- DIE_RESET (R14). Management command that resets one compute die. -/
  | dieReset (m : W16) (die : W64)
  /-- HANG_WATCHDOG (R14). A die's 10 ms hang watchdog expires and the die is reset on its own. -/
  | hangWatchdog (die : Nat)
  /-- FATAL_INTERNAL_ERROR (R14). A die reports an uncorrectable unconsumed error and is reset on its own. -/
  | fatalInternalError (die : Nat)
  /-- DIE_RESET_COMPLETE (R14). A reset die accepts placements again. -/
  | dieResetComplete (die : Nat)
  /-- MODULE_RESET (R12). All dies reset together, incarnations return to zero and the ROM boot runs. -/
  | moduleReset
  /-- POWER_UP (R251). A cold reset with no retained state other than flash and fuses. -/
  | powerUp
  /-- MGMT_IMAGE_RECEIVED (R250). A ROM waiting on the management interface receives an image to verify. -/
  | mgmtImageReceived (image : List Byte)
  /-- ATTESTATION_QUOTE (R254). An SPDM quote is sampled at one instant reporting the firmware in control. -/
  | attestationQuote (m : W16)
  /-- ARITHMETIC_CLOCK_STEP (R20). A compute die lowers its arithmetic clock when its draw exceeds the declared power class of its work, and raises it again, changing the rate at which CYCLE advances. -/
  | arithmeticClockStep (die ticks : Nat)
  /-- PORT_DOWN_PERIOD_END (R205). The 200 µs for which a module reset keeps the package's 36 ports down runs out, and the ports come up so that switches stop dropping packets addressed to them. -/
  | portDownPeriodEnd
  /-- POWER_LOSS (R251). Loss of the module's supply discards all state and clears the SCRUB and RECOVER latches, and fabric peers then see the loss of its ports. -/
  | powerLoss
  /-- WAIT_RE_READ (R380). A blocked WAIT of kind 0 rereads its location after a write to its line or at least every 2 µs, and a fault on that reread moves the queue from BLOCKED to FAULT. -/
  | waitReRead (q : Nat)
  /-- GANG_BARRIER_ARRIVAL (R289). The coordinator of a gang slice receives a member's barrier arrival, sent as a fabric write, and counts it towards the barrier generation. -/
  | gangBarrierArrival (hdr : FHdr) (slice bar : Nat)
  /-- GANG_BARRIER_COMPLETION (R289). A member package receives the coordinator's decision that a gang-scope barrier generation is complete and releases its waiting BARs. -/
  | gangBarrierCompletion (hdr : FHdr) (slice bar : Nat)
  /-- MAILBOX_COMMAND_DONE (R248). A running mailbox command finishes, so STATUS leaves busy (0) with its result and the next doorbell can be accepted. -/
  | mailboxCommandDone
deriving DecidableEq, Repr

end Sys2Proof
end

