-- ==== Sys2Proof/WellFormed.lean ====
section
/-! DEFINITION. Which terms of `Instr` an instruction word can stand for: the values that the opcode map and the
reference entries exclude (R261 step 2). What a field's type already excludes (reserved tags, rounding modes,
conditions, register numbers) needs no check here. -/
namespace Sys2Proof

/-- Tags of the floating vector operations' FMT (R342). -/
def Tag.isFloat : Tag → Bool
  | .fp32 | .bf16 | .fp16 => true
  | _ => false

/-- Tags without side fields, which VBC, VCVT, VLDX and VSTX accept (R344, R346, R347). -/
def Tag.isPlain : Tag → Bool
  | .i32 | .w32 | .fp32 | .bf16 | .fp16 | .e4m3 | .e5m2 => true
  | _ => false

/-- Tags that VQNT produces (R349). -/
def Tag.isQuant : Tag → Bool
  | .e2m1 | .qc4 | .ob8 | .ob4 => true
  | _ => false

/-- HINT values 0 to 11 name a die and 15 names none (R16, R264). -/
def hintOk (h : BitVec 4) : Bool := h.toNat < 12 || h.toNat == 15

/-- SZ with sign extension at size 8 is ILLEGAL (R264). -/
def loadSizeOk (sz : BitVec 2) (sgn : Bool) : Bool := !(sz == 3#2 && sgn)

/-- The control register numbers of R219. -/
def ctrlListed (n : BitVec 12) : Bool :=
  let k := n.toNat
  k ≤ 0x00B || (0x010 ≤ k && k ≤ 0x025) || k == 0x030 || k == 0x031 || (0x100 ≤ k && k ≤ 0x108)

/-- KO of an engine command or a TJOIN is not k0 (R115). -/
def koOk (k : KNum) : Bool := k != 0#5

/-- True for the constructors that an instruction word stands for. -/
def Instr.isWord : Instr → Bool
  | .aclr .. => true
  | .add .. => true
  | .and .. => true
  | .andn .. => true
  | .addi .. => true
  | .andi .. => true
  | .adrain .. => true
  | .amo .. => true
  | .aq .. => true
  | .arel .. => true
  | .arrive .. => true
  | .aswap .. => true
  | .bar .. => true
  | .br .. => true
  | .brl .. => true
  | .cancel .. => true
  | .cas .. => true
  | .chain .. => true
  | .clz .. => true
  | .cmp .. => true
  | .cmpi .. => true
  | .div .. => true
  | .divu .. => true
  | .edge .. => true
  | .eret .. => true
  | .exit .. => true
  | .ext .. => true
  | .fence .. => true
  | .ffuse .. => true
  | .fsplit .. => true
  | .gcfg .. => true
  | .gspill .. => true
  | .gstart .. => true
  | .gstop .. => true
  | .jr .. => true
  | .jrl .. => true
  | .kwatch .. => true
  | .launch .. => true
  | .ld .. => true
  | .st .. => true
  | .ldv .. => true
  | .stv .. => true
  | .li .. => true
  | .lih .. => true
  | .loop .. => true
  | .max .. => true
  | .maxu .. => true
  | .min .. => true
  | .minu .. => true
  | .mfc .. => true
  | .mtc .. => true
  | .mlog .. => true
  | .mma .. => true
  | .mul .. => true
  | .mulh .. => true
  | .mulhu .. => true
  | .nop .. => true
  | .or .. => true
  | .ori .. => true
  | .popc .. => true
  | .pset .. => true
  | .qmark .. => true
  | .rem .. => true
  | .remu .. => true
  | .sel .. => true
  | .shl .. => true
  | .shr .. => true
  | .shra .. => true
  | .shli .. => true
  | .shri .. => true
  | .shrai .. => true
  | .strm .. => true
  | .sub .. => true
  | .sys .. => true
  | .tjoin .. => true
  | .tstat .. => true
  | .twait .. => true
  | .trapf .. => true
  | .unchain .. => true
  | .vadd .. => true
  | .vsub .. => true
  | .vmul .. => true
  | .vfma .. => true
  | .vmin .. => true
  | .vmax .. => true
  | .vabs .. => true
  | .vneg .. => true
  | .vrcp .. => true
  | .vrsq .. => true
  | .vexp .. => true
  | .vlog .. => true
  | .viadd .. => true
  | .visub .. => true
  | .vimul .. => true
  | .vand .. => true
  | .vor .. => true
  | .vxor .. => true
  | .vshl .. => true
  | .vshr .. => true
  | .vshra .. => true
  | .vbc .. => true
  | .vcmp .. => true
  | .vcvt .. => true
  | .vldx .. => true
  | .vstx .. => true
  | .vperm .. => true
  | .vqnt .. => true
  | .vred .. => true
  | .vsel .. => true
  | .vtag .. => true
  | .vtagRead .. => true
  | .vxtr .. => true
  | .waitge .. => true
  | .wload .. => true
  | .wswap .. => true
  | .xcast .. => true
  | .xcopy .. => true
  | .xred .. => true
  | .xfetch .. => true
  | .xsend .. => true
  | .xor .. => true
  | .xori .. => true
  | .yield .. => true
  | _ => false

/-- The word checks of R261 step 2 that the operand types leave open. -/
def Instr.wf : Instr → Bool
  | .aclr _ ko _ _ _ _ _ => koOk ko
  | .adrain _ ko _ _ _ _ _ _ => koOk ko
  | .amo _ _ _ _ c op _ => op == .badd || c == 0#6
  | .arrive _ ko _ _ _ _ _ => koOk ko
  | .aswap _ ko _ _ _ _ => koOk ko
  | .chain _ _ spill off => spill || off == 0#28
  | .cmp _ d _ _ _ => d != 0#3
  | .cmpi _ d _ _ _ => d != 0#3
  | .edge _ ko _ _ _ _ _ => koOk ko
  | .gcfg _ ko _ _ _ _ => koOk ko
  | .gspill _ ko _ _ _ _ => koOk ko
  | .gstart _ ko _ _ _ => koOk ko
  | .gstop _ ko _ _ _ => koOk ko
  | .jr _ _ off => off.toNat % 8 == 0
  | .jrl _ _ off => off.toNat % 8 == 0
  | .kwatch _ ko _ _ _ _ _ => koOk ko
  | .launch _ ko _ _ _ _ => koOk ko
  | .ld _ _ _ sz sgn hint _ => loadSizeOk sz sgn && hintOk hint
  | .ldv _ _ _ tag hint _ => tag != .invalid && hintOk hint
  | .stv _ _ _ tag _ => tag != .invalid
  | .loop _ a _ => a != 0#6
  | .mfc _ _ num => ctrlListed num
  | .mtc _ _ num => ctrlListed num
  | .mma _ ko _ _ _ ga _ _ chn rag cin set => koOk ko && !(rag && cin) && !(set && chn) && !(cin && ga != 0#6)
  | .pset _ d _ _ _ => d != 0#3
  | .strm _ ko _ _ _ _ _ => koOk ko
  | .tjoin _ ko _ _ _ => koOk ko
  | .vadd _ _ _ _ fmt _ _ _ => fmt.isFloat
  | .vsub _ _ _ _ fmt _ _ _ => fmt.isFloat
  | .vmul _ _ _ _ fmt _ _ _ => fmt.isFloat
  | .vfma _ _ _ _ _ fmt _ _ _ => fmt.isFloat
  | .vmin _ _ _ _ fmt _ _ _ => fmt.isFloat
  | .vmax _ _ _ _ fmt _ _ _ => fmt.isFloat
  | .vabs _ _ _ fmt _ _ _ => fmt.isFloat
  | .vneg _ _ _ fmt _ _ _ => fmt.isFloat
  | .vrcp _ _ _ fmt _ _ _ => fmt.isFloat
  | .vrsq _ _ _ fmt _ _ _ => fmt.isFloat
  | .vexp _ _ _ fmt _ _ _ => fmt.isFloat
  | .vlog _ _ _ fmt _ _ _ => fmt.isFloat
  | .vbc _ _ _ fmt _ => fmt.isPlain
  | .vcvt _ _ _ fmt _ _ _ => fmt.isPlain
  | .vldx _ _ _ _ fmt _ => fmt.isPlain
  | .vstx _ _ _ _ fmt _ => fmt.isPlain
  | .vqnt _ _ _ fmt _ _ _ => fmt.isQuant
  | .waitge _ _ _ sz sgn hint _ => loadSizeOk sz sgn && hintOk hint
  | .wload _ ko _ _ _ _ _ _ => koOk ko
  | .wswap _ ko _ _ _ _ => koOk ko
  | .xcast _ ko _ _ _ _ _ _ => koOk ko
  | .xcopy _ ko _ _ _ _ _ _ => koOk ko
  | .xred _ ko _ _ _ _ _ _ => koOk ko
  | .xfetch _ ko _ _ _ _ => koOk ko
  | .xsend _ ko _ _ _ _ _ _ _ => koOk ko
  | i => i.isWord

end Sys2Proof
end

