-- ==== Sys2Proof/Decode.lean ====
section
/-! DEFINITION. Instruction words (R256, R259 to R264), the decoder and the encoder, and the reading of a command
packet (R243). A word is accepted exactly when it is the encoding of a well-formed instruction: every bit that R259,
R260, the opcode map or the entry requires to be zero is zero (R261 step 2). -/
namespace Sys2Proof

/-- Why a word raises ILLEGAL (R261). -/
inductive DecodeError where
  /-- OP or SUB is reserved, or a field holds a reserved code. -/
  | reservedCode
  /-- A field that must be zero is not zero. -/
  | nonZeroField
  /-- A field holds a value that the map or the entry excludes. -/
  | excludedValue
  /-- Fewer than eight bytes. -/
  | shortWord
deriving DecidableEq, Repr

def Tag.bits : Tag → BitVec 4
  | .i32 => 0 | .w32 => 1 | .fp32 => 2 | .bf16 => 3 | .fp16 => 4 | .e4m3 => 5 | .e5m2 => 6 | .e2m1 => 7
  | .qc4 => 8 | .ob8 => 9 | .ob4 => 10 | .invalid => 15

/-- Tags by code; 0xB to 0xE are reserved (R143). -/
def Tag.ofBits? (b : BitVec 4) : Option Tag :=
  match b.toNat with
  | 0 => some .i32 | 1 => some .w32 | 2 => some .fp32 | 3 => some .bf16 | 4 => some .fp16 | 5 => some .e4m3
  | 6 => some .e5m2 | 7 => some .e2m1 | 8 => some .qc4 | 9 => some .ob8 | 10 => some .ob4 | 15 => some .invalid
  | _ => none

def Rm.bits : Rm → BitVec 3
  | .rne => 0 | .rtz => 1 | .rdn => 2 | .rup => 3 | .rna => 4 | .dyn => 7

/-- Rounding modes by code; 5 and 6 are reserved (R151). -/
def Rm.ofBits? (b : BitVec 3) : Option Rm :=
  match b.toNat with
  | 0 => some .rne | 1 => some .rtz | 2 => some .rdn | 3 => some .rup | 4 => some .rna | 7 => some .dyn
  | _ => none

def Cond.bits : Cond → BitVec 8
  | .eq => 0 | .ne => 1 | .lt => 2 | .ge => 3 | .ltu => 4 | .geu => 5

def Cond.ofBits? (b : BitVec 8) : Option Cond :=
  match b.toNat with
  | 0 => some .eq | 1 => some .ne | 2 => some .lt | 3 => some .ge | 4 => some .ltu | 5 => some .geu
  | _ => none

def VCond.bits : VCond → BitVec 8
  | .eq => 0 | .ne => 1 | .lt => 2 | .le => 3 | .gt => 4 | .ge => 5 | .unord => 6

def VCond.ofBits? (b : BitVec 8) : Option VCond :=
  match b.toNat with
  | 0 => some .eq | 1 => some .ne | 2 => some .lt | 3 => some .le | 4 => some .gt | 5 => some .ge | 6 => some .unord
  | _ => none

def AmoOp.bits : AmoOp → BitVec 8
  | .add => 0 | .and => 1 | .or => 2 | .xor => 3 | .min => 4 | .max => 5 | .minu => 6 | .maxu => 7 | .xchg => 8
  | .badd => 9

def AmoOp.ofBits? (b : BitVec 8) : Option AmoOp :=
  match b.toNat with
  | 0 => some .add | 1 => some .and | 2 => some .or | 3 => some .xor | 4 => some .min | 5 => some .max
  | 6 => some .minu | 7 => some .maxu | 8 => some .xchg | 9 => some .badd
  | _ => none

def RedOp.bits : RedOp → BitVec 8
  | .sum => 0 | .max => 1 | .min => 2

def RedOp.ofBits? (b : BitVec 8) : Option RedOp :=
  match b.toNat with
  | 0 => some .sum | 1 => some .max | 2 => some .min
  | _ => none

def BarMode.bits : BarMode → BitVec 2
  | .both => 0 | .arrive => 1 | .wait => 2

def BarMode.ofBits? (b : BitVec 2) : Option BarMode :=
  match b.toNat with
  | 0 => some .both | 1 => some .arrive | 2 => some .wait
  | _ => none

def BarScope.bits : BarScope → BitVec 3
  | .comp => 0 | .launch => 1 | .gang => 2

def BarScope.ofBits? (b : BitVec 3) : Option BarScope :=
  match b.toNat with
  | 0 => some .comp | 1 => some .launch | 2 => some .gang
  | _ => none

def Level.bits : Level → BitVec 2
  | .launch => 0 | .graph => 1 | .phase => 2 | .job => 3

def Level.ofBits (b : BitVec 2) : Level :=
  match b.toNat with
  | 0 => .launch | 1 => .graph | 2 => .phase | _ => .job

def ExtW.bits : ExtW → BitVec 2
  | .b => 0 | .h => 1 | .w => 2

def ExtW.ofBits? (b : BitVec 2) : Option ExtW :=
  match b.toNat with
  | 0 => some .b | 1 => some .h | 2 => some .w
  | _ => none

/-! ## Fields (R259) -/

def fOp (w : W64) : BitVec 8 := w.extractLsb' 56 8
def fGuard (w : W64) : Guard := ⟨w.extractLsb' 53 3, w.getLsbD 52⟩
/-- D of formats A, I, M and S; A of format B. -/
def fD (w : W64) : BitVec 6 := w.extractLsb' 46 6
def fA (w : W64) : BitVec 6 := w.extractLsb' 40 6
def fB (w : W64) : BitVec 6 := w.extractLsb' 34 6
def fC (w : W64) : BitVec 6 := w.extractLsb' 28 6
def fSub (w : W64) : BitVec 8 := w.extractLsb' 20 8
def fFmt (w : W64) : BitVec 4 := w.extractLsb' 16 4
def fRm (w : W64) : BitVec 3 := w.extractLsb' 13 3
def fSat (w : W64) : Bool := w.getLsbD 12
def fMod (w : W64) : BitVec 4 := w.extractLsb' 8 4
/-- SUB of formats I and B. -/
def fSubI (w : W64) : BitVec 8 := w.extractLsb' 32 8
/-- IMM32 and OFF32. -/
def fImm (w : W64) : W32 := w.extractLsb' 0 32
def fSz (w : W64) : BitVec 4 := w.extractLsb' 36 4
def fHint (w : W64) : BitVec 4 := w.extractLsb' 32 4
def fKo (w : W64) : BitVec 5 := w.extractLsb' 47 5
def fKa (w : W64) : BitVec 5 := w.extractLsb' 42 5
def fKb (w : W64) : BitVec 5 := w.extractLsb' 37 5
def fKc (w : W64) : BitVec 5 := w.extractLsb' 32 5
def fGa (w : W64) : BitVec 6 := w.extractLsb' 26 6
def fGb (w : W64) : BitVec 6 := w.extractLsb' 20 6
def fSubE (w : W64) : BitVec 8 := w.extractLsb' 12 8
def fFl (w : W64) : BitVec 12 := w.extractLsb' 0 12
def fSel (w : W64) : BitVec 12 := w.extractLsb' 28 12
def fImm28 (w : W64) : BitVec 28 := w.extractLsb' 0 28
/-- A six-bit field read as a vector register (R260). -/
def v5 (x : BitVec 6) : VNum := x.extractLsb' 0 5
/-- A six-bit field read as a predicate or mask register (R260). -/
def p3 (x : BitVec 6) : BitVec 3 := x.extractLsb' 0 3
def vf (v : VNum) : BitVec 6 := 0#1 ++ v
def pf (p : BitVec 3) : BitVec 6 := 0#3 ++ p
/-- MOD of the masked operations: MOD[3] enables, MOD[2:0] names the mask register (R263). -/
def maskOf (m : BitVec 4) : Option MNum := if m.getLsbD 3 then some (m.extractLsb' 0 3) else none
def modBits : Option MNum → BitVec 4
  | none => 0#4
  | some m => 1#1 ++ m
def bit (b : Bool) : BitVec 1 := BitVec.ofBool b
def wideMod (b : Bool) : BitVec 4 := 0#3 ++ bit b
def extMod (x : ExtW) (sgn : Bool) : BitVec 4 := 0#1 ++ bit sgn ++ x.bits
def szBits (sz : BitVec 2) (s : Bool) : BitVec 4 := 0#1 ++ bit s ++ sz
def fenceSel (wc sys eng ifetch : Bool) : BitVec 12 := 0#8 ++ bit ifetch ++ bit eng ++ bit sys ++ bit wc
def boolSel (b : Bool) : BitVec 12 := 0#11 ++ bit b
def barSel (m : BarMode) (s : BarScope) : BitVec 12 := 0#7 ++ s.bits ++ m.bits
def bgFl (bg : Bool) : BitVec 12 := 0#11 ++ bit bg
def mmaFl (bg chn rag cin set : Bool) : BitVec 12 := 0#7 ++ bit set ++ bit cin ++ bit rag ++ bit chn ++ bit bg
/-- FL of the copy commands: FL[5] is RES, FL[11:6] the resume register (R121). -/
def resFl : Option GReg → BitVec 12
  | none => 0#12
  | some r => r ++ 1#1 ++ 0#5
def resOf (fl : BitVec 12) : Option GReg := if fl.getLsbD 5 then some (fl.extractLsb' 6 6) else none
/-- FL of XSEND: as the copies, with `.add` in FL[1] (R195). -/
def sendFl (add : Bool) : Option GReg → BitVec 12
  | none => 0#10 ++ bit add ++ 0#1
  | some r => r ++ 1#1 ++ 0#3 ++ bit add ++ 0#1

/-! ## Words by format (R259) -/

def head (op : BitVec 8) (gd : Guard) : BitVec 12 := op ++ gd.gp ++ bit gd.gn

def wordA (op : BitVec 8) (gd : Guard) (d a b c : BitVec 6) (sub : BitVec 8) (fmt : BitVec 4) (rm : BitVec 3)
    (sat : Bool) (mod : BitVec 4) : W64 :=
  head op gd ++ d ++ a ++ b ++ c ++ sub ++ fmt ++ rm ++ bit sat ++ mod ++ 0#8

def wordI (op : BitVec 8) (gd : Guard) (d a : BitVec 6) (sub : BitVec 8) (imm : W32) : W64 :=
  head op gd ++ d ++ a ++ sub ++ imm

def wordM (op : BitVec 8) (gd : Guard) (d a : BitVec 6) (sz hint : BitVec 4) (off : W32) : W64 :=
  head op gd ++ d ++ a ++ sz ++ hint ++ off

def wordB (op : BitVec 8) (gd : Guard) (a : BitVec 6) (off : W32) : W64 :=
  head op gd ++ a ++ 0#6 ++ 0#8 ++ off

def wordE (op : BitVec 8) (gd : Guard) (ko ka kb kc : BitVec 5) (ga gb : BitVec 6) (sub : BitVec 8)
    (fl : BitVec 12) : W64 :=
  head op gd ++ ko ++ ka ++ kb ++ kc ++ ga ++ gb ++ sub ++ fl

def wordS (op : BitVec 8) (gd : Guard) (d a : BitVec 6) (sel : BitVec 12) (imm : BitVec 28) : W64 :=
  head op gd ++ d ++ a ++ sel ++ imm

/-- The word of an instruction, from the encoding tables of R259 and R262 and the reference entries; the steps of
the other agents have no word. -/
def encode : Instr → Option W64
  | .aclr gd ko ka kb kc gb bg => some (wordE 0x40#8 gd ko ka kb kc 0#6 gb 0x04#8 (bgFl bg))
  | .add gd d a b => some (wordA 0x08#8 gd d a b 0#6 0x00#8 0#4 0#3 false 0#4)
  | .and gd d a b => some (wordA 0x08#8 gd d a b 0#6 0x10#8 0#4 0#3 false 0#4)
  | .andn gd d a b => some (wordA 0x08#8 gd d a b 0#6 0x13#8 0#4 0#3 false 0#4)
  | .addi gd d a imm => some (wordI 0x09#8 gd d a 0x00#8 imm)
  | .andi gd d a imm => some (wordI 0x09#8 gd d a 0x10#8 imm)
  | .adrain gd ko ka kb kc ga gb bg => some (wordE 0x40#8 gd ko ka kb kc ga gb 0x05#8 (bgFl bg))
  | .amo gd d a b c op wide => some (wordA 0x28#8 gd d a b c (op.bits) 0#4 0#3 false (wideMod wide))
  | .aq gd => some (wordS 0x45#8 gd 0#6 0#6 0#12 0#28)
  | .arel gd => some (wordS 0x46#8 gd 0#6 0#6 0#12 0#28)
  | .arrive gd ko ka kb kc ga gb => some (wordE 0x51#8 gd ko ka kb kc ga gb 0x00#8 0#12)
  | .aswap gd ko ka kb kc bg => some (wordE 0x40#8 gd ko ka kb kc 0#6 0#6 0x03#8 (bgFl bg))
  | .bar gd mode scope id => some (wordS 0x50#8 gd 0#6 0#6 (barSel mode scope) (0#24 ++ id))
  | .br gd off => some (wordB 0x10#8 gd 0#6 off)
  | .brl gd off => some (wordB 0x11#8 gd 0#6 off)
  | .cancel gd a lvl => some (wordS 0x53#8 gd 0#6 a (0#10 ++ lvl.bits) 0#28)
  | .cas gd d a b c wide => some (wordA 0x29#8 gd d a b c 0#8 0#4 0#3 false (wideMod wide))
  | .chain gd a spill off => some (wordS 0x43#8 gd 0#6 a (boolSel spill) off)
  | .clz gd d a => some (wordA 0x08#8 gd d a 0#6 0#6 0x28#8 0#4 0#3 false 0#4)
  | .cmp gd d a b cond => some (wordA 0x0A#8 gd (pf d) a b 0#6 (cond.bits) 0#4 0#3 false 0#4)
  | .cmpi gd d a cond imm => some (wordI 0x0B#8 gd (pf d) a (cond.bits) imm)
  | .div gd d a b => some (wordA 0x08#8 gd d a b 0#6 0x05#8 0#4 0#3 false 0#4)
  | .divu gd d a b => some (wordA 0x08#8 gd d a b 0#6 0x06#8 0#4 0#3 false 0#4)
  | .edge gd ko ka kb kc ga bg => some (wordE 0x40#8 gd ko ka kb kc ga 0#6 0x06#8 (bgFl bg))
  | .eret gd => some (wordS 0x58#8 gd 0#6 0#6 0#12 0#28)
  | .exit gd mask => some (wordS 0x55#8 gd 0#6 0#6 0#12 (0#22 ++ mask))
  | .ext gd d a width sgn => some (wordA 0x08#8 gd d a 0#6 0#6 0x2A#8 0#4 0#3 false (extMod width sgn))
  | .fence gd wc sys eng ifetch => some (wordS 0x2A#8 gd 0#6 0#6 (fenceSel wc sys eng ifetch) 0#28)
  | .ffuse gd => some (wordS 0x42#8 gd 0#6 0#6 0#12 0#28)
  | .fsplit gd d a col => some (wordS 0x41#8 gd d a (boolSel col) 0#28)
  | .gcfg gd ko ka kb kc ga => some (wordE 0x4C#8 gd ko ka kb kc ga 0#6 0x00#8 0#12)
  | .gspill gd ko ka kb kc ga => some (wordE 0x4C#8 gd ko ka kb kc ga 0#6 0x03#8 0#12)
  | .gstart gd ko ka kb kc => some (wordE 0x4C#8 gd ko ka kb kc 0#6 0#6 0x01#8 0#12)
  | .gstop gd ko ka kb kc => some (wordE 0x4C#8 gd ko ka kb kc 0#6 0#6 0x02#8 0#12)
  | .jr gd a off => some (wordB 0x12#8 gd a off)
  | .jrl gd a off => some (wordB 0x13#8 gd a off)
  | .kwatch gd ko ka kb kc ga gb => some (wordE 0x2C#8 gd ko ka kb kc ga gb 0x00#8 0#12)
  | .launch gd ko ka kb kc ga => some (wordE 0x52#8 gd ko ka kb kc ga 0#6 0x00#8 0#12)
  | .ld gd d a sz sgn hint off => some (wordM 0x20#8 gd d a (szBits sz sgn) hint off)
  | .st gd d a sz sys off => some (wordM 0x21#8 gd d a (szBits sz sys) 15#4 off)
  | .ldv gd d a tag hint off => some (wordM 0x22#8 gd (vf d) a (tag.bits) hint off)
  | .stv gd d a tag off => some (wordM 0x23#8 gd (vf d) a (tag.bits) 15#4 off)
  | .li gd d imm => some (wordI 0x09#8 gd d 0#6 0x40#8 imm)
  | .lih gd d a imm => some (wordI 0x09#8 gd d a 0x41#8 imm)
  | .loop gd a off => some (wordB 0x14#8 gd a off)
  | .max gd d a b => some (wordA 0x08#8 gd d a b 0#6 0x22#8 0#4 0#3 false 0#4)
  | .maxu gd d a b => some (wordA 0x08#8 gd d a b 0#6 0x23#8 0#4 0#3 false 0#4)
  | .min gd d a b => some (wordA 0x08#8 gd d a b 0#6 0x20#8 0#4 0#3 false 0#4)
  | .minu gd d a b => some (wordA 0x08#8 gd d a b 0#6 0x21#8 0#4 0#3 false 0#4)
  | .mfc gd d num => some (wordS 0x59#8 gd d 0#6 num 0#28)
  | .mtc gd a num => some (wordS 0x5A#8 gd 0#6 a num 0#28)
  | .mlog gd d a b tbl => some (wordA 0x3A#8 gd (pf d) (pf a) (pf b) 0#6 (0#4 ++ tbl) 0#4 0#3 false 0#4)
  | .mma gd ko ka kb kc ga gb bg chain rag cin set => some (wordE 0x40#8 gd ko ka kb kc ga gb 0x02#8 (mmaFl bg chain rag cin set))
  | .mul gd d a b => some (wordA 0x08#8 gd d a b 0#6 0x02#8 0#4 0#3 false 0#4)
  | .mulh gd d a b => some (wordA 0x08#8 gd d a b 0#6 0x03#8 0#4 0#3 false 0#4)
  | .mulhu gd d a b => some (wordA 0x08#8 gd d a b 0#6 0x04#8 0#4 0#3 false 0#4)
  | .nop gd => some (wordS 0x01#8 gd 0#6 0#6 0#12 0#28)
  | .or gd d a b => some (wordA 0x08#8 gd d a b 0#6 0x11#8 0#4 0#3 false 0#4)
  | .ori gd d a imm => some (wordI 0x09#8 gd d a 0x11#8 imm)
  | .popc gd d a => some (wordA 0x08#8 gd d a 0#6 0#6 0x29#8 0#4 0#3 false 0#4)
  | .pset gd d a b tbl => some (wordA 0x0C#8 gd (pf d) (pf a) (pf b) 0#6 (0#4 ++ tbl) 0#4 0#3 false 0#4)
  | .qmark gd mask => some (wordS 0x5B#8 gd 0#6 0#6 0#12 (0#22 ++ mask))
  | .rem gd d a b => some (wordA 0x08#8 gd d a b 0#6 0x07#8 0#4 0#3 false 0#4)
  | .remu gd d a b => some (wordA 0x08#8 gd d a b 0#6 0x08#8 0#4 0#3 false 0#4)
  | .sel gd d a b c => some (wordA 0x08#8 gd d a b (pf c) 0x30#8 0#4 0#3 false 0#4)
  | .shl gd d a b => some (wordA 0x08#8 gd d a b 0#6 0x18#8 0#4 0#3 false 0#4)
  | .shr gd d a b => some (wordA 0x08#8 gd d a b 0#6 0x19#8 0#4 0#3 false 0#4)
  | .shra gd d a b => some (wordA 0x08#8 gd d a b 0#6 0x1A#8 0#4 0#3 false 0#4)
  | .shli gd d a sh => some (wordI 0x09#8 gd d a 0x18#8 (0#26 ++ sh))
  | .shri gd d a sh => some (wordI 0x09#8 gd d a 0x19#8 (0#26 ++ sh))
  | .shrai gd d a sh => some (wordI 0x09#8 gd d a 0x1A#8 (0#26 ++ sh))
  | .strm gd ko ka kb kc ga gb => some (wordE 0x48#8 gd ko ka kb kc ga gb 0x05#8 0#12)
  | .sub gd d a b => some (wordA 0x08#8 gd d a b 0#6 0x01#8 0#4 0#3 false 0#4)
  | .sys gd code => some (wordS 0x57#8 gd 0#6 0#6 0#12 code)
  | .tjoin gd ko ka kb kc => some (wordE 0x49#8 gd ko ka kb kc 0#6 0#6 0x01#8 0#12)
  | .tstat gd d ka => some (wordE 0x49#8 gd 0#5 ka 0#5 0#5 d 0#6 0x02#8 0#12)
  | .twait gd ka kb kc => some (wordE 0x49#8 gd 0#5 ka kb kc 0#6 0#6 0x00#8 0#12)
  | .trapf gd => some (wordS 0x56#8 gd 0#6 0#6 0#12 0#28)
  | .unchain gd => some (wordS 0x44#8 gd 0#6 0#6 0#12 0#28)
  | .vadd gd d a b fmt rm sat mk => some (wordA 0x30#8 gd (vf d) (vf a) (vf b) 0#6 0x00#8 (fmt.bits) (rm.bits) sat (modBits mk))
  | .vsub gd d a b fmt rm sat mk => some (wordA 0x30#8 gd (vf d) (vf a) (vf b) 0#6 0x01#8 (fmt.bits) (rm.bits) sat (modBits mk))
  | .vmul gd d a b fmt rm sat mk => some (wordA 0x30#8 gd (vf d) (vf a) (vf b) 0#6 0x02#8 (fmt.bits) (rm.bits) sat (modBits mk))
  | .vfma gd d a b c fmt rm sat mk => some (wordA 0x30#8 gd (vf d) (vf a) (vf b) (vf c) 0x03#8 (fmt.bits) (rm.bits) sat (modBits mk))
  | .vmin gd d a b fmt rm sat mk => some (wordA 0x30#8 gd (vf d) (vf a) (vf b) 0#6 0x04#8 (fmt.bits) (rm.bits) sat (modBits mk))
  | .vmax gd d a b fmt rm sat mk => some (wordA 0x30#8 gd (vf d) (vf a) (vf b) 0#6 0x05#8 (fmt.bits) (rm.bits) sat (modBits mk))
  | .vabs gd d a fmt rm sat mk => some (wordA 0x30#8 gd (vf d) (vf a) 0#6 0#6 0x06#8 (fmt.bits) (rm.bits) sat (modBits mk))
  | .vneg gd d a fmt rm sat mk => some (wordA 0x30#8 gd (vf d) (vf a) 0#6 0#6 0x07#8 (fmt.bits) (rm.bits) sat (modBits mk))
  | .vrcp gd d a fmt rm sat mk => some (wordA 0x30#8 gd (vf d) (vf a) 0#6 0#6 0x08#8 (fmt.bits) (rm.bits) sat (modBits mk))
  | .vrsq gd d a fmt rm sat mk => some (wordA 0x30#8 gd (vf d) (vf a) 0#6 0#6 0x09#8 (fmt.bits) (rm.bits) sat (modBits mk))
  | .vexp gd d a fmt rm sat mk => some (wordA 0x30#8 gd (vf d) (vf a) 0#6 0#6 0x0A#8 (fmt.bits) (rm.bits) sat (modBits mk))
  | .vlog gd d a fmt rm sat mk => some (wordA 0x30#8 gd (vf d) (vf a) 0#6 0#6 0x0B#8 (fmt.bits) (rm.bits) sat (modBits mk))
  | .viadd gd d a b mk => some (wordA 0x31#8 gd (vf d) (vf a) (vf b) 0#6 0x00#8 0#4 0#3 false (modBits mk))
  | .visub gd d a b mk => some (wordA 0x31#8 gd (vf d) (vf a) (vf b) 0#6 0x01#8 0#4 0#3 false (modBits mk))
  | .vimul gd d a b mk => some (wordA 0x31#8 gd (vf d) (vf a) (vf b) 0#6 0x02#8 0#4 0#3 false (modBits mk))
  | .vand gd d a b mk => some (wordA 0x31#8 gd (vf d) (vf a) (vf b) 0#6 0x10#8 0#4 0#3 false (modBits mk))
  | .vor gd d a b mk => some (wordA 0x31#8 gd (vf d) (vf a) (vf b) 0#6 0x11#8 0#4 0#3 false (modBits mk))
  | .vxor gd d a b mk => some (wordA 0x31#8 gd (vf d) (vf a) (vf b) 0#6 0x12#8 0#4 0#3 false (modBits mk))
  | .vshl gd d a b mk => some (wordA 0x31#8 gd (vf d) (vf a) (vf b) 0#6 0x18#8 0#4 0#3 false (modBits mk))
  | .vshr gd d a b mk => some (wordA 0x31#8 gd (vf d) (vf a) (vf b) 0#6 0x19#8 0#4 0#3 false (modBits mk))
  | .vshra gd d a b mk => some (wordA 0x31#8 gd (vf d) (vf a) (vf b) 0#6 0x1A#8 0#4 0#3 false (modBits mk))
  | .vbc gd d a fmt mk => some (wordA 0x37#8 gd (vf d) a 0#6 0#6 0#8 (fmt.bits) 0#3 false (modBits mk))
  | .vcmp gd d a b cond => some (wordA 0x33#8 gd (pf d) (vf a) (vf b) 0#6 (cond.bits) 0#4 0#3 false 0#4)
  | .vcvt gd d a fmt rm sat mk => some (wordA 0x32#8 gd (vf d) (vf a) 0#6 0#6 0#8 (fmt.bits) (rm.bits) sat (modBits mk))
  | .vldx gd d a b fmt mk => some (wordA 0x24#8 gd (vf d) a (vf b) 0#6 0#8 (fmt.bits) 0#3 false (modBits mk))
  | .vstx gd d a b fmt mk => some (wordA 0x25#8 gd (vf d) a (vf b) 0#6 0#8 (fmt.bits) 0#3 false (modBits mk))
  | .vperm gd d a b mk => some (wordA 0x36#8 gd (vf d) (vf a) (vf b) 0#6 0#8 0#4 0#3 false (modBits mk))
  | .vqnt gd d a fmt rm sat mk => some (wordA 0x39#8 gd (vf d) (vf a) 0#6 0#6 0#8 (fmt.bits) (rm.bits) sat (modBits mk))
  | .vred gd d a op rm => some (wordA 0x35#8 gd d (vf a) 0#6 0#6 (op.bits) 0#4 (rm.bits) false 0#4)
  | .vsel gd d a b c => some (wordA 0x34#8 gd (vf d) (vf a) (vf b) (pf c) 0#8 0#4 0#3 false 0#4)
  | .vtag gd d a tag => some (wordA 0x3B#8 gd (vf d) (vf a) 0#6 0#6 0#8 (tag.bits) 0#3 false 0#4)
  | .vtagRead gd d a => some (wordA 0x3B#8 gd d (vf a) 0#6 0#6 0x01#8 0#4 0#3 false 0#4)
  | .vxtr gd d a b => some (wordA 0x38#8 gd d (vf a) b 0#6 0#8 0#4 0#3 false 0#4)
  | .waitge gd d a sz sgn hint off => some (wordM 0x2B#8 gd d a (szBits sz sgn) hint off)
  | .wload gd ko ka kb kc ga gb bg => some (wordE 0x40#8 gd ko ka kb kc ga gb 0x00#8 (bgFl bg))
  | .wswap gd ko ka kb kc bg => some (wordE 0x40#8 gd ko ka kb kc 0#6 0#6 0x01#8 (bgFl bg))
  | .xcast gd ko ka kb kc ga gb res => some (wordE 0x48#8 gd ko ka kb kc ga gb 0x01#8 (resFl res))
  | .xcopy gd ko ka kb kc ga gb res => some (wordE 0x48#8 gd ko ka kb kc ga gb 0x00#8 (resFl res))
  | .xred gd ko ka kb kc ga gb res => some (wordE 0x48#8 gd ko ka kb kc ga gb 0x04#8 (resFl res))
  | .xfetch gd ko ka kb kc ga => some (wordE 0x48#8 gd ko ka kb kc ga 0#6 0x02#8 0#12)
  | .xsend gd ko ka kb kc ga gb add res => some (wordE 0x48#8 gd ko ka kb kc ga gb 0x03#8 (sendFl add res))
  | .xor gd d a b => some (wordA 0x08#8 gd d a b 0#6 0x12#8 0#4 0#3 false 0#4)
  | .xori gd d a imm => some (wordI 0x09#8 gd d a 0x12#8 imm)
  | .yield gd n => some (wordS 0x54#8 gd 0#6 0#6 0#12 (0#22 ++ n))
  | _ => none

/-- Sub-opcodes of OP 0x08 (R262). -/
def read08 (gd : Guard) (w : W64) : Option Instr :=
  match (fSub w).toNat with
  | 0x00 => some (.add gd (fD w) (fA w) (fB w))
  | 0x01 => some (.sub gd (fD w) (fA w) (fB w))
  | 0x02 => some (.mul gd (fD w) (fA w) (fB w))
  | 0x03 => some (.mulh gd (fD w) (fA w) (fB w))
  | 0x04 => some (.mulhu gd (fD w) (fA w) (fB w))
  | 0x05 => some (.div gd (fD w) (fA w) (fB w))
  | 0x06 => some (.divu gd (fD w) (fA w) (fB w))
  | 0x07 => some (.rem gd (fD w) (fA w) (fB w))
  | 0x08 => some (.remu gd (fD w) (fA w) (fB w))
  | 0x10 => some (.and gd (fD w) (fA w) (fB w))
  | 0x11 => some (.or gd (fD w) (fA w) (fB w))
  | 0x12 => some (.xor gd (fD w) (fA w) (fB w))
  | 0x13 => some (.andn gd (fD w) (fA w) (fB w))
  | 0x18 => some (.shl gd (fD w) (fA w) (fB w))
  | 0x19 => some (.shr gd (fD w) (fA w) (fB w))
  | 0x1A => some (.shra gd (fD w) (fA w) (fB w))
  | 0x20 => some (.min gd (fD w) (fA w) (fB w))
  | 0x21 => some (.minu gd (fD w) (fA w) (fB w))
  | 0x22 => some (.max gd (fD w) (fA w) (fB w))
  | 0x23 => some (.maxu gd (fD w) (fA w) (fB w))
  | 0x28 => some (.clz gd (fD w) (fA w))
  | 0x29 => some (.popc gd (fD w) (fA w))
  | 0x2A => (ExtW.ofBits? ((fMod w).extractLsb' 0 2)).bind fun x => some (.ext gd (fD w) (fA w) x ((fMod w).getLsbD 2))
  | 0x30 => some (.sel gd (fD w) (fA w) (fB w) (p3 (fC w)))
  | _ => none

/-- Sub-opcodes of OP 0x09 (R262). -/
def read09 (gd : Guard) (w : W64) : Option Instr :=
  match (fSubI w).toNat with
  | 0x00 => some (.addi gd (fD w) (fA w) (fImm w))
  | 0x10 => some (.andi gd (fD w) (fA w) (fImm w))
  | 0x11 => some (.ori gd (fD w) (fA w) (fImm w))
  | 0x12 => some (.xori gd (fD w) (fA w) (fImm w))
  | 0x41 => some (.lih gd (fD w) (fA w) (fImm w))
  | 0x18 => some (.shli gd (fD w) (fA w) ((fImm w).extractLsb' 0 6))
  | 0x19 => some (.shri gd (fD w) (fA w) ((fImm w).extractLsb' 0 6))
  | 0x1A => some (.shrai gd (fD w) (fA w) ((fImm w).extractLsb' 0 6))
  | 0x40 => some (.li gd (fD w) (fImm w))
  | _ => none

/-- Sub-opcodes of OP 0x2C (R262). -/
def read2C (gd : Guard) (w : W64) : Option Instr :=
  match (fSubE w).toNat with
  | 0x00 => some (.kwatch gd (fKo w) (fKa w) (fKb w) (fKc w) (fGa w) (fGb w))
  | _ => none

/-- Sub-opcodes of OP 0x30 (R262). -/
def read30 (gd : Guard) (w : W64) : Option Instr :=
  match (fSub w).toNat with
  | 0x00 => (Tag.ofBits? (fFmt w)).bind fun x => (Rm.ofBits? (fRm w)).bind fun y => some (.vadd gd (v5 (fD w)) (v5 (fA w)) (v5 (fB w)) x y (fSat w) (maskOf (fMod w)))
  | 0x01 => (Tag.ofBits? (fFmt w)).bind fun x => (Rm.ofBits? (fRm w)).bind fun y => some (.vsub gd (v5 (fD w)) (v5 (fA w)) (v5 (fB w)) x y (fSat w) (maskOf (fMod w)))
  | 0x02 => (Tag.ofBits? (fFmt w)).bind fun x => (Rm.ofBits? (fRm w)).bind fun y => some (.vmul gd (v5 (fD w)) (v5 (fA w)) (v5 (fB w)) x y (fSat w) (maskOf (fMod w)))
  | 0x04 => (Tag.ofBits? (fFmt w)).bind fun x => (Rm.ofBits? (fRm w)).bind fun y => some (.vmin gd (v5 (fD w)) (v5 (fA w)) (v5 (fB w)) x y (fSat w) (maskOf (fMod w)))
  | 0x05 => (Tag.ofBits? (fFmt w)).bind fun x => (Rm.ofBits? (fRm w)).bind fun y => some (.vmax gd (v5 (fD w)) (v5 (fA w)) (v5 (fB w)) x y (fSat w) (maskOf (fMod w)))
  | 0x03 => (Tag.ofBits? (fFmt w)).bind fun x => (Rm.ofBits? (fRm w)).bind fun y => some (.vfma gd (v5 (fD w)) (v5 (fA w)) (v5 (fB w)) (v5 (fC w)) x y (fSat w) (maskOf (fMod w)))
  | 0x06 => (Tag.ofBits? (fFmt w)).bind fun x => (Rm.ofBits? (fRm w)).bind fun y => some (.vabs gd (v5 (fD w)) (v5 (fA w)) x y (fSat w) (maskOf (fMod w)))
  | 0x07 => (Tag.ofBits? (fFmt w)).bind fun x => (Rm.ofBits? (fRm w)).bind fun y => some (.vneg gd (v5 (fD w)) (v5 (fA w)) x y (fSat w) (maskOf (fMod w)))
  | 0x08 => (Tag.ofBits? (fFmt w)).bind fun x => (Rm.ofBits? (fRm w)).bind fun y => some (.vrcp gd (v5 (fD w)) (v5 (fA w)) x y (fSat w) (maskOf (fMod w)))
  | 0x09 => (Tag.ofBits? (fFmt w)).bind fun x => (Rm.ofBits? (fRm w)).bind fun y => some (.vrsq gd (v5 (fD w)) (v5 (fA w)) x y (fSat w) (maskOf (fMod w)))
  | 0x0A => (Tag.ofBits? (fFmt w)).bind fun x => (Rm.ofBits? (fRm w)).bind fun y => some (.vexp gd (v5 (fD w)) (v5 (fA w)) x y (fSat w) (maskOf (fMod w)))
  | 0x0B => (Tag.ofBits? (fFmt w)).bind fun x => (Rm.ofBits? (fRm w)).bind fun y => some (.vlog gd (v5 (fD w)) (v5 (fA w)) x y (fSat w) (maskOf (fMod w)))
  | _ => none

/-- Sub-opcodes of OP 0x31 (R262). -/
def read31 (gd : Guard) (w : W64) : Option Instr :=
  match (fSub w).toNat with
  | 0x00 => some (.viadd gd (v5 (fD w)) (v5 (fA w)) (v5 (fB w)) (maskOf (fMod w)))
  | 0x01 => some (.visub gd (v5 (fD w)) (v5 (fA w)) (v5 (fB w)) (maskOf (fMod w)))
  | 0x02 => some (.vimul gd (v5 (fD w)) (v5 (fA w)) (v5 (fB w)) (maskOf (fMod w)))
  | 0x10 => some (.vand gd (v5 (fD w)) (v5 (fA w)) (v5 (fB w)) (maskOf (fMod w)))
  | 0x11 => some (.vor gd (v5 (fD w)) (v5 (fA w)) (v5 (fB w)) (maskOf (fMod w)))
  | 0x12 => some (.vxor gd (v5 (fD w)) (v5 (fA w)) (v5 (fB w)) (maskOf (fMod w)))
  | 0x18 => some (.vshl gd (v5 (fD w)) (v5 (fA w)) (v5 (fB w)) (maskOf (fMod w)))
  | 0x19 => some (.vshr gd (v5 (fD w)) (v5 (fA w)) (v5 (fB w)) (maskOf (fMod w)))
  | 0x1A => some (.vshra gd (v5 (fD w)) (v5 (fA w)) (v5 (fB w)) (maskOf (fMod w)))
  | _ => none

/-- Sub-opcodes of OP 0x3B (R262). -/
def read3B (gd : Guard) (w : W64) : Option Instr :=
  match (fSub w).toNat with
  | 0x00 => (Tag.ofBits? (fFmt w)).bind fun x => some (.vtag gd (v5 (fD w)) (v5 (fA w)) x)
  | 0x01 => some (.vtagRead gd (fD w) (v5 (fA w)))
  | _ => none

/-- Sub-opcodes of OP 0x40 (R262). -/
def read40 (gd : Guard) (w : W64) : Option Instr :=
  match (fSubE w).toNat with
  | 0x00 => some (.wload gd (fKo w) (fKa w) (fKb w) (fKc w) (fGa w) (fGb w) ((fFl w).getLsbD 0))
  | 0x01 => some (.wswap gd (fKo w) (fKa w) (fKb w) (fKc w) ((fFl w).getLsbD 0))
  | 0x02 => some (.mma gd (fKo w) (fKa w) (fKb w) (fKc w) (fGa w) (fGb w) ((fFl w).getLsbD 0) ((fFl w).getLsbD 1) ((fFl w).getLsbD 2) ((fFl w).getLsbD 3) ((fFl w).getLsbD 4))
  | 0x03 => some (.aswap gd (fKo w) (fKa w) (fKb w) (fKc w) ((fFl w).getLsbD 0))
  | 0x04 => some (.aclr gd (fKo w) (fKa w) (fKb w) (fKc w) (fGb w) ((fFl w).getLsbD 0))
  | 0x05 => some (.adrain gd (fKo w) (fKa w) (fKb w) (fKc w) (fGa w) (fGb w) ((fFl w).getLsbD 0))
  | 0x06 => some (.edge gd (fKo w) (fKa w) (fKb w) (fKc w) (fGa w) ((fFl w).getLsbD 0))
  | _ => none

/-- Sub-opcodes of OP 0x48 (R262). -/
def read48 (gd : Guard) (w : W64) : Option Instr :=
  match (fSubE w).toNat with
  | 0x00 => some (.xcopy gd (fKo w) (fKa w) (fKb w) (fKc w) (fGa w) (fGb w) (resOf (fFl w)))
  | 0x01 => some (.xcast gd (fKo w) (fKa w) (fKb w) (fKc w) (fGa w) (fGb w) (resOf (fFl w)))
  | 0x02 => some (.xfetch gd (fKo w) (fKa w) (fKb w) (fKc w) (fGa w))
  | 0x03 => some (.xsend gd (fKo w) (fKa w) (fKb w) (fKc w) (fGa w) (fGb w) ((fFl w).getLsbD 1) (resOf (fFl w)))
  | 0x04 => some (.xred gd (fKo w) (fKa w) (fKb w) (fKc w) (fGa w) (fGb w) (resOf (fFl w)))
  | 0x05 => some (.strm gd (fKo w) (fKa w) (fKb w) (fKc w) (fGa w) (fGb w))
  | _ => none

/-- Sub-opcodes of OP 0x49 (R262). -/
def read49 (gd : Guard) (w : W64) : Option Instr :=
  match (fSubE w).toNat with
  | 0x00 => some (.twait gd (fKa w) (fKb w) (fKc w))
  | 0x01 => some (.tjoin gd (fKo w) (fKa w) (fKb w) (fKc w))
  | 0x02 => some (.tstat gd (fGa w) (fKa w))
  | _ => none

/-- Sub-opcodes of OP 0x4C (R262). -/
def read4C (gd : Guard) (w : W64) : Option Instr :=
  match (fSubE w).toNat with
  | 0x00 => some (.gcfg gd (fKo w) (fKa w) (fKb w) (fKc w) (fGa w))
  | 0x01 => some (.gstart gd (fKo w) (fKa w) (fKb w) (fKc w))
  | 0x02 => some (.gstop gd (fKo w) (fKa w) (fKb w) (fKc w))
  | 0x03 => some (.gspill gd (fKo w) (fKa w) (fKb w) (fKc w) (fGa w))
  | _ => none

/-- Sub-opcodes of OP 0x51 (R262). -/
def read51 (gd : Guard) (w : W64) : Option Instr :=
  match (fSubE w).toNat with
  | 0x00 => some (.arrive gd (fKo w) (fKa w) (fKb w) (fKc w) (fGa w) (fGb w))
  | _ => none

/-- Sub-opcodes of OP 0x52 (R262). -/
def read52 (gd : Guard) (w : W64) : Option Instr :=
  match (fSubE w).toNat with
  | 0x00 => some (.launch gd (fKo w) (fKa w) (fKb w) (fKc w) (fGa w))
  | _ => none

/-- The instruction whose OP and SUB a word carries, its fields read where R259 puts them; bits that the
instruction does not use are not looked at here. -/
def readFields (w : W64) : Option Instr :=
  let gd := fGuard w
  match (fOp w).toNat with
  | 0x01 => some (.nop gd)
  | 0x08 => read08 gd w
  | 0x09 => read09 gd w
  | 0x0A => (Cond.ofBits? (fSub w)).bind fun x => some (.cmp gd (p3 (fD w)) (fA w) (fB w) x)
  | 0x0B => (Cond.ofBits? (fSubI w)).bind fun x => some (.cmpi gd (p3 (fD w)) (fA w) x (fImm w))
  | 0x0C => some (.pset gd (p3 (fD w)) (p3 (fA w)) (p3 (fB w)) ((fSub w).extractLsb' 0 4))
  | 0x10 => some (.br gd (fImm w))
  | 0x11 => some (.brl gd (fImm w))
  | 0x12 => some (.jr gd (fD w) (fImm w))
  | 0x13 => some (.jrl gd (fD w) (fImm w))
  | 0x14 => some (.loop gd (fD w) (fImm w))
  | 0x20 => some (.ld gd (fD w) (fA w) ((fSz w).extractLsb' 0 2) ((fSz w).getLsbD 2) (fHint w) (fImm w))
  | 0x21 => some (.st gd (fD w) (fA w) ((fSz w).extractLsb' 0 2) ((fSz w).getLsbD 2) (fImm w))
  | 0x22 => (Tag.ofBits? (fSz w)).bind fun x => some (.ldv gd (v5 (fD w)) (fA w) x (fHint w) (fImm w))
  | 0x23 => (Tag.ofBits? (fSz w)).bind fun x => some (.stv gd (v5 (fD w)) (fA w) x (fImm w))
  | 0x24 => (Tag.ofBits? (fFmt w)).bind fun x => some (.vldx gd (v5 (fD w)) (fA w) (v5 (fB w)) x (maskOf (fMod w)))
  | 0x25 => (Tag.ofBits? (fFmt w)).bind fun x => some (.vstx gd (v5 (fD w)) (fA w) (v5 (fB w)) x (maskOf (fMod w)))
  | 0x28 => (AmoOp.ofBits? (fSub w)).bind fun x => some (.amo gd (fD w) (fA w) (fB w) (fC w) x ((fMod w).getLsbD 0))
  | 0x29 => some (.cas gd (fD w) (fA w) (fB w) (fC w) ((fMod w).getLsbD 0))
  | 0x2A => some (.fence gd ((fSel w).getLsbD 0) ((fSel w).getLsbD 1) ((fSel w).getLsbD 2) ((fSel w).getLsbD 3))
  | 0x2B => some (.waitge gd (fD w) (fA w) ((fSz w).extractLsb' 0 2) ((fSz w).getLsbD 2) (fHint w) (fImm w))
  | 0x2C => read2C gd w
  | 0x30 => read30 gd w
  | 0x31 => read31 gd w
  | 0x32 => (Tag.ofBits? (fFmt w)).bind fun x => (Rm.ofBits? (fRm w)).bind fun y => some (.vcvt gd (v5 (fD w)) (v5 (fA w)) x y (fSat w) (maskOf (fMod w)))
  | 0x33 => (VCond.ofBits? (fSub w)).bind fun x => some (.vcmp gd (p3 (fD w)) (v5 (fA w)) (v5 (fB w)) x)
  | 0x34 => some (.vsel gd (v5 (fD w)) (v5 (fA w)) (v5 (fB w)) (p3 (fC w)))
  | 0x35 => (RedOp.ofBits? (fSub w)).bind fun x => (Rm.ofBits? (fRm w)).bind fun y => some (.vred gd (fD w) (v5 (fA w)) x y)
  | 0x36 => some (.vperm gd (v5 (fD w)) (v5 (fA w)) (v5 (fB w)) (maskOf (fMod w)))
  | 0x37 => (Tag.ofBits? (fFmt w)).bind fun x => some (.vbc gd (v5 (fD w)) (fA w) x (maskOf (fMod w)))
  | 0x38 => some (.vxtr gd (fD w) (v5 (fA w)) (fB w))
  | 0x39 => (Tag.ofBits? (fFmt w)).bind fun x => (Rm.ofBits? (fRm w)).bind fun y => some (.vqnt gd (v5 (fD w)) (v5 (fA w)) x y (fSat w) (maskOf (fMod w)))
  | 0x3A => some (.mlog gd (p3 (fD w)) (p3 (fA w)) (p3 (fB w)) ((fSub w).extractLsb' 0 4))
  | 0x3B => read3B gd w
  | 0x40 => read40 gd w
  | 0x41 => some (.fsplit gd (fD w) (fA w) ((fSel w).getLsbD 0))
  | 0x42 => some (.ffuse gd)
  | 0x43 => some (.chain gd (fA w) ((fSel w).getLsbD 0) (fImm28 w))
  | 0x44 => some (.unchain gd)
  | 0x45 => some (.aq gd)
  | 0x46 => some (.arel gd)
  | 0x48 => read48 gd w
  | 0x49 => read49 gd w
  | 0x4C => read4C gd w
  | 0x50 => (BarMode.ofBits? ((fSel w).extractLsb' 0 2)).bind fun x => (BarScope.ofBits? ((fSel w).extractLsb' 2 3)).bind fun y => some (.bar gd x y ((fImm28 w).extractLsb' 0 4))
  | 0x51 => read51 gd w
  | 0x52 => read52 gd w
  | 0x53 => some (.cancel gd (fA w) (Level.ofBits ((fSel w).extractLsb' 0 2)))
  | 0x54 => some (.yield gd ((fImm28 w).extractLsb' 0 6))
  | 0x55 => some (.exit gd ((fImm28 w).extractLsb' 0 6))
  | 0x56 => some (.trapf gd)
  | 0x57 => some (.sys gd (fImm28 w))
  | 0x58 => some (.eret gd)
  | 0x59 => some (.mfc gd (fD w) (fSel w))
  | 0x5A => some (.mtc gd (fA w) (fSel w))
  | 0x5B => some (.qmark gd ((fImm28 w).extractLsb' 0 6))
  | _ => none

/-- The decoder: R261 step 2. -/
def decode (w : W64) : Except DecodeError Instr :=
  match readFields w with
  | none => .error .reservedCode
  | some i =>
    if encode i = some w then
      if i.wf then .ok i else .error .excludedValue
    else .error .nonZeroField

/-- Eight bytes, the lowest address first, as a little-endian word (R4). -/
def wordOfBytes (bs : List Byte) : W64 :=
  bs.foldr (fun b acc => (acc <<< 8) ||| b.zeroExtend 64) 0#64

/-- The `n` low bytes of a number, the lowest first (R4). -/
def bytesOfNat : Nat → Nat → List Byte
  | 0, _ => []
  | n + 1, x => BitVec.ofNat 8 x :: bytesOfNat n (x / 256)

/-- The number whose little-endian bytes are given (R4). -/
def natOfBytes : List Byte → Nat
  | [] => 0
  | b :: bs => b.toNat + 256 * natOfBytes bs

/-- Decoding from a list of bytes: the instruction and the bytes after its word. -/
def decodeBytes : List Byte → Except DecodeError (Instr × List Byte)
  | b0 :: b1 :: b2 :: b3 :: b4 :: b5 :: b6 :: b7 :: rest =>
    (decode (wordOfBytes [b0, b1, b2, b3, b4, b5, b6, b7])).map fun i => (i, rest)
  | _ => .error .shortWord

/-- A command packet (R243). -/
structure Packet where
  type  : Nat
  flags : Byte
  n     : Nat
  aux   : W32
  addr  : W64
deriving DecidableEq, Repr

/-- The packet in two little-endian words: TYPE at byte 0, FLAGS at 1, N at 2, AUX at 4, ADDR at 8 (R243). -/
def Packet.ofWords (lo hi : W64) : Packet :=
  ⟨(lo.extractLsb' 0 8).toNat, lo.extractLsb' 8 8, (lo.extractLsb' 16 16).toNat, lo.extractLsb' 32 32, hi⟩

/-- The step that takes a packet on queue `q`, by TYPE, N and kind (R243); none for a reserved TYPE. -/
def Packet.step? (p : Packet) (q : Nat) : Option Instr :=
  match p.type with
  | 0x00 => some (.stopPacket q)
  | 0x01 => some (.nopPacket q)
  | 0x02 => some (if p.n == 1 then .sliceLaunch q else .launchPacket q)
  | 0x03 => some (.graph q)
  | 0x04 => some (if p.n == 0 then .waitThreshold q else if p.n == 1 then .waitQueue q else .waitHandle q)
  | 0x05 => some (if p.n == 0 then .signalStore q else .signalAdd q)
  | 0x06 => some (.call q)
  | 0x08 => some (.pred q)
  | 0x09 => some (.loopPacket q)
  | 0x0A => some (.ffence q)
  | 0x0B => some (.resumePacket q)
  | 0x0C => some (.chkpt q)
  | 0x0D => some (.timePacket q)
  | 0x0E => some (.phase q)
  | _ => none

/-- The instruction of a table row whose bits are `w`: 64 bits are an instruction word, laid out little-endian and
given to the decoder; more than 64 bits are a 16-byte command packet, taken on queue 0. -/
def decodeTableWord (nbits w : Nat) : Option Instr :=
  if nbits ≤ 64 then
    match decodeBytes (bytesOfNat 8 w) with
    | .ok (i, _) => some i
    | .error _ => none
  else (Packet.ofWords (BitVec.ofNat 64 w) (BitVec.ofNat 64 (w / 2 ^ 64))).step? 0

end Sys2Proof
end

