-- ==== Sys2Proof/Config.lean ====
section
/-! DEFINITION. What an implementation fixes and the spec leaves open: constants without a body (nothing
can be proved of their values) and the fixed figures of the part that several files use. -/
namespace Sys2Proof

/-- The value of a free choice number `n` (assumption 16): every use reads the counter of the state and
advances it, so that no two uses are known to be related. -/
opaque Config.freePick : Nat → Nat
/-- log2 of the number of bytes of one ECC word (R178 gives none; assumption 18). -/
opaque Config.eccLog2 : Nat
/-- Flits of a packet, less one (R190 gives no size; assumption 82). -/
opaque Config.flits : FPkt → Nat
/-- The firmware images in the module's flash (R250; assumption 13). -/
opaque Config.residentImage : List Byte
opaque Config.recoveryImage : List Byte
/-- R250 step 2 for an image: verified against an unrevoked vendor key-hash fuse. -/
opaque Config.vendorSigned : List Byte → Bool
/-- R250 step 2 for an image and an operator key hash: verified against that key, or a tenant's image that
the operator key has countersigned. -/
opaque Config.operatorSigned : List Byte → BitVec 256 → Bool
/-- Signature (r, s) of the device identity key over a byte string (R252). -/
opaque Config.deviceSign : List Byte → BitVec 512
/-- The layer-1 alias key derived from the fuse secret and a measurement (R252, R253). -/
opaque Config.aliasKey : BitVec 256 → BitVec 256
/-- The ROM version and the fuse state as a quote reports them (R253). -/
opaque Config.romMeasure : BitVec 256
opaque Config.fuseMeasure : BitVec 256

/-- Ticks of the model's clock in one nanosecond (assumption 2): one nominal cycle is 32 ticks, one cycle of
the control die 45. -/
def ticksPerNs : Nat := 72
def ticksPerUs : Nat := 72000
/-- Ticks of one nominal cycle of a compute die (R20). -/
def nominalTicks : Nat := 32

end Sys2Proof
end

