-- ==== Sys2Proof/Machine/Store.lean ====
section
/-! DEFINITION. Tables held as plain data: lists of (key, value) with strictly rising keys. A `Store` is a table
read with a default and listing no entry equal to it, so that equal contents are equal lists. -/
namespace Sys2Proof

abbrev Tab (α : Type) := List (Nat × α)

/-- Keys strictly rising. -/
def Tab.wf {α : Type} : Tab α → Bool
  | [] => true
  | [_] => true
  | a :: b :: t => decide (a.1 < b.1) && Tab.wf (b :: t)

def Tab.get? {α : Type} : Tab α → Nat → Option α
  | [], _ => none
  | (i, v) :: t, k => if k = i then some v else Tab.get? t k

def Tab.set {α : Type} : Tab α → Nat → α → Tab α
  | [], k, v => [(k, v)]
  | (i, w) :: t, k, v =>
    if k < i then (k, v) :: (i, w) :: t
    else if k = i then (k, v) :: t
    else (i, w) :: Tab.set t k v

def Tab.erase {α : Type} : Tab α → Nat → Tab α
  | [], _ => []
  | (i, w) :: t, k => if k = i then Tab.erase t k else (i, w) :: Tab.erase t k

/-- The values of a table in the order of their keys. -/
def Tab.vals {α : Type} (t : Tab α) : List α := t.map (·.2)

/-- A table whose missing keys read as a default. -/
abbrev Store (α : Type) := Tab α

def Store.get {α : Type} (d : α) (s : Store α) (k : Nat) : α := (Tab.get? s k).getD d

def Store.put {α : Type} [DecidableEq α] (d : α) (s : Store α) (k : Nat) (v : α) : Store α :=
  if v = d then Tab.erase s k else Tab.set s k v

/-- The canonical form: keys strictly rising, no entry equal to the default. -/
def Store.wf {α : Type} [DecidableEq α] (d : α) (s : Store α) : Bool :=
  Tab.wf s && s.all (fun e => decide (e.2 ≠ d))

/-- Removes every entry with `lo ≤ key < hi`. -/
def Store.clear {α : Type} (s : Store α) (lo hi : Nat) : Store α :=
  s.filter (fun e => e.1 < lo || hi ≤ e.1)

end Sys2Proof
end

