-- ==== Sys2Proof/Machine/State.lean ====
section
/-! DEFINITION. The state of one package: its contexts, fragments, engine queues, grids, work entities, memory,
fabric tables, host interface and boot state, as plain data; the reasons a step can stop; and the state right
after reset. A field of a `Store` reads as its default where nothing is listed. -/
namespace Sys2Proof.Machine

/-- A complete token's status word and origin record (R116). -/
structure Done where
  status : W32
  opc    : W64
  oword  : W64
deriving DecidableEq, Repr

/-- k0 and a token that reports success (R115). -/
def Done.ok : Done := ⟨1, 0, 0⟩

/-- An input token as a command captured it at issue (R115): already complete, or pending under a command's
number. -/
inductive Inp where
  | done (d : Done)
  | pend (id : Nat)
deriving DecidableEq, Repr

/-- A token register (R115): complete when `pend` is 0, else pending under that command number. -/
structure Token where
  pend : Nat
  done : Done
deriving DecidableEq, Repr
def Token.reset : Token := ⟨0, Done.ok⟩

/-- A vector register (R149): lane codes, tag, block sides (scale [15:8], zero point [7:0]), super-scale. -/
structure VReg where
  lanes : Store W32
  tag   : Tag
  side0 : W16
  side1 : W16
  sup   : W32
deriving DecidableEq, Repr
def VReg.reset : VReg := ⟨[], .invalid, 0, 0, 0⟩

/-- Where one byte lies: a byte of memory under a key slot with its die-local address, or byte i of an
accumulator word. -/
inductive Loc where
  | mem (key : Nat) (slot : Nat) (phys : Nat)
  | acc (word : Nat) (i : Nat)
deriving DecidableEq, Repr

/-- One byte held in the combining buffer of R174: its address, that of the element stored with it at once (R180), the
physical key and key slot at its issue, value, when it was stored. -/
structure WcByte where
  va    : W64
  first : W64
  phys  : Nat
  slot  : Nat
  byte  : Byte
  since : Nat
deriving DecidableEq, Repr

/-- Why a context's next instruction does not complete: a wait that counts under R54, firmware page
service (R221), a join or a yield that has passed its checks (R303, R362), or another stall that does not count. -/
inductive WaitKind where
  | none | quantum | page | begun | stall
deriving DecidableEq, Repr

/-- Whether a context issues. `exited` keeps what FFUSE reads of a companion (R104). -/
inductive CtxPhase where
  | absent | running | stopped | exited
deriving DecidableEq, Repr

/-- A valid leaf (R168) with log2 of its page size. -/
structure Leaf where
  log2    : Nat
  owner   : W16
  slot    : Nat
  die     : Nat
  striped : Bool
  ms      : Bool
  cmp     : Bool
  mt      : Nat
  x       : Bool
  w       : Bool
  rd      : Bool
  addr    : Nat
deriving DecidableEq, Repr

/-- The bytes of an element that lie in one page: address, locations, leaf. -/
structure Span where
  addr : W64
  locs : List Loc
  leaf : Option Leaf
deriving DecidableEq, Repr
/-- A vector load or store of which some element accesses are still to be made (R180): the instruction, those
accesses in order as address and bytes, the values read so far or still to be stored, for a store the places that its
checks found. -/
structure VecPart where
  instr : Instr
  accs  : List (W64 × Nat)
  vals  : List Nat
  spans : List (List Span)
deriving DecidableEq, Repr

/-- The architectural state of one unit or companion (R29, R31, R215, R219, R220, R226, R287). -/
structure Ctx where
  cid     : Nat
  phase   : CtxPhase
  uid     : Nat
  lid     : Nat
  compid  : Nat
  unit    : Nat
  sec     : Bool
  /-- 16 × die + pane of the sequencer, the origin pane of the current fragment (R15). -/
  seq     : Nat
  /-- 16 × die + pane of the fragment whose array it uses: `seq`, or the shared fragment's origin (R36). -/
  arr     : Nat
  /-- Pane rows and columns of the current fragment (R37, R63). -/
  h       : Nat
  w       : Nat
  slot    : Nat
  pc      : W64
  g       : Store W64
  p       : BitVec 8
  m       : Store (BitVec 128)
  v       : Store VReg
  k       : Store Token
  aflags  : W64
  amask   : W64
  rmode   : W64
  splive  : W64
  acclive : W64
  nunits  : Nat
  lhandle : W64
  nfrag   : Nat
  lparam  : Store W64
  tcause  : W64
  tpc     : W64
  tword   : W64
  taddr   : W64
  tdata   : W64
  tvec    : W64
  sm      : Bool
  pfh     : Bool
  sscr    : W64
  ctxid   : W16
  /-- The 48 barrier bytes of R287, index 16 × scope + id. -/
  bars    : Store Byte
  /-- Companions split off and not yet fused, most recent first: context and whether by columns (R104). -/
  splits  : List (Nat × Bool)
  /-- Combining buffer, oldest first (R174). -/
  wc      : List WcByte
  /-- Instruction cache: 64-byte line number and its eight words (R187). -/
  icache  : Tab (List W64)
  wait    : WaitKind
  since   : Nat
  /-- CANCEL of its own entity was accepted: nothing more issues (R232). -/
  halted  : Bool
  /-- Access that control-die firmware is asked to map (R221): cause, TADDR, TDATA, instruction word. -/
  pfault  : Option (Nat × W64 × W64 × W64)
  /-- Tick before which it does not issue (R103, R229). -/
  notBefore : Nat
  /-- Vector instruction in progress (R180). -/
  vec     : Option VecPart
  /-- Number of the first command behind the markers of a waiting QMARK (R329). -/
  marker  : Option Nat
  /-- PCs of the BARs that have arrived and wait (R289): of a handler's besides the one that a trap has interrupted. -/
  barAt   : List W64
deriving DecidableEq, Repr

/-- A stream descriptor as a command read it (R122). -/
structure Sd where
  base  : W64
  fmt   : Tag
  flags : Nat
  side  : W64
  count : W64
  /-- Extents and strides of dimensions 0 to NDIM − 1. -/
  dims  : List (Nat × W64)
deriving DecidableEq, Repr

/-- Where a command stands: queued, started (R113), or past its boundary with its completion to come. -/
inductive CmdSt where
  | queued | started | passed
deriving DecidableEq, Repr

/-- One entry of an engine queue (R112, R114, R226). -/
structure Cmd where
  id    : Nat
  op    : Instr
  word  : W64
  pc    : W64
  cid   : Nat
  uid   : Nat
  lid   : Nat
  ctxid : W16
  sec   : Bool
  seq   : Nat
  arr   : Nat
  h     : Nat
  w     : Nat
  ga    : W64
  gb    : W64
  res   : W64
  ins   : List Inp
  st    : CmdSt
  /-- Progress: destination stream bytes, rows or elements done. -/
  prog  : Nat
  /-- Descriptors, blocks and translations captured at the start (R114, R171). `cast` holds COMMON, SLICE and
  OSTRIDE of an XCAST, and for an array command its weight plane, the rows it may take now, and all its rows. -/
  src   : Option Sd
  dsts  : List Sd
  /-- Blocks that the command names, as it read them (R114), by `blkKey`. -/
  blk   : Tab (List Nat)
  cast  : Nat × Nat × Nat
  tgt   : Option Target
  order : Option FetchOrder
  xl    : Tab Leaf
  /-- First fault that the pass over its pages met: element, cause, address (R126). -/
  bad   : Option (Nat × Nat × W64)
  /-- Ragged products: rows of the last count read, and closed in that read (R110). `ragN` of a copy: the element from
  which it started. -/
  ragN  : Nat
  ragC  : Bool
  fin   : Option Done
  flags : BitVec 8
  /-- Earliest tick at which the token completes (R94). -/
  ready : Nat
  /-- Page that control-die firmware is asked to map (R120). -/
  page  : Option W64
deriving DecidableEq, Repr

/-- A weight plane (R83, R90): codes by k × 2048 + n, side bytes by n × G + g, super-scales by number. `by'` is the
WLOAD that started last on it (R88), `bad` says that one of its registers holds an uncorrectable error (R178). -/
structure Plane where
  valid : Bool
  fmt   : Tag
  k     : Nat
  n     : Nat
  w     : Store Nat
  side  : Store Byte
  sup   : Store W32
  by'   : Nat
  bad   : Bool
deriving DecidableEq, Repr
def Plane.reset : Plane := ⟨false, .invalid, 0, 0, [], [], [], 0, false⟩

/-- An edge-unit configuration (R99). Activation 0 NONE, 1 RELU, 2 CLAMP. A column's scale is 1.0 and its bias
+0 where none is listed. -/
structure EdgeCfg where
  scale : Option (Store W32)
  bias  : Option (Store W32)
  act   : Nat
  ofmt  : Tag
  rm    : Rm
  sat   : Bool
  lo    : W32
  hi    : W32
deriving DecidableEq, Repr
def EdgeCfg.reset : EdgeCfg := ⟨none, none, 0, .fp32, .rne, false, 0, 0⟩

/-- A token of the grid: value and tag (R132). -/
structure GTok where
  v : W32
  t : Bool
deriving DecidableEq, Repr

/-- A grid element (R132, R133, R136). -/
structure Elem where
  slots  : Store W32
  reg0   : GTok
  reg1   : GTok
  flag   : Bool
  aluA   : GTok
  aluR   : Option GTok
  /-- Operation in flight: code, A, T. -/
  aluF   : Option (Nat × GTok × GTok)
  cmpX   : GTok
  cmpLo  : Option GTok
  cmpHi  : Option GTok
  cmpF   : Option (GTok × GTok)
  lut    : Store W32
  lutI   : Nat
  lutR   : Option GTok
  /-- Read in flight: cycles to go and the token. -/
  lutF   : Option (Nat × GTok)
  cnt    : W32
  /-- Input and output FIFOs of the north, east, south and west links, oldest first. -/
  inN    : List GTok
  inE    : List GTok
  inS    : List GTok
  inW    : List GTok
  outN   : List GTok
  outE   : List GTok
  outS   : List GTok
  outW   : List GTok
deriving DecidableEq, Repr
/-- A slot that is not listed is the empty slot 0xF800_0000 (R135). -/
def Elem.reset : Elem :=
  ⟨[], ⟨0, false⟩, ⟨0, false⟩, false, ⟨0, false⟩, none, none, ⟨0, false⟩, none, none, none, [], 0, none, none, 0,
   [], [], [], [], [], [], [], []⟩

/-- A spill ring of the grid (R141): window offset, bytes, tokens held, the ring place of the next token. -/
structure GRing where
  base  : Nat
  bytes : Nat
  toks  : List GTok
  tail  : Nat
deriving DecidableEq, Repr

/-- A stream port (R132, R139): its 16-token queue, its streams' command numbers in order, its ring. -/
structure GPort where
  q       : List GTok
  streams : List Nat
  ring    : Option GRing
  marked  : Bool
deriving DecidableEq, Repr
def GPort.reset : GPort := ⟨[], [], none, false⟩

/-- States of a grid (R138). -/
inductive GState where
  | idle | configured | running
deriving DecidableEq, Repr

/-- A fragment's grid (R132, R138), of h × w panes' tiles. Ports are numbered 32 × pane + port code. -/
structure Grid where
  h     : Nat
  w     : Nat
  st    : GState
  image : W64
  elems : Store Elem
  ports : Store GPort
  start : Option Nat
deriving DecidableEq, Repr
def Grid.reset : Grid := ⟨1, 1, .idle, 0, [], [], none⟩

/-- What a fragment holds beside scratchpad and accumulators (R28, R36, R83, R112), kept at its origin pane. -/
structure Frag where
  h      : Nat
  w      : Nat
  geom   : Nat
  dual   : Bool
  plane0 : Plane
  plane1 : Plane
  /-- In single-queue mode, whether plane 1 is the active plane (R92). -/
  active : Bool
  edge0  : EdgeCfg
  edge1  : EdgeCfg
  /-- Lease of a shared fragment: holder, request list, commands and start of the tenure (R72, R73). -/
  holder : Option Nat
  reqs   : List Nat
  tcount : Nat
  tstart : Nat
  /-- The six engine queues in bit order, oldest first (R112). -/
  q      : Store (List Cmd)
  /-- Command that occupies the array (R81), the tick of its boundary, queue of the last MMA to run. -/
  cur    : Option Nat
  busy   : Nat
  lastQ  : Option Bool
  /-- Tick of the last bank write of the MMAs and ACLRs started (R95); ticks at which the last row of each
  queue's MMAs leaves the last PE row (R92); whether each queue's last MMA ran in integer mode (R279). -/
  wdone  : Nat
  exit0  : Nat
  exit1  : Nat
  int0   : Bool
  int1   : Bool
  grid   : Grid
deriving DecidableEq, Repr
def Frag.reset : Frag :=
  ⟨0, 0, 0, false, Plane.reset, Plane.reset, false, EdgeCfg.reset, EdgeCfg.reset, none, [], 0, 0, [], none, 0, none,
   0, 0, 0, false, false, Grid.reset⟩

/-- A chain row on its way through the source's array (R94): its command, the tick at which it leaves the edge unit,
the row. -/
structure FlightRow where
  cmd : Nat
  due : Nat
  row : Tag × List Nat
deriving DecidableEq, Repr

/-- A chain (R105 to R109): source and destination fragments (a `park` number where the unit is pre-empted, or the source
has gone), rows on their way, whether the oldest of them stalls the edge unit (R108), FIFO and ring rows oldest first, the
ring place of the next row, and the end marker with the MMA.chain commands it stands behind. -/
structure Chain where
  src    : Nat
  dst    : Nat
  flight : List FlightRow
  stuck  : Bool
  fifo   : List (Tag × List Nat)
  ring   : Option (Nat × Nat)
  rrows  : List (Tag × List Nat)
  rtail  : Nat
  marker : Option (List Nat)
deriving DecidableEq, Repr

/-- A TJOIN (R119) or a LAUNCH (R309) whose token is pending outside the engine queues. -/
structure Join where
  id  : Nat
  cid : Nat
  ins : List Inp
deriving DecidableEq, Repr

structure PendLaunch where
  id    : Nat
  cid   : Nat
  uid   : Nat
  lid   : Nat
  ctxid : W16
  pc    : W64
  word  : W64
  lpb   : W64
  h     : Nat
  w     : Nat
  seq   : Nat
  ins   : List Inp
  child : Option Nat
deriving DecidableEq, Repr

/-- A barrier (R287): generation and arrivals in it. -/
structure Barrier where
  gen   : Nat
  count : Int
deriving DecidableEq, Repr
def Barrier.reset : Barrier := ⟨0, 0⟩

/-- Fault record (R218). -/
structure FaultRec where
  lhandle : W64
  unit    : Nat
  compid  : Nat
  cause   : Nat
  sm      : Bool
  tpc     : W64
  tword   : W64
  taddr   : W64
  tdata   : W64
  die     : Nat
  pane    : Nat
  ftime   : W64
deriving DecidableEq, Repr

/-- Launch parameter block as read (R32), and its address. -/
structure Lpb where
  addr    : W64
  prog    : W64
  nunits  : Nat
  shape   : Nat
  prio    : Nat
  pclass  : Nat
  gang    : Bool
  replica : Bool
  resume  : Bool
  shared  : Bool
  diemask : Nat
  spbytes : Nat
  image   : W64
  lparam  : Store W64
deriving DecidableEq, Repr

/-- A part of a gang slice (R77 to R79): start time, members, reports received at the coordinator (READY),
decision known here, and what this member did. -/
structure Slice where
  serial   : Nat
  t        : Nat
  members  : List Nat
  reported : Bool
  readies  : List Nat
  lost     : List Nat
  /-- 0 none, 1 GO, 2 ABANDON, 3 FAIL. -/
  decision : Nat
  decided  : Bool
  started  : Bool
  /-- Participants that left, as the coordinator counts them, and the total of the members' units. -/
  total    : Nat
deriving DecidableEq, Repr

/-- Home of a work entity (R25, R26, R40): counter H, reserve e, the part it carries. -/
structure Ent where
  level    : Level
  handle   : W64
  job      : W16
  parent   : Option Nat
  /-- Home of a parent in another package: package, entity there, number of the loan (R209). -/
  away     : Option (Nat × Nat × Nat)
  carried  : Nat
  h        : Nat
  e        : Nat
  /-- Reserve returned to its own home (R43). -/
  closed   : Bool
  complete : Bool
  status   : W32
  cancelled : Bool
  queue    : Nat
  /-- Outcome record to write (R246): queue, index, interrupt. -/
  record   : Option (Nat × Nat × Bool)
  /-- Parts lent to other packages and not yet home, by package (R209). -/
  lent     : Store Nat
  /-- How often a loss has ended what was lent to a package: the number of its next loans (R209). -/
  losses   : Store Nat
deriving DecidableEq, Repr

/-- A launch (R24, R33 to R38, R50, R60, R61). -/
structure Launch where
  lpb     : Lpb
  nfrag   : Nat
  order   : Nat
  next    : Nat
  done    : Nat
  failed  : Option W32
  /-- Start and completed 2 ms steps of the wait of R61. -/
  wbase   : Nat
  wsteps  : Nat
  /-- Placements and resumptions made (R70). -/
  placed  : Nat
  frec    : Option FaultRec
  /-- Participants of its barriers that have left, launch-scope and gang-scope barriers (R287). -/
  left    : Nat
  bars    : Store Barrier
  gbars   : Store Barrier
  slice   : Option Slice
  /-- LAUNCH token that it reports to: the number of the pending LAUNCH. -/
  token   : Option Nat
  eff     : Nat
deriving DecidableEq, Repr

/-- States of a graph node (R46, R48). -/
inductive NodeSt where
  | waiting | live (lid : Nat) | done | skipped
deriving DecidableEq, Repr

structure Node where
  lpb   : Lpb
  preds : List Nat
  st    : NodeSt
deriving DecidableEq, Repr

/-- A job (R24, R29, R172, R222): its home entity and what the runtime installed. -/
structure Job where
  ent      : Nat
  rootDie  : Nat
  rootAddr : Nat
  pfh      : Bool
  tvec     : W64
  sscr     : W64
  saveAddr : Nat
  saveLen  : Nat
  /-- Image space taken in the save area: address and length. -/
  allocs   : List (Nat × Nat)
  closing  : Bool
deriving DecidableEq, Repr

/-- What the package holds of an image beside its bytes in the save area (assumption 17): whether it stopped the unit
itself, the unit's number and origin pane at the stop, the contexts, the fragment states by origin pane, the commands in
the entries of the engine sections by 96 × context + entry. Chains stand in the state's list under `park` numbers, held
replies in the fabric commands. -/
structure Image where
  addr    : Nat
  bytes   : Nat
  yieldN  : Option Nat
  shape   : Nat
  kept    : Bool
  uid     : Nat
  seq     : Nat
  ctxs    : List Ctx
  frags   : Tab Frag
  entries : Tab Nat
deriving DecidableEq, Repr

/-- A detached image (R232, R233), with the companion barriers and companion ids of its unit. -/
structure Detached where
  job     : W16
  lhandle : W64
  unit    : Nat
  image   : Image
  bars    : Store Barrier
  ncomp   : Nat
  space   : Option (Nat × Nat)
deriving DecidableEq, Repr

/-- Phases of a placed or pre-empted unit (R49, R70, R224, R230). -/
inductive UPhase where
  | running | window | quiescing | writing | saved | reading | exited | counted
deriving DecidableEq, Repr

/-- A unit from its placement on (R28, R34, R49, R70). -/
structure UnitRec where
  lid      : Nat
  unit     : Nat
  sec      : Bool
  seq      : Nat
  arr      : Nat
  h        : Nat
  w        : Nat
  phase    : UPhase
  /-- End of the yield window, or the tick at which the phase began. -/
  deadline : Nat
  /-- Deferred under R54: the launches whose placement it waits for and their placement counts then. -/
  deferred : Option (List (Nat × Nat))
  /-- Units joined to it by chains when it was stopped (R109). -/
  mates    : List Nat
  cids     : List Nat
  ncomp    : Nat
  mask     : BitVec 6
  freed    : Bool
  /-- Replica signature (R56); the other instance's unit number. -/
  sig      : W64
  twin     : Option Nat
  bars     : Store Barrier
  image    : Option Image
  /-- Space that the unit holds in its job's save area: address and length. -/
  space    : Option (Nat × Nat)
  /-- Stopped by a cancel, a fatal trap or a die reset. -/
  killed   : Bool
  /-- GSTOP of this unit ended these commands (R50). -/
  orderly  : List Nat
  /-- In a replica, the global bytes that its outstanding commands wrote, by command and address (R56). -/
  wlog     : Tab (Tab Nat)
  /-- RMODE of its contexts at their EXIT, for EDGE commands that run later (R151). -/
  rmodes   : Store W64
  /-- Tick at which its full pre-emption stopped issue (R224). -/
  stop     : Nat
deriving DecidableEq, Repr

/-- A part on its way home inside the package (R42). -/
structure Ret where
  ent    : Nat
  exp    : Nat
  failed : Option W32
deriving DecidableEq, Repr

/-- A cancel on its way to a home (R232): the entity. -/
structure CancelReq where
  ent : Nat
deriving DecidableEq, Repr

/-- The reservation of R66 or a slice hold of R79: launch, panes (16 × die + pane), heat by die. -/
structure Resv where
  lid   : Nat
  panes : List Nat
  heat  : Store Nat
deriving DecidableEq, Repr

/-- One compute die's clock, incarnation and reset (R14, R20, R21, R204): `stopAt` is when a reset began whose units are
still on their way to their stop points, `resetAt` when one began whose storage is cleared. -/
structure Die where
  tpc     : Nat
  cycles  : Nat
  cycAt   : Nat
  inc     : Nat
  stopAt  : Option Nat
  resetAt : Option Nat
  heat    : Nat
deriving DecidableEq, Repr
/-- CYCLE starts at 0 after a module reset and after a reset of its die: R21 and R215 name no reset value (DESIGN CHOICE,
assumption 98). -/
def Die.reset : Die := ⟨nominalTicks, 0, 0, 0, none, none, 32⟩

/-- A UCIe link (R22, R23): start of an open retraining window, end of the last. -/
structure Link where
  window : Option Nat
  last   : Option Nat
deriving DecidableEq, Repr
def Link.reset : Link := ⟨none, none⟩

/-- A FAT entry (R194). -/
structure FatEnt where
  base   : W64
  length : W64
  rpkg   : Nat
  rctx   : W16
  lctx   : W16
  rights : BitVec 8
deriving DecidableEq, Repr
def FatEnt.reset : FatEnt := ⟨0, 0, 0, 0, 0, 0⟩

/-- A multicast group (R201). -/
structure Group where
  ver     : W32
  members : List Nat
deriving DecidableEq, Repr

/-- What one destination of an XSEND, XFETCH or CHKPT has reported (R196, R198, R200). -/
structure Peer where
  pkg       : Nat
  die       : Option Nat
  acked     : List Nat
  naked     : List Nat
  landed    : Option Nat
  committed : Bool
  refused   : Bool
  lost      : Bool
deriving DecidableEq, Repr

/-- An outstanding fabric command at its requester (R196, R198): command number, requester context, group
version, destinations, whether it adds, fetch order and owner, offsets of the units sent, END, first negative reply,
whether COMMIT and REPORT were sent. -/
structure FabCmd where
  id     : Nat
  ctxid  : W16
  ver    : W32
  peers  : List Peer
  add    : Bool
  order  : Option FetchOrder
  owner  : Option (Nat × Option Nat)
  /-- Offset from which a send started. -/
  base   : Nat
  sent   : List Nat
  endOff : Option Nat
  nak    : Option Nat
  commit : Bool
  report : Bool
  /-- Die and pane of the fragment that it belongs to, pane 16 for a checkpoint; with ORD, the port chosen for its first
  packet (R190). -/
  die    : Nat
  pane   : Nat
  port   : Option Nat
deriving DecidableEq, Repr

/-- A fetch order at the owner (R198, R375), the offset of the next unit, with ORD the port of its first (R190). -/
structure Responder where
  rdie  : Nat
  hdr   : FHdr
  order : FetchOrder
  pos   : Nat
  port  : Option Nat
deriving DecidableEq, Repr

/-- A fetch at a recipient (R198, R376): the gateway that took its first packet, RESUME and LENGTH as units name them,
offsets of the units that landed and that were refused, whether it has reported, the end offset of a REPORT, with
RESUME. -/
structure Recipient where
  hdr      : FHdr
  die      : Nat
  range    : Option (Nat × Nat)
  units    : List Nat
  refused  : List Nat
  reported : Bool
  askEnd   : Option (Nat × Nat)
deriving DecidableEq, Repr

/-- A command with ORD at its target (R202): the gateway that took its first unit, the offset of the unit that may
become visible next. -/
structure OrdRec where
  hdr  : FHdr
  die  : Nat
  next : Nat
deriving DecidableEq, Repr

/-- A packet of this package: the gateway that sends it, the pane of the fragment it comes from (16 for the gateway's
own), the port that it keeps to, the tick at which it left its port, its drops (R82, R190, R206, R207). -/
structure OutPkt where
  pkt   : FPkt
  gate  : Nat
  frag  : Nat
  port  : Option Nat
  since : Nat
  drops : Nat
deriving DecidableEq, Repr

/-- A Tabmel port (R82, R190, R206): packets queued in it, the fragment served last, the tick of its last flit. -/
structure Port where
  q    : List OutPkt
  turn : Nat
  at'  : Nat
deriving DecidableEq, Repr
def Port.reset : Port := ⟨[], 16, 0⟩

/-- The package's fabric state (R188 to R209). -/
structure Fabric where
  fat       : Store FatEnt
  groups    : Tab Group
  partition : Nat
  /-- Incarnations that gateways recorded for dies of other packages, by `incKey` (R204). -/
  peerInc   : Tab Nat
  /-- Ports by 4 × die + number (R190). -/
  ports     : Store Port
  /-- Packets that have left a port and are on their way. -/
  out       : List OutPkt
  cmds      : List FabCmd
  resps     : List Responder
  recips    : List Recipient
  ords      : List OrdRec
  /-- Last 64 sequence numbers that a gateway applied for a sending die, by `incKey` (R207). -/
  applied   : Tab (List Nat)
  nextSeq   : Nat
  /-- Returns of parts to other packages: sent and not acknowledged (package, sequence number), and those that wait for
  room (R207, R209). -/
  unacked   : List (Nat × Nat)
  owed      : List FPkt
  /-- Reports of slices whose part here is not accepted yet: slice, package, NUNITS, READY (R77); a decision that came
  as early stands under package 4096 + its number, with the package that sent it. -/
  early     : List (Nat × Nat × Nat × Bool)
  portsUp   : Bool
  portsAt   : Nat
  /-- FTIME: VALID, nanoseconds and tick of the last synchronisation (R208), and the dies on which it has not been
  synchronised since their reset (R5). -/
  valid     : Bool
  ns        : Nat
  nsAt      : Nat
  untimed   : List Nat
deriving DecidableEq, Repr
def Fabric.reset : Fabric := ⟨[], [], 0, [], [], [], [], [], [], [], [], 0, [], [], [], false, 0, false, 0, 0, []⟩

/-- States of a queue (R239). -/
inductive QState where
  | idle | run | blocked | stopped | fault
deriving DecidableEq, Repr

/-- What a BLOCKED thread waits for (R243, R255). -/
inductive QWait where
  | threshold (addr : W64) (v : Nat)
  | earlier
  | entity (handle : W64)
  | chkpt (id : Nat)
deriving DecidableEq, Repr

/-- One nesting level of a queue thread (R243): buffer, packets, next packet, iterations still to run. -/
structure QLevel where
  addr  : W64
  count : Nat
  pos   : Nat
  iters : Nat
deriving DecidableEq, Repr

/-- A hardware queue's registers (R239) and its thread (R240 to R247). -/
structure HQueue where
  qbase    : W64
  qcfg     : W64
  head     : W64
  tailReg  : W64
  en       : Bool
  index    : W32
  cause    : Byte
  st       : QState
  qout     : W64
  coal     : W64
  done     : W64
  stalecnt : W64
  twaddr   : W64
  recidx   : W64
  efftail  : Nat
  phase    : Option Nat
  /-- A phase still to open (R27, R41). -/
  opening  : Bool
  pred     : Bool
  levels   : List QLevel
  /-- Packets read ahead: position and the two words (R242); packets of which only bytes 0–7 have been read, with a
  valid phase (R369). -/
  ahead    : Tab (W64 × W64)
  low      : Tab W64
  wait     : Option QWait
  /-- Outcome index and interrupt bit of a CHKPT in progress. -/
  chkpt    : Option (Nat × Bool)
  /-- Entities and checkpoints of this queue not yet complete (R243 kind 1). -/
  live     : List Nat
  /-- When the window of R247 opened; with COAL.WIN = 0 it is the rest of the control die's cycle. -/
  coalAt   : Option Nat
deriving DecidableEq, Repr
def HQueue.reset : HQueue :=
  ⟨0, 3, 0, 0, false, 0, 0, .idle, 0, 0, 0, 0, 0, 0, 0, none, false, true, [], [], [], none, none, [], none⟩

/-- An outcome record whose home holds its write (R14, R22, R246): queue, index, interrupt, handle, status. -/
structure OutRec where
  queue  : Nat
  index  : Nat
  intr   : Bool
  handle : W64
  status : W32
deriving DecidableEq, Repr

/-- The owner mailbox (R248): a running command's result, the job whose emptying it waits for, or the destination and
context of a COUNTERS whose writes a home holds (R14, R22). -/
structure Mailbox where
  code    : W32
  status  : W32
  ops     : Store W64
  result  : Option W32
  closing : Option W16
  held    : Option (W64 × W64)
deriving DecidableEq, Repr
def Mailbox.reset : Mailbox := ⟨0, 1, [], none, none, none⟩

/-- Ownership (R237). -/
structure Owner where
  owner   : W16
  nonce   : W64
  pending : Option (W16 × BitVec 48)
  refused : W32
deriving DecidableEq, Repr
def Owner.reset : Owner := ⟨0xFFFF, 0, none, 0⟩

/-- What a quote reports (R253, R254): ROM version, fuse state, operator key hash, the running image's measurement, the
staged image's with HANDOVER_PENDING. -/
structure Quote where
  rom     : BitVec 256
  fuse    : BitVec 256
  opkey   : BitVec 256
  running : BitVec 256
  staged  : Option (BitVec 256)
deriving DecidableEq, Repr

/-- Firmware and boot (R250 to R254): whether the module has supply, the running image's measurement (none while the
ROM waits for an image), the staged image, latches, the operator key slot, the scrub record, the last quote. -/
structure Boot where
  powered  : Bool
  running  : Option (BitVec 256)
  layer1   : BitVec 256
  staged   : Option (BitVec 256)
  recover  : Bool
  scrub    : Option (BitVec 256)
  opkey    : BitVec 256
  record   : List Byte
  quote    : Option Quote
  /-- Whiting is at work: when it began and the µs it takes (R252). -/
  scrubAt  : Option (Nat × Nat)
deriving DecidableEq, Repr
def Boot.reset : Boot := ⟨true, none, 0, none, false, none, 0, [], none, none⟩

/-- A write of the control die on its way whose home is held (R14, R22): context id and die, address, bytes, value, when it
was made. -/
structure Late where
  ctxid : W16
  die   : Nat
  addr  : W64
  n     : Nat
  val   : Nat
  since : Nat
deriving DecidableEq, Repr

/-- Error counters (R249), each saturating at 2^64 − 1. -/
structure Errs where
  dram     : W64
  onDie    : W64
  uncorr   : W64
  refetch  : W64
  stale    : W64
  timeout  : W64
  group    : W64
  weight   : W64
  resets   : W64
  perDie   : Store W64
  reply    : W64
deriving DecidableEq, Repr
def Errs.reset : Errs := ⟨0, 0, 0, 0, 0, 0, 0, 0, 0, [], 0⟩

/-- What happens at a step (assumption 1): a context issues its next instruction, or makes up to `n` element accesses
of a vector instruction (R180); an agent's event happens; a line leaves an instruction cache; a soft error strikes a
word or a weight plane of a fragment; a Tabmel port sends its next packet; a packet of this package reaches another one;
a phase spawns a launch in another package, or another package's phase one here; a queue thread reads ahead; the host
writes its own memory; the host addresses that meet link errors change. -/
inductive Act where
  | issue (cid : Nat)
  | part (cid n : Nat)
  | event (i : Instr)
  | evict (cid : Nat) (line : Nat)
  | corrected (dram : Bool) (die : Option Nat)
  | refetched
  | uncorrectable (phys : Nat)
  | badPlane (seq : Nat) (second : Bool)
  | serve (die port : Nat)
  | deliver (idx : Nat)
  | lend (ent pkg : Nat) (lpb : W64)
  | child (hdr : FHdr) (ent exp : Nat) (lpb : W64)
  | readAhead (q k : Nat)
  | hostStore (link : Nat) (addr : Nat) (data : List Byte)
  | hostLinks (bad : List (Nat × Nat × Nat))
deriving DecidableEq, Repr

/-- One entry of the schedule: ticks that pass, then what happens. -/
structure Turn where
  dt  : Nat
  act : Act
deriving DecidableEq, Repr

/-- The state of the package. -/
structure State where
  /-- Ticks since module reset (assumption 2). -/
  now      : Nat
  /-- Counter of free choices used (assumption 16). The model's own field. -/
  free     : Nat
  /-- Next number for commands, contexts, units and entities. The model's own field. -/
  nextId   : Nat
  /-- Schedule of what happens next (assumption 1). The model's own field. -/
  turns    : List Turn
  /-- Element accesses that a vector instruction makes at this step, all where none is named (R180). The model's own
  field. -/
  vlim     : Option Nat
  /-- The context whose sequencer moves (assumption 7), and every other one. -/
  cur      : Ctx
  others   : List Ctx
  units    : Tab UnitRec
  ents     : Tab Ent
  launches : Tab Launch
  graphs   : Tab (List Node)
  jobs     : Tab Job
  /-- Serial numbers given, by 8 × job + level (R25). -/
  serials  : Store Nat
  returns  : List Ret
  cancels  : List CancelReq
  joins    : List Join
  pend     : List PendLaunch
  detached : List Detached
  frags    : Store Frag
  chains   : List Chain
  /-- Unit that occupies each pane, 0 none; job that last ran there plus 1. -/
  occ      : Store Nat
  spOwner  : Store Nat
  /-- Memory: DRAM, scratchpads and the hosts' memory (Machine/Ops.lean lays out the keys). -/
  mem      : List Host.Cell
  /-- Accumulator words by (2 × (16 × die + pane) + half) × 524288 + word, and each pane's visible half. -/
  accs     : Store W32
  accVis   : Store Nat
  /-- ECC words (R178) that hold an uncorrectable error, and what of them a command or vector store has overwritten
  since: writer, byte. -/
  ecc      : List Nat
  eccPart  : List (Nat × Nat)
  lastq    : Nat
  resv     : Option Resv
  holds    : List Resv
  dies     : Store Die
  links    : Store Link
  fab      : Fabric
  own      : Owner
  queues   : Store HQueue
  /-- Tail words read and not written since: queue and memory key (R240, R370). -/
  twSeen   : List (Nat × Nat)
  mbox     : Mailbox
  boot     : Boot
  errs     : Errs
  /-- Encryption key slots 1 to 63, 0 empty (R248). -/
  keys     : Store (BitVec 512)
  /-- MSI-X messages sent: link, vector (R247). -/
  msis     : List (Nat × Nat)
  /-- Outcome records that wait for their home (R246). -/
  recs     : List OutRec
  /-- Stores that held homes keep waiting, oldest first (R14, R22). -/
  late     : List Late
  /-- Handles of rejected launches: job, handle (R25, R218). -/
  rejects  : List (W16 × W64)
  /-- Bus addresses that meet a link error: link, first, count (R381). -/
  hostBad  : List (Nat × Nat × Nat)
  pkg      : Nat
deriving DecidableEq, Repr

/-- A context that no unit runs in, its registers at the values of R29. -/
def Ctx.reset : Ctx where
  cid := 0
  phase := .absent
  uid := 0
  lid := 0
  compid := 0
  unit := 0
  sec := false
  seq := 0
  arr := 0
  h := 1
  w := 1
  slot := 0
  pc := 0
  g := []
  p := 1
  m := []
  v := []
  k := []
  aflags := 0
  amask := 0
  rmode := 0
  splive := 16777216
  acclive := 4096
  nunits := 0
  lhandle := 0
  nfrag := 0
  lparam := []
  tcause := 0
  tpc := 0
  tword := 0
  taddr := 0
  tdata := 0
  tvec := 0
  sm := false
  pfh := false
  sscr := 0
  ctxid := 0
  bars := []
  splits := []
  wc := []
  icache := []
  wait := .none
  since := 0
  halted := false
  pfault := none
  notBefore := 0
  vec := none
  marker := none
  barAt := []

/-- The machine right after a module reset, before the ROM has accepted an image. -/
def State.reset : State where
  now := 0
  free := 0
  nextId := 1
  turns := []
  vlim := none
  cur := Ctx.reset
  others := []
  units := []
  ents := []
  launches := []
  graphs := []
  jobs := []
  serials := []
  returns := []
  cancels := []
  joins := []
  pend := []
  detached := []
  frags := []
  chains := []
  occ := []
  spOwner := []
  mem := []
  accs := []
  accVis := []
  ecc := []
  eccPart := []
  lastq := 31
  resv := none
  holds := []
  dies := []
  links := []
  fab := Fabric.reset
  own := Owner.reset
  queues := []
  twSeen := []
  mbox := Mailbox.reset
  boot := Boot.reset
  errs := Errs.reset
  keys := []
  msis := []
  recs := []
  late := []
  rejects := []
  hostBad := []
  pkg := 0

/-- The byte that an unlisted address of memory reads as (assumption 4). -/
def memDefault : BitVec 8 := 0

/-- The canonical form of memory: addresses strictly rising, no entry equal to `memDefault`. -/
def Memory.wf (m : List Host.Cell) : Bool := Store.wf memDefault m

/-- Reasons the machine stops with a fault. -/
inductive Fault where
  /-- Raised by an instruction word when no context runs: no unit exists whose instruction it could be. Safe:
  the spec issues instructions only in a placed unit. -/
  | noContext
deriving DecidableEq, Repr

/-- Reasons the machine refuses an instruction. -/
inductive Refusal where
  /-- Raised by an arm of Machine/Dispatch.lean whose instruction has no meaning yet. Safe. -/
  | notModelled (mnemonic : String)
deriving DecidableEq, Repr

end Sys2Proof.Machine
end

