-- ==== Sys2Proof/Machine/Base.lean ====
section
/-! DEFINITION. Reading and changing one entry of the state's tables; clocks; shapes; free choices. -/
namespace Sys2Proof.Machine

/-- The outcome type of a step. -/
abbrev Out := Host.Outcome State Fault Refusal

def State.frag (s : State) (i : Nat) : Frag := Store.get Frag.reset s.frags i
def State.modFrag (s : State) (i : Nat) (f : Frag → Frag) : State :=
  { s with frags := Store.put Frag.reset s.frags i (f (s.frag i)) }
def Frag.queue (f : Frag) (q : Nat) : List Cmd := Store.get [] f.q q
def Frag.setQueue (f : Frag) (q : Nat) (l : List Cmd) : Frag := { f with q := Store.put [] f.q q l }
def State.queue (s : State) (i q : Nat) : List Cmd := (s.frag i).queue q
def State.setQueue (s : State) (i q : Nat) (l : List Cmd) : State := s.modFrag i (·.setQueue q l)

def State.die (s : State) (d : Nat) : Die := Store.get Die.reset s.dies d
def State.modDie (s : State) (d : Nat) (f : Die → Die) : State :=
  { s with dies := Store.put Die.reset s.dies d (f (s.die d)) }
/-- The die takes placements: no reset of it is under way (R14). -/
def State.dieOpen (s : State) (d : Nat) : Bool := (s.die d).stopAt.isNone && (s.die d).resetAt.isNone
def State.hq (s : State) (q : Nat) : HQueue := Store.get HQueue.reset s.queues q
def State.modHq (s : State) (q : Nat) (f : HQueue → HQueue) : State :=
  { s with queues := Store.put HQueue.reset s.queues q (f (s.hq q)) }
/-- The link between two dies, whichever is named first (R22). -/
def linkKey (a b : Nat) : Nat := if a < b then 16 * a + b else 16 * b + a
def State.link (s : State) (a b : Nat) : Link := Store.get Link.reset s.links (linkKey a b)
def State.modLink (s : State) (a b : Nat) (f : Link → Link) : State :=
  { s with links := Store.put Link.reset s.links (linkKey a b) (f (s.link a b)) }

def State.setCur (s : State) (f : Ctx → Ctx) : State := { s with cur := f s.cur }
/-- The context of a number, among the one that moves and the others. -/
def State.ctx? (s : State) (cid : Nat) : Option Ctx :=
  if s.cur.cid = cid then some s.cur else s.others.find? (fun c => c.cid == cid)
def State.modCtx (s : State) (cid : Nat) (f : Ctx → Ctx) : State :=
  if s.cur.cid = cid then { s with cur := f s.cur }
  else { s with others := s.others.map (fun c => if c.cid = cid then f c else c) }
/-- Every context of the package that exists. -/
def State.ctxs (s : State) : List Ctx := (s.cur :: s.others).filter (fun c => c.phase != .absent)
def insertCtx : Ctx → List Ctx → List Ctx
  | c, [] => [c]
  | c, d :: t => if c.cid < d.cid then c :: d :: t else d :: insertCtx c t
/-- Makes another context the one that moves. -/
def State.switchTo (s : State) (cid : Nat) : State :=
  if s.cur.cid = cid then s
  else match s.others.find? (fun c => c.cid == cid) with
    | none => s
    | some c =>
      let rest := s.others.filter (fun d => d.cid != cid)
      { s with cur := c, others := if s.cur.phase = .absent then rest else insertCtx s.cur rest }
/-- Adds a context; it moves at once where no context stands there. -/
def State.addCtx (s : State) (c : Ctx) : State :=
  if s.cur.phase = .absent then { s with cur := c } else { s with others := insertCtx c s.others }
/-- Removes contexts. The one that moves is left absent. -/
def State.dropCtxs (s : State) (cids : List Nat) : State :=
  { s with cur := if cids.contains s.cur.cid then Ctx.reset else s.cur,
           others := s.others.filter (fun c => !cids.contains c.cid) }

def State.unit? (s : State) (u : Nat) : Option UnitRec := Tab.get? s.units u
def State.modUnit (s : State) (u : Nat) (f : UnitRec → UnitRec) : State :=
  match s.unit? u with
  | none => s
  | some r => { s with units := Tab.set s.units u (f r) }
def State.launch? (s : State) (l : Nat) : Option Launch := Tab.get? s.launches l
def State.modLaunch (s : State) (l : Nat) (f : Launch → Launch) : State :=
  match s.launch? l with
  | none => s
  | some r => { s with launches := Tab.set s.launches l (f r) }
def State.ent? (s : State) (e : Nat) : Option Ent := Tab.get? s.ents e
def State.modEnt (s : State) (e : Nat) (f : Ent → Ent) : State :=
  match s.ent? e with
  | none => s
  | some r => { s with ents := Tab.set s.ents e (f r) }
def State.job? (s : State) (j : W16) : Option Job := Tab.get? s.jobs j.toNat
def State.modJob (s : State) (j : W16) (f : Job → Job) : State :=
  match s.job? j with
  | none => s
  | some r => { s with jobs := Tab.set s.jobs j.toNat (f r) }

def State.fresh (s : State) : Nat × State := (s.nextId, { s with nextId := s.nextId + 1 })

/-- A free choice among `n` (assumption 16). -/
def State.pick (s : State) (n : Nat) : Nat × State := (Config.freePick s.free % n, { s with free := s.free + 1 })

/-- CYCLE of a die: cycles of its arithmetic clock at the rate actually running (R21). -/
def State.cycle (s : State) (d : Nat) : Nat := (s.die d).cycles + (s.now - (s.die d).cycAt) / (s.die d).tpc
/-- FTIME as a die reads it (R208): 0 after the die's reset until the next synchronisation (R5). -/
def State.ftime (s : State) (d : Nat) : W64 :=
  if s.fab.valid && !s.fab.untimed.contains d then BitVec.ofNat 64 (2 ^ 63 + (s.fab.ns + (s.now - s.fab.nsAt) / ticksPerNs) % 2 ^ 63) else 0
def State.ftimeNs (s : State) : Nat := s.fab.ns + (s.now - s.fab.nsAt) / ticksPerNs

/-- Pane rows and columns of a shape code (R63). -/
def shapeHW : Nat → Option (Nat × Nat)
  | 0 => some (1, 1)
  | 1 => some (1, 2)
  | 2 => some (2, 1)
  | 3 => some (1, 4)
  | 4 => some (4, 1)
  | 5 => some (2, 2)
  | 6 => some (2, 4)
  | 7 => some (4, 2)
  | 8 => some (4, 4)
  | _ => none
def shapeCode (h w : Nat) : Nat :=
  ((List.range 9).find? (fun c => shapeHW c == some (h, w))).getD 0
/-- The panes (16 × die + pane) of a fragment, in row-major pane order. -/
def panesOf (seq h w : Nat) : List Nat :=
  (List.range (h * w)).map (fun i => seq + 4 * (i / w) + i % w)
/-- Whether a pane is a legal origin of a shape (R63). -/
def originOk (pane h w : Nat) : Bool :=
  pane < 16 && pane / 4 % h == 0 && pane % 4 % w == 0 && pane / 4 + h ≤ 4 && pane % 4 + w ≤ 4
/-- Heat per pane of a power class (R75). -/
def heatPer (pclass : Nat) : Nat := pclass

/-- Adds to an error counter, saturating (R249). -/
def satInc (x : W64) : W64 := if x = BitVec.allOnes 64 then x else x + 1
def State.count (s : State) (f : Errs → Errs) : State := { s with errs := f s.errs }

def u64 (n : Nat) : W64 := BitVec.ofNat 64 n
def u32 (n : Nat) : W32 := BitVec.ofNat 32 n
/-- A status word with a cause code and progress (R116). Progress or a count of 2^24 and more is kept modulo 2^24 (R140 is
silent: DESIGN CHOICE, assumption 43). -/
def statusWord (code prog : Nat) : W32 := u32 (1 + 2 * (code % 128) + 256 * (prog % 2 ^ 24))
def statusCode (w : W32) : Nat := w.toNat / 2 % 128

/-- The tables of R143: bits of an element. -/
def elemBits : Tag → Nat
  | .i32 => 32
  | .w32 => 32
  | .fp32 => 32
  | .bf16 => 16
  | .fp16 => 16
  | .e4m3 => 8
  | .e5m2 => 8
  | .ob8 => 8
  | .e2m1 => 4
  | .qc4 => 4
  | .ob4 => 4
  | .invalid => 32
/-- Bytes of an element, 0 for the 4-bit ones (R123). -/
def elemBytes (t : Tag) : Nat := elemBits t / 8

/-- Cause codes of R210. -/
abbrev cIllegal : Nat := 0x01
abbrev cPriv : Nat := 0x02
abbrev cAlign : Nat := 0x03
abbrev cWindow : Nat := 0x04
abbrev cXlate : Nat := 0x05
abbrev cPerm : Nat := 0x06
abbrev cMtype : Nat := 0x07
abbrev cTag : Nat := 0x08
abbrev cToken : Nat := 0x09
abbrev cLease : Nat := 0x0A
abbrev cShape : Nat := 0x0B
abbrev cArith : Nat := 0x0C
abbrev cSys : Nat := 0x0D
abbrev cLaunch : Nat := 0x10
abbrev cWeight : Nat := 0x11
abbrev cEcc : Nat := 0x12
abbrev cScope : Nat := 0x13
abbrev cDesc : Nat := 0x14
abbrev cReplica : Nat := 0x15
abbrev cMode : Nat := 0x16
/-- NACK codes of R211. -/
abbrev nSrcXlate : Nat := 0x20
abbrev nSrcPerm : Nat := 0x21
abbrev nDstXlate : Nat := 0x22
abbrev nDstPerm : Nat := 0x23
abbrev nTimeout : Nat := 0x24
abbrev nStale : Nat := 0x25
abbrev nCancelled : Nat := 0x26

end Sys2Proof.Machine
end

