-- ==== Sys2Proof/Machine/Memory.lean ====
section
/-! DEFINITION. Windows, translation, checks and their order, and reading and writing bytes (R163 to R178).
Keys of `State.mem`: DRAM byte a of die d at d × 2^38 + a; scratchpad byte o of pane p (16 × die + pane) at
2^42 + p × 2^24 + o; byte a of the memory of the host on link l at (l + 1) × 2^64 + a. -/
namespace Sys2Proof.Machine

def dramKey (die a : Nat) : Nat := die * 2 ^ 38 + a
def spKey (pane off : Nat) : Nat := 2 ^ 42 + pane * 2 ^ 24 + off
def hostKey (link a : Nat) : Nat := (link + 1) * 2 ^ 64 + a


/-- The result of an access: a value; a fault with its cause, the address and the bits of TDATA (R172, R214);
or held by a retraining window or a die reset (R14, R22). -/
inductive Res (α : Type) where
  | ok (a : α)
  | fail (cause : Nat) (addr : W64) (tdata : Nat)
  | hold
deriving Repr

def Res.bind {α β : Type} (r : Res α) (f : α → Res β) : Res β :=
  match r with
  | .ok a => f a
  | .fail c a d => .fail c a d
  | .hold => .hold

/-- Who accesses: context id, die, fragment origin and shape for the scratchpad window, shared slot, array
fragment for the accumulator window, context whose combining buffer is read first (R174). -/
structure Who where
  ctxid  : W16
  die    : Nat
  seq    : Nat
  panes  : Nat
  cols   : Nat
  arr    : Nat
  cid    : Nat
deriving DecidableEq, Repr

def Ctx.who (c : Ctx) : Who := ⟨c.ctxid, c.seq / 16, c.seq, c.h * c.w, c.w, c.arr, c.cid⟩
/-- An engine command reads memory as its issuing context does, but never its combining buffer (R174). -/
def Cmd.who (k : Cmd) : Who := ⟨k.ctxid, k.seq / 16, k.seq, k.h * k.w, k.w, k.arr, 0⟩
/-- An access of the control die or a gateway in a context: no window but the global one (no fragment stands at
192). -/
def Who.ctl (ctxid : W16) (die : Nat) : Who := ⟨ctxid, die, 0, 0, 1, 192, 0⟩

/-- Kinds of access in TDATA[1:0] (R172). -/
inductive Kind where
  | read | write | rmw | fetch
deriving DecidableEq, Repr
def Kind.code : Kind → Nat
  | .read => 0
  | .write => 1
  | .rmw => 2
  | .fetch => 3

/-- The operations of R166, each with the targets it accepts. -/
inductive MemOp where
  | fetch | load | store | atomic | watch | counter | engRead | engWrite | xred
deriving DecidableEq, Repr

/-- Memory types that an operation accepts (R166): MT 0 NORMAL, 1 WC, 2 DEVICE, 3 SO. -/
def MemOp.accepts : MemOp → Nat → Bool
  | .load, _ => true
  | .store, _ => true
  | .engRead, mt => mt < 2
  | .engWrite, mt => mt < 2
  | _, mt => mt == 0
/-- What an operation takes in the accumulator window, if it is not accepted there (R166). -/
def MemOp.accCause : MemOp → Option Nat
  | .load => none
  | .engRead => none
  | .fetch => some cWindow
  | .watch => some cMtype
  | .counter => some cMtype
  | _ => some cPerm
def MemOp.kind : MemOp → Kind
  | .fetch => .fetch
  | .store => .write
  | .engWrite => .write
  | .atomic => .rmw
  | .counter => .rmw
  | .xred => .rmw
  | _ => .read
def MemOp.needsRd : MemOp → Bool
  | .store => false
  | .engWrite => false
  | .fetch => false
  | _ => true
def MemOp.needsW : MemOp → Bool
  | .store => true
  | .engWrite => true
  | .atomic => true
  | .counter => true
  | .xred => true
  | _ => false
def MemOp.readsData : MemOp → Bool
  | .store => false
  | .engWrite => false
  | _ => true

/-- The windows of R163. -/
inductive Win where
  | global | scratch | acc | none
deriving DecidableEq, Repr
def globalSize : Nat := 2 ^ 54
def spBase : Nat := 0xFFFFF00000000000
def accBase : Nat := 0xFFFFF10000000000
/-- Size of the accumulator window: 2 MiB for each south-edge pane (R85). -/
def accSize (s : State) (w : Who) : Nat := 2 ^ 21 * (s.frag w.arr).w
def winOf (s : State) (w : Who) (a : Nat) : Win :=
  if a < globalSize then .global
  else if spBase ≤ a && a < spBase + 2 ^ 24 * w.panes then .scratch
  else if accBase ≤ a && a < accBase + accSize s w then .acc
  else .none
/-- R164: the window that holds all `n` bytes from `a`. -/
def winOfRange (s : State) (w : Who) (a : W64) (n : Nat) : Win :=
  let v := winOf s w a.toNat
  if v = winOf s w (a + u64 (n - 1)).toNat then v else .none

/-- The scratchpad byte at a window offset: panes in row-major order (R103, R163). -/
def spLoc (w : Who) (off : Nat) : Loc :=
  let i := off / 2 ^ 24
  let k := spKey (w.seq + 4 * (i / w.cols) + i % w.cols) (off % 2 ^ 24)
  .mem k 0 0

/-- Columns of a pane under a geometry, and rows of the bank (R83). -/
def colsPer (geom : Nat) : Nat := 128 * 2 ^ geom
def accRows (geom : Nat) : Nat := 4096 / 2 ^ geom
def Frag.nmax (f : Frag) : Nat := colsPer f.geom * f.w
def Frag.arows (f : Frag) : Nat := accRows f.geom
def Frag.kfrag (f : Frag) : Nat := 128 * f.h
/-- Key of an accumulator word (R85): row r and column n of a fragment's working or visible half. -/
def accKey (s : State) (arr : Nat) (visible : Bool) (r n : Nat) : Nat :=
  let f := s.frag arr
  let cp := colsPer f.geom
  let pane := arr + 4 * (f.h - 1) + n / cp
  let v := Store.get 0 s.accVis pane
  (2 * pane + (if visible then v else 1 - v)) * 524288 + r * cp + n % cp
def accLoc (s : State) (w : Who) (off : Nat) : Loc :=
  let f := s.frag w.arr
  .acc (accKey s w.arr true (off / 4 / f.nmax) (off / 4 % f.nmax)) (off % 4)

/-- Bytes of an ECC word as numbers of that word (R178): memory keys, and accumulator words beyond them. -/
def Loc.eccKey : Loc → Nat
  | .mem k _ _ => k
  | .acc w i => 2 ^ 46 + 4 * w + i
def eccBad (s : State) (ls : List Loc) : Bool :=
  !s.ecc.isEmpty && ls.any (fun l => s.ecc.contains (l.eccKey >>> Config.eccLog2))

def memByte (s : State) (k : Nat) : Byte := Store.get memDefault s.mem k
/-- Little-endian value of `n` bytes of memory from a key (R4). -/
def memNat (s : State) (k : Nat) : Nat → Nat
  | 0 => 0
  | n + 1 => (memByte s k).toNat + 256 * memNat s (k + 1) n

/-- One decoded entry of the page table (R168), or none where a field that its kind fixes is not as R169
requires. -/
inductive Entry where
  | table (die addr : Nat)
  | leaf (l : Leaf)

/-- Capacity of the two stacks of a die (R10). -/
def dieBytes : Nat := 192000000000

/-- Bytes that a striped page of `blocks` 4 KiB blocks takes on each die (R170). -/
def stripedBytes (log2 : Nat) : Nat := (2 ^ (log2 - 12) + 11) / 12 * 4096

def entryOf (level : Nat) (w0 w1 : Nat) : Option Entry :=
  let f (lo n : Nat) := w0 / 2 ^ lo % 2 ^ n
  let addr := w1 % 2 ^ 38
  let die := f 12 4
  if f 0 1 = 0 || f 48 16 != 0 || f 16 8 != 0 || f 2 2 != 0 || w1 / 2 ^ 38 != 0 || 12 ≤ die then none
  else if f 1 1 = 0 then
    let size := if level = 3 then 2 ^ 16 else if level = 2 then 2 ^ 13 else 2 ^ 9
    if level = 0 || f 4 7 != 0 || f 11 1 != 0 || f 24 8 != 0 || f 32 16 != 0 || addr % size != 0
        || dieBytes < addr + size then none
    else some (.table die addr)
  else
    let log2 := if level = 2 then 30 else if level = 1 then 21 else 16
    let striped := f 11 1 = 1
    let need := if striped then stripedBytes log2 else 2 ^ log2
    let mt := f 7 2
    if level = 3 || (f 9 1 = 1 && mt != 0) || 64 ≤ f 24 8
        || addr % (if striped then 4096 else 2 ^ log2) != 0 || dieBytes < addr + need then none
    else some (.leaf ⟨log2, BitVec.ofNat 16 (f 32 16), f 24 8, die, striped, f 9 1 = 1, f 10 1 = 1, mt,
      f 6 1 = 1, f 5 1 = 1, f 4 1 = 1, addr⟩)

/-- Index of a virtual address at a level (R167). -/
def walkIndex (level va : Nat) : Nat :=
  if level = 3 then va / 2 ^ 42 % 4096
  else if level = 2 then va / 2 ^ 30 % 4096
  else if level = 1 then va / 2 ^ 21 % 512
  else va / 2 ^ 16 % 32

/-- The walk from a table at a level downward (R169): a leaf with the level where it stands, or the level of
the XLATE fault. The first argument bounds the levels. An entry is read as raw bytes: no rule names a report for a walker
that meets an uncorrectable error (R178: DESIGN CHOICE, assumption 18). -/
def walk (s : State) (va : Nat) : Nat → Nat → Nat → Nat → Except Nat (Leaf × Nat)
  | 0, level, _, _ => .error level
  | fuel + 1, level, die, tab =>
    let k := dramKey die (tab + 16 * walkIndex level va)
    match entryOf level (memNat s k 8) (memNat s (k + 8) 8) with
    | none => .error level
    | some (.leaf l) => .ok (l, level)
    | some (.table d a) => walk s va fuel (level - 1) d a

/-- A retraining window, at most 1 µs long (R22). -/
def windowOpen (s : State) (l : Link) : Bool := l.window.any (fun t => s.now < t + ticksPerUs)
/-- Traffic of a die to memory homed on another is held while their link retrains (R22), and every access to
memory homed on a die in reset is held (R14). -/
def heldBy (s : State) (die home : Nat) : Bool :=
  (s.die home).resetAt.isSome || (die != home && windowOpen s (s.link die home))
/-- Whether the walk meets a table that the control die's walkers cannot read now (R14, R22). -/
def walkHeld (s : State) (va : Nat) : Nat → Nat → Nat → Nat → Bool
  | 0, _, _, _ => false
  | fuel + 1, level, die, tab =>
    heldBy s 15 die ||
      (let k := dramKey die (tab + 16 * walkIndex level va)
       match entryOf level (memNat s k 8) (memNat s (k + 8) 8) with
       | some (.table d a) => walkHeld s va fuel (level - 1) d a
       | _ => false)
def translateHeld (s : State) (ctx : W16) (va : Nat) : Bool :=
  match s.job? ctx with
  | none => false
  | some j => walkHeld s va 4 3 j.rootDie j.rootAddr

/-- Translation of a global address in a context (R169): an absent job faults at level 3. -/
def translate (s : State) (ctx : W16) (va : Nat) : Except Nat (Leaf × Nat) :=
  match s.job? ctx with
  | none => .error 3
  | some j => walk s va 4 3 j.rootDie j.rootAddr

/-- Home die and die-local address of a byte of a page (R17, R170). -/
def Leaf.place (l : Leaf) (va : Nat) : Nat × Nat :=
  let off := va % 2 ^ l.log2
  if l.striped then ((off / 4096 + l.die) % 12, l.addr + off / 4096 / 12 * 4096 + off % 4096)
  else (l.die, l.addr + off)
def Leaf.loc (l : Leaf) (va : Nat) : Loc :=
  let (d, a) := l.place va
  .mem (dramKey d a) l.slot a

/-- Checks after a valid leaf in the order of R169, with the walk level in the fault. -/
def leafCheck (s : State) (ctx : W16) (op : MemOp) (a : W64) (l : Leaf) (level : Nat) : Res Unit :=
  let td := op.kind.code + 16 * level
  if l.owner != ctx then .fail cPerm a td
  else if l.slot != 0 && Store.get 0 s.keys l.slot == 0 then .fail cPerm a td
  else if !op.accepts l.mt then .fail cMtype a op.kind.code
  else if op = .fetch && !l.x then .fail cPerm a td
  else if op.needsRd && !l.rd then .fail cPerm a td
  else if op.needsW && !l.w then .fail cPerm a td
  else .ok ()

/-- Whether either home of an element of at most 4 KiB is held: one that crosses a block boundary of a striped page
is served by both (R18). -/
def Leaf.held (s : State) (die : Nat) (l : Leaf) (a : W64) (n : Nat) : Bool :=
  heldBy s die (l.place a.toNat).1 || heldBy s die (l.place (a.toNat + (n - 1))).1

/-- The locations of an element of `n` bytes and its page, after every check but ALIGN (R164, R166, R169). -/
def access (s : State) (w : Who) (op : MemOp) (a : W64) (n : Nat) : Res (List Loc × Option Leaf) :=
  let td := op.kind.code
  match winOfRange s w a n with
  | .none => .fail cWindow a td
  | .scratch =>
    if op = .fetch then .fail cWindow a td
    else
      let ls := (List.range n).map (fun i => spLoc w (a.toNat - spBase + i))
      if op.readsData && eccBad s ls then .fail cEcc a td else .ok (ls, none)
  | .acc =>
    match op.accCause with
    | some c => .fail c a td
    | none =>
      let ls := (List.range n).map (fun i => accLoc s w (a.toNat - accBase + i))
      if op.readsData && eccBad s ls then .fail cEcc a td else .ok (ls, none)
  | .global =>
    if translateHeld s w.ctxid a.toNat then .hold
    else match translate s w.ctxid a.toNat with
    | .error lv => .fail cXlate a (td + 16 * lv)
    | .ok (l, lv) =>
      match leafCheck s w.ctxid op a l lv with
      | .fail c b d => .fail c b d
      | .hold => .hold
      | .ok () =>
        if l.held s w.die a n then .hold
        else
          let ls := (List.range n).map (fun i => l.loc (a.toNat + i))
          if op.readsData && eccBad s ls then .fail cEcc a td else .ok (ls, some l)

/-- The checks of an access alone: ECC is met only when the data is read (R169, R314, R347). -/
def accessChecks (s : State) (w : Who) (op : MemOp) (a : W64) (n : Nat) : Res (List Loc × Option Leaf) :=
  access { s with ecc := [] } w op a n

/-- The key of a slot (R177). -/
def slotKey (s : State) (slot : Nat) : BitVec 512 := Store.get 0 s.keys slot

def memBlock (s : State) (k : Nat) : List Nat := (List.range 16).map (fun i => (memByte s (k + i)).toNat)

/-- A byte as its page's key shows it (R177). -/
def readLoc (s : State) : Loc → Nat
  | .acc w i => (Store.get 0 s.accs w).toNat / 256 ^ i % 256
  | .mem k slot phys =>
    if slot = 0 then (memByte s k).toNat
    else byteAt (xtsDec (slotKey s slot) (phys / 16 * 16) (memBlock s (k - phys % 16))) (phys % 16)

/-- Writes one byte of memory; a tail word it lies in counts as written (R370). -/
def setByte (s : State) (k : Nat) (b : Nat) : State :=
  { s with
    mem := Store.put memDefault s.mem k (BitVec.ofNat 8 b)
    twSeen := s.twSeen.filter (fun e => !(e.2 ≤ k && k < e.2 + 8)) }

def setBytes (s : State) (k : Nat) : List Nat → State
  | [] => s
  | b :: t => setBytes (setByte s k b) (k + 1) t

/-- As `setBytes`, for the enciphered bytes beside the one that is written: no tail word counts as written. -/
def putBytes (s : State) (k : Nat) : List Nat → State
  | [] => s
  | b :: t => putBytes { s with mem := Store.put memDefault s.mem k (BitVec.ofNat 8 b) } (k + 1) t

/-- Writes a byte under its page's key: the 16-byte block is deciphered, changed and enciphered again. Of the tail
words only one that the byte lies in counts as written (R370). -/
def writeLoc (s : State) (l : Loc) (b : Nat) : State :=
  match l with
  | .acc w i =>
    let x := (Store.get 0 s.accs w).toNat
    let y := x - x / 256 ^ i % 256 * 256 ^ i + b % 256 * 256 ^ i
    { s with accs := Store.put 0 s.accs w (u32 y) }
  | .mem k slot phys =>
    if slot = 0 then setByte s k b
    else
      let o := phys % 16
      let blk := xtsDec (slotKey s slot) (phys / 16 * 16) (memBlock s (k - o))
      putBytes { s with twSeen := s.twSeen.filter (fun e => !(e.2 ≤ k && k < e.2 + 8)) } (k - o)
        (xtsEnc (slotKey s slot) (phys / 16 * 16) (blk.set o (b % 256)))

/-- ECC words that a write from key `k` of `n` bytes overwrites in full become correct (R178). -/
def eccFix (s : State) (k n : Nat) : State :=
  if s.ecc.isEmpty then s
  else { s with ecc := s.ecc.filter (fun e =>
    !(k ≤ e <<< Config.eccLog2 && (e + 1) <<< Config.eccLog2 ≤ k + n)) }

/-- As `eccFix`, for bytes that need not lie side by side: those of an element or packet over two blocks (R170), of
writes that were merged before they became visible (R174, R178). -/
def eccFixKeys (s : State) (keys : List Nat) : State :=
  if s.ecc.isEmpty then s
  else { s with ecc := s.ecc.filter (fun e =>
    !((List.range (2 ^ Config.eccLog2)).all (fun i => keys.contains (e <<< Config.eccLog2 + i)))) }

/-- The element at a list of locations, the byte at the lowest address in bits [7:0] (R4). -/
def readLocs (s : State) : List Loc → Nat
  | [] => 0
  | l :: t => readLoc s l + 256 * readLocs s t

def writeBytesAt (s : State) : List Loc → Nat → State
  | [], _ => s
  | l :: t, v => writeBytesAt (writeLoc s l (v % 256)) t (v / 256)
def writeLocs (s : State) (ls : List Loc) (v : Nat) : State :=
  eccFixKeys (writeBytesAt s ls v) (ls.map Loc.eccKey)
/-- Bytes that a command or a vector store has written, piece by piece: an ECC word that it has overwritten in full since
the error becomes correct (R178). -/
def eccMerge (s : State) (id : Nat) (keys : List Nat) : State :=
  if s.ecc.isEmpty then s
  else
    let new := keys.filter (fun k => s.ecc.contains (k >>> Config.eccLog2) && !s.eccPart.contains (id, k))
    let part := s.eccPart ++ new.map (fun k => (id, k))
    let s1 := eccFixKeys s ((part.filter (fun e => e.1 == id)).map (·.2))
    { s1 with eccPart := part.filter (fun e => s1.ecc.contains (e.2 >>> Config.eccLog2)) }
/-- A writer has done. -/
def State.eccDone (s : State) (id : Nat) : State := { s with eccPart := s.eccPart.filter (fun e => e.1 != id) }
/-- An element that is one piece of what a command writes. -/
def writePiece (s : State) (id : Nat) (ls : List Loc) (v : Nat) : State :=
  eccMerge (writeBytesAt s ls v) id (ls.map Loc.eccKey)

/-- Where a held byte goes when it becomes visible: it takes its place in the global order then, and so is
translated then (R171, R173). -/
def WcByte.place (s : State) (w : Who) (b : WcByte) : Res (List Loc × Option Leaf) := access s w .store b.va 1
/-- The key of that place, the one of the store's time where the tables give none now. -/
def WcByte.key (s : State) (w : Who) (b : WcByte) : Nat :=
  match b.place s w with
  | .ok ([.mem k _ _], _) => k
  | _ => b.phys
/-- A byte as the storing context sees it: its own latest WC store, if it holds one (R174). A page is aligned to at least
4 KiB, and so are the blocks of a striped one (R17, R170): the low bits of an address are those of its place. -/
def wcByte? (s : State) (w : Who) (wc : List WcByte) (k : Nat) : Option Nat :=
  (wc.reverse.find? (fun b => b.va.toNat % 4096 == k % 4096 && b.key s w == k)).map (fun b => b.byte.toNat)
def readLocOwn (s : State) (w : Who) (wc : List WcByte) (l : Loc) : Nat :=
  match l with
  | .mem k _ _ => (wcByte? s w wc k).getD (readLoc s l)
  | .acc _ _ => readLoc s l
def readLocsOwn (s : State) (w : Who) (wc : List WcByte) : List Loc → Nat
  | [] => 0
  | l :: t => readLocOwn s w wc l + 256 * readLocsOwn s w wc t

def Res.held {α : Type} : Res α → Bool
  | .hold => true
  | _ => false
/-- Bytes of one element: they become visible at once (R180). -/
def WcByte.mate (a b : WcByte) : Bool := a.first == b.first && a.since == b.since
/-- Held bytes that stay: those of an element of which a home is held by a link or a reset (R14, R22), or of which an older
element that stays has a byte. `kept` are the older ones that stay. -/
def wcStay (s : State) (w : Who) (all : List WcByte) : List WcByte → List WcByte → List WcByte
  | [], kept => kept
  | b :: t, kept =>
    wcStay s w all t (if all.any (fun x => b.mate x && ((x.place s w).held || kept.any (fun y => y.va == x.va)))
      then kept ++ [b] else kept)
/-- No die is in reset and no link retrains: nothing is held (R14, R22). -/
def nothingHeld (s : State) : Bool :=
  s.dies.all (fun d => d.2.resetAt.isNone) && s.links.all (fun l => !windowOpen s l.2)
def wcKept (s : State) (w : Who) (l : List WcByte) : List WcByte := if nothingHeld s then [] else wcStay s w l l []
/-- Of some bytes those that do not stay with their places; a byte whose page no longer allows the store is lost
(assumption 75). -/
def wcPlaces (s : State) (w : Who) (kept l : List WcByte) : List (Loc × Nat) :=
  (l.filter (fun b => !kept.contains b)).filterMap (fun b => match b.place s w with
    | .ok ([x], _) => some (x, b.byte.toNat)
    | _ => none)
def wcGoing (s : State) (w : Who) (l : List WcByte) : List (Loc × Nat) := wcPlaces s w (wcKept s w l) l
def writeEach (s : State) : List (Loc × Nat) → State
  | [] => s
  | e :: t => writeEach (writeLoc s e.1 e.2) t
/-- Bytes take their places, the oldest first. -/
def writeWc (s : State) (l : List (Loc × Nat)) : State := eccFixKeys (writeEach s l) (l.map (·.1.eccKey))
/-- Makes held bytes of a combining buffer visible (R174). -/
def flushWc (s : State) (w : Who) (l : List WcByte) : State := writeWc s (wcGoing s w l)
def State.flush (s : State) (cid : Nat) : State :=
  match s.ctx? cid with
  | none => s
  | some c => (flushWc s c.who c.wc).modCtx cid (fun c' => { c' with wc := wcKept s c.who c.wc })
/-- The held bytes that satisfy `p` become visible, where nothing keeps them. -/
def State.flushSome (s : State) (cid : Nat) (p : WcByte → Bool) : State :=
  match s.ctx? cid with
  | none => s
  | some c =>
    let kept := wcKept s c.who c.wc
    (writeWc s (wcPlaces s c.who kept (c.wc.filter p))).modCtx cid (fun c' =>
      { c' with wc := c.wc.filter (fun b => !p b || kept.contains b) })

/-- A location of global memory, as its writes are folded (R55, R56). -/
def isGlobal (a : W64) : Bool := a.toNat < globalSize
/-- The bytes of a WC store, to be held, of an element that begins at `e`. -/
def wcBytes (now : Nat) (e a : W64) (ls : List Loc) (n v : Nat) : List WcByte :=
  (List.zip ls (leList n v)).zipIdx.filterMap (fun x =>
    match x.1.1 with
    | .mem k slot _ => some ⟨a + u64 x.2, e, k, slot, BitVec.ofNat 8 x.1.2, now⟩
    | .acc _ _ => none)
/-- A store of a context to checked locations: held if WC (R174), not performed by a secondary in global memory
(R55). -/
def putFor (s : State) (cid : Nat) (sec : Bool) (e a : W64) (ls : List Loc) (leaf : Option Leaf) (n v : Nat) : State :=
  if sec && isGlobal a then s
  else match leaf with
    | some l =>
      if l.mt = 1 then s.modCtx cid (fun c => { c with wc := c.wc ++ wcBytes s.now e a ls n v }) else writeLocs s ls v
    | none => writeLocs s ls v
def spanLocs (sp : List Span) : List Loc := (sp.map (·.locs)).flatten
/-- An element's access, page by page: a super-scale may cross into a second one (R313, R314). -/
def spansWith (acc : W64 → Nat → Res (List Loc × Option Leaf)) (a : W64) (n : Nat) : Res (List Span) :=
  let k := 65536 - a.toNat % 65536
  if n ≤ k then (acc a n).bind (fun r => .ok [⟨a, r.1, r.2⟩])
  else (acc a k).bind (fun r => (acc (a + u64 k) (n - k)).bind (fun q => .ok [⟨a, r.1, r.2⟩, ⟨a + u64 k, q.1, q.2⟩]))
/-- As `putFor`, for a piece of a vector store (R178). -/
def putPiece (s : State) (cid : Nat) (sec : Bool) (e : W64) (x : Span) (v : Nat) : State :=
  let kept := (sec && isGlobal x.addr) || x.leaf.any (fun l => l.mt = 1)
  eccMerge (putFor s cid sec e x.addr x.locs x.leaf x.locs.length v) cid (if kept then [] else x.locs.map Loc.eccKey)
def putSpans (s : State) (cid : Nat) (sec : Bool) (e : W64) : List Span → Nat → State
  | [], _ => s
  | x :: t, v =>
    let n := x.locs.length
    putSpans (putPiece s cid sec e x (v % 256 ^ n)) cid sec e t (v / 256 ^ n)
/-- Where an element of a vector store goes, none while a home is held (R14, R22): it is translated when it is made (R171,
R180). Its checks were made before the first element was stored (R314, R347), and after them no trap could leave what is
stored undone (R7): an element whose page no longer allows the store goes to the place of its check (DESIGN CHOICE,
assumption 93). -/
def storeSpans (s : State) (w : Who) (x : W64 × Nat) (checked : List Span) : Option (List Span) :=
  match spansWith (access s w .store) x.1 x.2 with
  | .ok sp => some sp
  | .hold => none
  | .fail _ _ _ =>
    if checked.any (fun c => c.leaf.any (fun l => l.held s w.die c.addr c.locs.length)) then none else some checked
/-- Up to `n` element writes of a vector store in order, and what of it is still to be stored. -/
def vecWrites (w : Who) (cid : Nat) (sec : Bool) : Nat → State → VecPart → State × VecPart
  | n + 1, s, ⟨i, x :: t, v :: vs, c :: cs⟩ =>
    match storeSpans s w x c with
    | none => (s, ⟨i, x :: t, v :: vs, c :: cs⟩)
    | some sp => vecWrites w cid sec n (putSpans s cid sec x.1 sp v) ⟨i, t, vs, cs⟩
  | _, s, p => (s, p)
def isVecStore : Sys2Proof.Instr → Bool
  | .stv _ _ _ _ _ => true
  | .vstx _ _ _ _ _ _ => true
  | _ => false
/-- A context comes to its instruction boundary (R224): a vector store that has begun runs to its end, or as far as no
home is held; a load is given up (assumption 93). -/
def State.endPart (s : State) (cid : Nat) : State :=
  match s.ctx? cid with
  | none => s
  | some c => match c.vec with
    | none => s
    | some p =>
      if isVecStore p.instr then
        let r := vecWrites c.who cid c.sec p.accs.length s p
        if r.2.accs.isEmpty then (r.1.eccDone cid).modCtx cid (fun c => { c with pc := c.pc + 8, vec := none })
        else r.1.modCtx cid (fun c => { c with vec := some r.2 })
      else s.modCtx cid (fun c => { c with vec := none })

/-- Where a late store goes now; one whose page no longer allows it is lost (assumption 75). -/
def Late.spans (s : State) (x : Late) : Res (List Span) := spansWith (access s (Who.ctl x.ctxid x.die) .store) x.addr x.n
/-- Late stores take place once nothing holds their homes (R14, R22). -/
def State.landLate (s : State) : State :=
  s.late.foldl (fun s x => match x.spans s with
    | .hold => { s with late := s.late ++ [x] }
    | .fail _ _ _ => s
    | .ok sp => writeLocs s (spanLocs sp) x.val) { s with late := [] }
def State.retryLate (s : State) : State := if s.late.isEmpty then s else s.landLate

/-- CRC-64 of R56 over a byte string. -/
def crcBits : Nat → Nat → Nat
  | 0, r => r
  | n + 1, r => crcBits n (if r < 2 ^ 63 then 2 * r else (2 * r - 2 ^ 64) ^^^ 0x42F0E1EBA9EA3693)
def crc64 (bs : List Nat) : Nat := bs.foldl (fun r b => crcBits 8 (r ^^^ (b * 2 ^ 56))) 0

/-- The bytes of a value at an address, added to what one instruction or command writes. -/
def logBytes (t : Tab Nat) (a : Nat) : List Nat → Tab Nat
  | [] => t
  | b :: bs => logBytes (Tab.set t a b) (a + 1) bs
/-- The bytes of a rising list that lie in one 8-byte granule, and the rest. -/
def granule (g : Nat) : Tab Nat → List Nat × Tab Nat
  | [] => ([], [])
  | (a, b) :: t => if a / 8 = g then ((b :: (granule g t).1), (granule g t).2) else ([], (a, b) :: t)
/-- What the bytes that one store or command writes add to a signature: one CRC for each granule touched (R56). -/
def foldTab : Nat → Tab Nat → Nat
  | 0, _ => 0
  | _ + 1, [] => 0
  | fuel + 1, (a, b) :: t =>
    let (bs, rest) := granule (a / 8) ((a, b) :: t)
    crc64 (leList 8 a ++ [bs.length] ++ bs) + foldTab fuel rest
def State.foldBytes (s : State) (uid : Nat) (t : Tab Nat) : State :=
  s.modUnit uid (fun u => { u with sig := u.sig + u64 (foldTab (t.length + 1) t) })
/-- A scalar store's bytes. -/
def State.fold (s : State) (uid : Nat) (a : W64) (n v : Nat) : State :=
  s.foldBytes uid (logBytes [] a.toNat (leList n v))
/-- Bytes that a command writes are kept until its end, since its granules may be touched in pieces (R56). -/
def State.logWrite (s : State) (uid id : Nat) (a : W64) (bs : List Nat) : State :=
  s.modUnit uid (fun u => { u with wlog := Tab.set u.wlog id (logBytes ((Tab.get? u.wlog id).getD []) a.toNat bs) })
def loggedByte (s : State) (uid id : Nat) (a : W64) : Nat :=
  (((s.unit? uid).bind (fun u => Tab.get? u.wlog id)).bind (fun t => Tab.get? t a.toNat)).getD 0
/-- The signature takes what a command wrote. -/
def State.foldCmd (s : State) (uid id : Nat) : State :=
  match (s.unit? uid).bind (fun u => Tab.get? u.wlog id) with
  | none => s
  | some t => (s.foldBytes uid t).modUnit uid (fun u => { u with wlog := Tab.erase u.wlog id })

end Sys2Proof.Machine
end

