-- ==== Sys2Proof/Machine/Work.lean ====
section
/-! DEFINITION. Tokens and their propagation (R115 to R118), completion weights (R40 to R43), failed launches
(R50), outcome records and interrupts (R246, R247), barriers left (R288), and units that stop without an image
(R217, R232). -/
namespace Sys2Proof.Machine

def Done.ofStatus (st : W32) : Done := ⟨st, 0, 0⟩
def Done.code (d : Done) : Nat := statusCode d.status

/-- A token as an input of a command (R115). -/
def Token.inp (t : Token) : Inp := if t.pend = 0 then .done t.done else .pend t.pend
def Inp.resolve (id : Nat) (d : Done) : Inp → Inp
  | .done e => .done e
  | .pend i => if i = id then .done d else .pend i
def Inp.isDone : Inp → Bool
  | .done _ => true
  | .pend _ => false
def inputsDone (l : List Inp) : Bool := l.all Inp.isDone
/-- First faulted input in the order KA, KB, KC (R117). -/
def firstFault : List Inp → Option Done
  | [] => none
  | .done d :: t => if d.code = 0 then firstFault t else some d
  | .pend _ :: t => firstFault t
/-- What a command that waits only for its inputs completes with once all are complete and one is faulted. -/
def inputFault (l : List Inp) : Option Done := if inputsDone l then firstFault l else none

def Token.resolve (id : Nat) (d : Done) (t : Token) : Token := if t.pend = id then ⟨0, d⟩ else t
def resolveToks (id : Nat) (d : Done) (k : Store Token) : Store Token :=
  (k.map (fun e => (e.1, e.2.resolve id d))).filter (fun e => decide (e.2 ≠ Token.reset))
def Ctx.resolve (id : Nat) (d : Done) (c : Ctx) : Ctx := { c with k := resolveToks id d c.k }
def Cmd.resolve (id : Nat) (d : Done) (k : Cmd) : Cmd := { k with ins := k.ins.map (Inp.resolve id d) }
def Frag.resolve (id : Nat) (d : Done) (f : Frag) : Frag :=
  { f with q := f.q.map (fun e => (e.1, e.2.map (Cmd.resolve id d))) }
def Image.resolve (id : Nat) (d : Done) (m : Image) : Image :=
  { m with ctxs := m.ctxs.map (Ctx.resolve id d), frags := m.frags.map (fun e => (e.1, e.2.resolve id d)) }

/-- Every place that names a pending token sees it complete: registers, queued commands, joins, waiting
LAUNCHes, saved contexts (R230, R309). -/
def State.resolve1 (s : State) (id : Nat) (d : Done) : State :=
  { s with
    cur := s.cur.resolve id d
    others := s.others.map (Ctx.resolve id d)
    frags := s.frags.map (fun e => (e.1, e.2.resolve id d))
    joins := s.joins.map (fun j => { j with ins := j.ins.map (Inp.resolve id d) })
    pend := s.pend.map (fun p => { p with ins := p.ins.map (Inp.resolve id d) })
    units := s.units.map (fun e => (e.1, { e.2 with image := e.2.image.map (Image.resolve id d) }))
    detached := s.detached.map (fun x => { x with image := x.image.resolve id d }) }

/-- Takes one entry out of a queue. -/
def Frag.dropCmd (id : Nat) (f : Frag) : Frag :=
  { f with
    q := (f.q.map (fun e => (e.1, e.2.filter (fun k => k.id != id)))).filter (fun e => !e.2.isEmpty)
    cur := if f.cur = some id then none else f.cur }
def Image.dropCmd (id : Nat) (m : Image) : Image :=
  { m with frags := m.frags.map (fun e => (e.1, e.2.dropCmd id)) }
/-- A command leaves its queue; an end marker no longer stands behind it (R107). -/
def State.dropCmd (s : State) (id : Nat) : State :=
  { s with
    frags := (s.frags.map (fun e => (e.1, e.2.dropCmd id))).filter (fun e => decide (e.2 ≠ Frag.reset))
    chains := s.chains.map (fun c => { c with marker := c.marker.map (fun l => l.filter (· != id)) })
    units := s.units.map (fun e => (e.1, { e.2 with image := e.2.image.map (Image.dropCmd id) })) }

/-- The joins and LAUNCHes whose inputs are all complete: what they complete with now. -/
def settledJoin (s : State) : Option (Nat × Done) :=
  (s.joins.find? (fun j => inputsDone j.ins)).map (fun j => (j.id, (firstFault j.ins).getD Done.ok))
def faultedPend (s : State) : Option (Nat × Done) :=
  s.pend.findSome? (fun p => if p.child.isSome then none else (inputFault p.ins).map (fun d => (p.id, d)))
/-- Completes every join and every waiting LAUNCH that complete tokens settle (R117, R119). A queued command
with a faulted input completes at its COMMAND_START. -/
def propagate : Nat → State → State
  | 0, s => s
  | fuel + 1, s =>
    match settledJoin s with
    | some (id, d) => propagate fuel ({ s with joins := s.joins.filter (fun j => j.id != id) }.resolve1 id d)
    | none =>
      match faultedPend s with
      | some (id, d) => propagate fuel ({ s with pend := s.pend.filter (fun p => p.id != id) }.resolve1 id d)
      | none => s

def State.entries (s : State) : Nat := s.joins.length + s.pend.length
def State.settle (s : State) : State := propagate (s.entries + 1) s
def State.complete (s : State) (id : Nat) (d : Done) : State := (s.resolve1 id d).settle

/-- ORs arithmetic flags into a context's AFLAGS (R89, R162). -/
def State.orFlags (s : State) (cid : Nat) (fl : BitVec 8) : State :=
  if fl = 0 then s else s.modCtx cid (fun c => { c with aflags := c.aflags ||| fl.zeroExtend 64 })

/- Host events (R246, R247) -/

def qVec (q : HQueue) : Nat := q.qcfg.toNat / 2 ^ 16 % 2 ^ 11
def qLink (q : HQueue) : Nat := q.qcfg.toNat / 2 ^ 8 % 2
def qCtx (q : HQueue) : W16 := BitVec.ofNat 16 (q.qcfg.toNat / 2 ^ 32)
def qSize (q : HQueue) : Nat := 2 ^ (q.qcfg.toNat % 32)

/-- Ticks of a cycle of the control die (R20). -/
def ctlTicks : Nat := 45
/-- The message of a queue's open window is sent. -/
def State.sendMsi (s : State) (q : Nat) : State :=
  { s with msis := s.msis ++ [(qLink (s.hq q), qVec (s.hq q))] }.modHq q (fun h => { h with coalAt := none })
/-- With COAL.WIN = 0 the message of a queue leaves when the cycle of its events is over (R247). -/
def State.sendPast (s : State) (q : Nat) : State :=
  let h := s.hq q
  if h.coal = 0 && h.coalAt.any (fun t => t / ctlTicks < s.now / ctlTicks) then s.sendMsi q else s
def State.sendDue (s : State) : State := s.queues.foldl (fun s e => s.sendPast e.1) s
/-- An event of R247 opens a window: of COAL.WIN, or of the rest of the control die's cycle, whose events share one
message; that of an earlier cycle has left. -/
def State.qEvent (s0 : State) (q : Nat) : State :=
  let s := s0.sendPast q
  if (s.hq q).coalAt.isSome then s else s.modHq q (fun h => { h with coalAt := some s.now })

/-- Writes `n` bytes at a virtual address in a context as the control die does, late where its home is held; nothing
where it faults. -/
def ctlWrite (s : State) (ctx : W16) (a : W64) (n v : Nat) : State :=
  match access s (Who.ctl ctx 15) .store a n with
  | .ok (ls, _) => writeLocs s ls v
  | .hold => { s with late := s.late ++ [⟨ctx, 15, a, n, v, s.now⟩] }
  | .fail _ _ _ => s

/-- The bytes of an outcome record go to their ring (R246). -/
def writeRecord (s : State) (r : OutRec) : Res State :=
  let h := s.hq r.queue
  let a := h.qout &&& u64 (2 ^ 63 - 1)
  let off := 16 * (r.index % qSize h)
  let w := Who.ctl (qCtx h) 15
  if h.qout = 0 then .ok s
  else if h.qout.getLsbD 63 then
    .ok (setBytes s (hostKey (qLink h) (a.toNat + off)) (leList 8 r.handle.toNat ++ leList 8 r.status.toNat))
  else (access s w .store (a + u64 off) 8).bind (fun lo => (access s w .store (a + u64 (off + 8)) 8).bind (fun hi =>
    .ok (writeLocs (writeLocs s lo.1 r.handle.toNat) hi.1 r.status.toNat)))
/-- The record, then DONE, then the event (R246, R247): a record that its home holds waits with what follows it. With
QOUT = 0 no record is written, and there is no event. One that faults is not written; DONE counts (assumption 86). -/
def State.putRecord (s : State) (r : OutRec) : State :=
  let counted (s : State) : State :=
    let s1 := s.modHq r.queue (fun h => { h with done := h.done + 1 })
    if r.intr && (s.hq r.queue).qout != 0 then s1.qEvent r.queue else s1
  match writeRecord s r with
  | .hold => { s with recs := s.recs ++ [r] }
  | .fail _ _ _ => counted s
  | .ok s1 => counted s1
def State.outcome (s : State) (q j : Nat) (intr : Bool) (handle : W64) (status : W32) : State :=
  s.putRecord ⟨q, j, intr, handle, status⟩
/-- Records that were held are written once their homes accept them. -/
def State.retryRecords (s : State) : State :=
  if s.recs.isEmpty then s else s.recs.foldl State.putRecord { s with recs := [] }
/-- An uncorrectable error that a status reports is counted (R178, R249). -/
def State.countEcc (s : State) (st : W32) : State :=
  if statusCode st = cEcc then s.count (fun e => { e with uncorr := satInc e.uncorr }) else s

/- Effective priority (R61, R62) -/

/-- Launches whose token a waiting LAUNCH names as input, with what it lends (R47). -/
def lenders (s : State) (token : Nat) : List PendLaunch :=
  s.pend.filter (fun p => p.child.isNone && p.ins.contains (.pend token))

/-- Largest priority that waiting LAUNCHes lend to the holder of a token, transitively; what a launch that issued one
has itself is as the state says. -/
def lentTo (s : State) : Nat → Nat → Nat
  | 0, _ => 0
  | fuel + 1, token =>
    (lenders s token).foldl (fun m p =>
      max m (max (match s.launch? p.lid with
        | some l => l.eff
        | none => 0) (lentTo s fuel p.id))) 0

/-- Largest priority of the nodes that wait for a node of a graph, transitively (R61). -/
def lentByNodes (ns : List Node) : Nat → Nat → Nat
  | 0, _ => 0
  | fuel + 1, i =>
    (ns.zipIdx).foldl (fun m e =>
      if e.1.st = .waiting && e.1.preds.contains i then max m (max e.1.lpb.prio (lentByNodes ns fuel e.2)) else m) 0

def nodeIndex (ns : List Node) (lid : Nat) : Option Nat := ns.findIdx? (fun n => n.st == .live lid)

/-- What a launch has of itself. -/
def ownPriority (l : Launch) : Nat := min 7 (l.lpb.prio + min 2 l.wsteps)
def priorityOf (s : State) (lid : Nat) (l : Launch) : Nat :=
  let own := ownPriority l
  let tok := match l.token with
    | none => 0
    | some t => lentTo s (s.pend.length + 1) t
  let node := match (s.ent? lid).bind (·.parent) with
    | none => 0
    | some p => match Tab.get? s.graphs p with
      | none => 0
      | some ns => match nodeIndex ns lid with
        | none => 0
        | some i => lentByNodes ns (ns.length + 1) i
  min 7 (max own (max tok node))

/-- What is lent is passed on, one launch further each time (R47, R61). -/
def lendOn : Nat → State → State
  | 0, s => s
  | n + 1, s => lendOn n { s with launches := s.launches.map (fun e => (e.1, { e.2 with eff := priorityOf s e.1 e.2 })) }
/-- The recomputation of R62: from what each launch has of itself, lent along every edge. -/
def State.reprioritise (s : State) : State :=
  lendOn (s.launches.length + 1)
    { s with launches := s.launches.map (fun e => (e.1, { e.2 with eff := ownPriority e.2 })) }

/- Completion weights -/

/-- Worth of a part of an exponent (R40). -/
def partWorth (e : Nat) : Nat := 2 ^ (56 - e)

/-- R42's repeated step: the reserve of exponent e doubles while the counter holds its worth. -/
def lowerReserve : Nat → Nat → Nat × Nat
  | 0, h => (0, h)
  | e + 1, h => if partWorth (e + 1) ≤ h then lowerReserve e (h - partWorth (e + 1)) else (e + 1, h)

/- Packets that leave (R189, R190) -/

/-- The header of a packet of this package's die. -/
def State.hdr (s : State) (die : Nat) (ctx : W16) (cmd : Nat) (ver : W32) : FHdr :=
  ⟨s.pkg, die, (s.die die).inc, s.pkg, die, ctx, cmd, 0, ver⟩
def flitsOf (p : FPkt) : Nat := 1 + Config.flits p
def State.port (s : State) (die p : Nat) : Port := Store.get Port.reset s.fab.ports (4 * die + p)
def State.modPort (s : State) (die p : Nat) (f : Port → Port) : State :=
  { s with fab := { s.fab with ports := Store.put Port.reset s.fab.ports (4 * die + p) (f (s.port die p)) } }
def Port.flits (p : Port) : Nat := (p.q.map (fun o => flitsOf o.pkt)).foldl (· + ·) 0
/-- The port with the fewest queued flits, on a tie the lowest number (R190). -/
def choosePort (s : State) (die : Nat) : Nat :=
  let n (i : Nat) : Nat := (s.port die i).flits
  if n 0 ≤ n 1 && n 0 ≤ n 2 then 0 else if n 1 ≤ n 2 then 1 else 2
/-- The gateway of a packet: the control die's leave by the lowest die that is not in reset (assumption 82). -/
def gateOf (s : State) (die : Nat) : Nat :=
  if die < 12 then die else ((List.range 12).find? (fun d => (s.die d).resetAt.isNone)).getD 0
/-- A packet waits in its port. The no-progress time of an empty port starts anew with it (R206 names only a flit's leaving:
DESIGN CHOICE, assumption 82). -/
def State.queuePkt (s : State) (o : OutPkt) : State :=
  s.modPort o.gate (o.port.getD (choosePort s o.gate)) (fun x =>
    { x with q := x.q ++ [o], at' := if x.q.isEmpty then s.now else x.at' })
/-- A gateway's own packet: a reply, a responder's unit, a message of the control die. -/
def State.send (s : State) (p : FPkt) : State := s.queuePkt ⟨p, gateOf s p.hdr.srcDie, 16, none, 0, 0⟩
/-- A packet of a command leaves by the die of the issuing fragment. -/
def State.sendCmd (s : State) (f : FabCmd) (p : FPkt) : State := s.queuePkt ⟨p, f.die, f.pane, f.port, 0, 0⟩
/-- As `send`, with the next sequence number (R207). -/
def State.sendSeq (s : State) (p : FPkt) : State :=
  let n := s.fab.nextSeq
  let s1 := s.send { p with hdr := { p.hdr with seq := n } }
  { s1 with fab := { s1.fab with nextSeq := n + 1 } }
def State.sendCmdSeq (s : State) (f : FabCmd) (p : FPkt) : State :=
  let n := s.fab.nextSeq
  let s1 := s.sendCmd f { p with hdr := { p.hdr with seq := n } }
  { s1 with fab := { s1.fab with nextSeq := n + 1 } }

/-- A part goes home to another package, under a sequence number; while the home has 32 to acknowledge it waits (R207,
R209). -/
def State.sendReturn (s : State) (p : FPkt) : State :=
  if (s.fab.unacked.filter (fun e => e.1 == p.dst)).length < 32 then
    let s1 := s.sendSeq p
    { s1 with fab := { s1.fab with unacked := s1.fab.unacked ++ [(p.dst, s.fab.nextSeq)] } }
  else { s with fab := { s.fab with owed := s.fab.owed ++ [p] } }
/-- A home acknowledges a return: the next one that waits for it leaves. -/
def State.returnAcked (s : State) (pkg n : Nat) : State :=
  let s1 : State := { s with fab := { s.fab with unacked := s.fab.unacked.erase (pkg, n) } }
  match s1.fab.owed.find? (fun p => p.dst == pkg) with
  | none => s1
  | some p => ({ s1 with fab := { s1.fab with owed := s1.fab.owed.erase p } } : State).sendReturn p

/-- A node that failed: its successors, and theirs, are skipped (R48). -/
def skipFrom : Nat → List Node → List Node
  | 0, ns => ns
  | fuel + 1, ns =>
    let bad := (ns.zipIdx).filterMap (fun e => if e.1.st = .skipped then some e.2 else none)
    skipFrom fuel (ns.map (fun n =>
      if n.st = .waiting && n.preds.any (fun p => bad.contains p) then { n with st := .skipped } else n))

/-- Status that a complete entity reports (R48, R50, R232): what its cancel gave it, its first failure, or OK. -/
def entStatus (s : State) (eid : Nat) (e : Ent) : W32 :=
  if e.cancelled then e.status
  else match s.launch? eid with
    | some l => l.failed.getD e.status
    | none => e.status

/-- X completes (R43): it returns the part it carries, its record is written, its waiters are released. -/
def finishEnt (s : State) (eid : Nat) (e : Ent) : State :=
  let st := entStatus s eid e
  let failed := if statusCode st = 0 then none else some st
  let s1 : State := s.modEnt eid (fun e => { e with complete := true, status := st })
  let s2 : State := match e.away, e.parent with
    | some (pkg, ent, loan), _ => s1.sendReturn ⟨pkg, s1.hdr 15 e.job loan 0, .weight ent e.carried (failed.map statusCode)⟩
    | none, some p => { s1 with returns := s1.returns ++ [⟨p, e.carried, failed⟩] }
    | none, none => s1
  let s3 : State := match e.record with
    | some (q, j, intr) => s2.outcome q j intr e.handle st
    | none => s2
  let s4 : State := s3.modHq e.queue (fun h => { h with live := h.live.filter (· != eid) })
  let s5 : State := match (s4.launch? eid).bind (·.token) with
    | none => s4
    | some t => match s4.pend.find? (fun p => p.id == t) with
      | none => s4
      | some p =>
        State.complete { s4 with pend := s4.pend.filter (fun p => p.id != t) } t ⟨st, p.pc, p.word⟩
  s5.reprioritise

/-- Completes an entity whose reserve is home and whose counter is full. -/
def checkEnt (s : State) (eid : Nat) : State :=
  match s.ent? eid with
  | none => s
  | some e => if e.closed && !e.complete && e.h = 2 ^ 56 then finishEnt s eid e else s

/-- Returns an entity's reserve to its own home (R43): nothing of it is left there to lower. -/
def closeEnt (s : State) (eid : Nat) : State :=
  match s.ent? eid with
  | none => s
  | some e =>
    if e.closed then s
    else checkEnt (s.modEnt eid (fun e => { e with closed := true, h := e.h + partWorth e.e, e := 0 })) eid

/-- After a launch completes: its graph's node is done, or failed with its successors skipped; a graph whose
nodes are all spawned or skipped returns its reserve (R43, R48). -/
def updateGraph (s : State) (lid : Nat) : State :=
  match s.ent? lid with
  | none => s
  | some e => match e.parent with
    | none => s
    | some g => match Tab.get? s.graphs g with
      | none => s
      | some ns =>
        if !e.complete then s
        else
          let bad := statusCode e.status != 0
          let ns1 := ns.map (fun n => if n.st = .live lid then { n with st := if bad then .skipped else .done } else n)
          let ns2 := if bad then skipFrom ns.length ns1 else ns1
          let s1 := { s with graphs := Tab.set s.graphs g ns2 }
          if ns2.all (fun n => n.st != .waiting) then closeEnt s1 g else s1

/-- A launch whose unit counter equals NUNITS returns its reserve (R43). -/
def checkLaunch (s : State) (lid : Nat) : State :=
  match s.launch? lid with
  | none => s
  | some l => if l.done = l.lpb.nunits then updateGraph (closeEnt s lid) lid else s

/-- A launch becomes failed (R50): no unit is placed any more, each unplaced unit counts as complete. -/
def failLaunch (s : State) (lid : Nat) (status : W32) : State :=
  match s.launch? lid with
  | none => s
  | some l =>
    let s1 := s.modLaunch lid (fun l =>
      { l with failed := some (l.failed.getD status), done := l.done + (l.lpb.nunits - l.next), next := l.lpb.nunits })
    let s2 := { s1 with resv := if (s1.resv.map (·.lid)) = some lid && l.next < l.lpb.nunits then none else s1.resv }
    checkLaunch s2 lid

/-- A spawn by X (R41): the child's part exponent and the new state, or none where e = 56. -/
def spawn? (s : State) (eid : Nat) : Option (Nat × State) :=
  match s.ent? eid with
  | none => none
  | some e => if e.e = 56 then none else some (e.e + 1, s.modEnt eid (fun e => { e with e := e.e + 1 }))

/-- Serial number and handle of a new entity (R25). -/
def levelCode : Level → Nat
  | .launch => 1
  | .graph => 2
  | .phase => 3
  | .job => 4
def newHandle (s : State) (job : W16) (lv : Level) : W64 × State :=
  let k := 8 * job.toNat + levelCode lv
  let n := Store.get 0 s.serials k + 1
  (u64 (levelCode lv * 2 ^ 60 + n % 2 ^ 32), { s with serials := Store.put 0 s.serials k n })

/- Barriers -/

def barIndex (scope id : Nat) : Nat := 16 * scope + id
/-- Bit 7 arrived, bits [6:0] the generation (R287). -/
def barArrived (b : Byte) : Bool := b.getLsbD 7
def barGen (b : Byte) : Nat := b.toNat % 128
def Ctx.bar (c : Ctx) (scope id : Nat) : Byte := Store.get 0 c.bars (barIndex scope id)

def bumpBarrier (parts : Nat) (b : Barrier) : Barrier :=
  if parts != 0 && (parts : Int) ≤ b.count then ⟨b.gen + 1, 0⟩ else b

/-- One participant leaves a set of barriers: its open arrivals are withdrawn, and a generation may complete
(R288). `rec` gives its byte for an id. -/
def leaveBars (bs : Store Barrier) (parts : Nat) (rec : Nat → Byte) : Store Barrier :=
  (List.range 16).foldl (fun acc id =>
    let b := Store.get Barrier.reset acc id
    let r := rec id
    let b1 := if barArrived r && barGen r = b.gen % 128 then { b with count := b.count - 1 } else b
    Store.put Barrier.reset acc id (bumpBarrier parts b1)) bs

/-- Live contexts of a unit: the participants of its companion-scope barriers (R287). -/
def liveContexts (s : State) (u : UnitRec) : Nat :=
  (s.ctxs.filter (fun c => u.cids.contains c.cid && (c.phase = .running || c.phase = .stopped))).length

/-- Gang-scope barriers of a slice that spans packages are held at its coordinator (R289). -/
def sliceAway (s : State) (l : Launch) : Option (Slice × Nat) :=
  match l.slice with
  | none => none
  | some sl => match sl.members with
    | [] => none
    | m :: _ => if m = s.pkg then none else some (sl, m)

/-- Participants of a launch's gang-scope barriers. -/
def gangParts (l : Launch) : Nat :=
  match l.slice with
  | none => l.lpb.nunits - l.left
  | some sl => sl.total - l.left

/-- A slice with its home here tells the other members that a generation of a barrier completed (R289). -/
def tellMembers (s : State) (lid die : Nat) (ctx : W16) (id : Nat) : State :=
  match (s.launch? lid).bind (·.slice) with
  | none => s
  | some sl =>
    (sl.members.filter (· != s.pkg)).foldl (fun s m => s.sendSeq ⟨m, s.hdr die ctx 0 0, .barDone sl.serial id⟩) s
/-- The barriers whose generation went on. -/
def passedBars (old new : Store Barrier) : List Nat :=
  (List.range 16).filter (fun id => (Store.get Barrier.reset old id).gen != (Store.get Barrier.reset new id).gen)

/-- The other instance of a replica's unit still runs or is to be resumed: the unit takes part in the barriers of its
launch until both have left (R55, R287; DESIGN CHOICE, assumption 25). -/
def twinLives (s : State) (c : Ctx) : Bool :=
  s.units.any (fun x => x.1 != c.uid && x.2.lid == c.lid && x.2.unit == c.unit && !x.2.killed
    && x.2.phase != .exited && x.2.phase != .counted)
/-- The gang-scope bytes of a context as one number. -/
def Ctx.gangBytes (c : Ctx) : Nat := (List.range 16).foldl (fun n i => n + (c.bar 2 i).toNat * 256 ^ i) 0
/-- A context leaves every barrier of every scope (R288, R300); a companion takes part in its unit's only. The message
to the coordinator carries its bytes, so that no order of messages can part the withdrawal from the leaving (R202,
assumption 25). -/
def State.leaveBarriers (s : State) (c : Ctx) : State :=
  let s1 := match s.unit? c.uid with
    | none => s
    | some u =>
      let parts := liveContexts s u - 1
      s.modUnit c.uid (fun u => { u with bars := leaveBars u.bars parts (fun id => c.bar 0 id) })
  if c.compid != 0 then s1
  else match s1.launch? c.lid with
    | none => s1
    | some l =>
      let gone := if twinLives s1 c then 0 else 1
      let s2 := s1.modLaunch c.lid (fun l =>
        { l with left := l.left + gone,
                 bars := leaveBars l.bars (l.lpb.nunits - (l.left + gone)) (fun id => c.bar 1 id) })
      match sliceAway s2 l with
      | none =>
        let parts := gangParts { l with left := l.left + gone }
        let bars := leaveBars l.gbars parts (fun id => c.bar 2 id)
        let s3 := s2.modLaunch c.lid (fun l => { l with gbars := bars })
        (passedBars l.gbars bars).foldl (fun s id => tellMembers s c.lid (c.seq / 16) c.ctxid id) s3
      | some (sl, m) =>
        s2.sendSeq ⟨m, s2.hdr (c.seq / 16) c.ctxid 0 0, .barArrive sl.serial (32 + gone + 64 * c.gangBytes)⟩

/-- Units of a slice's part that ended after GO without having started leave the gang-scope barriers, in which they have not
arrived (R287, R288). -/
def State.leaveUnstarted (s : State) (lid n : Nat) : State :=
  match s.launch? lid with
  | none => s
  | some l =>
    let job := ((s.ent? lid).map (·.job)).getD 0
    match sliceAway s l with
    | none =>
      let bars := leaveBars l.gbars (gangParts { l with left := l.left + n }) (fun _ => 0)
      (passedBars l.gbars bars).foldl (fun s id => tellMembers s lid 15 job id)
        (s.modLaunch lid (fun l => { l with left := l.left + n, gbars := bars }))
    | some (sl, m) =>
      (List.range n).foldl (fun s _ => s.sendSeq ⟨m, s.hdr 15 job 0 0, .barArrive sl.serial 33⟩) s

/- Chains -/

/-- UNCHAIN's end marker behind the MMA.chain commands of both array queues (R107, R340). -/
def chainCmds (s : State) (seq : Nat) : List Nat :=
  (s.queue seq 0 ++ s.queue seq 1).filterMap (fun k =>
    match k.op with
    | .mma _ _ _ _ _ _ _ _ chn _ _ _ => if chn then some k.id else none
    | _ => none)
def State.unchain (s : State) (seq : Nat) : State :=
  let ids := chainCmds s seq
  { s with chains := s.chains.map (fun c => if c.src = seq && c.marker.isNone then { c with marker := some ids } else c) }
/-- The number that stands for a pane in a chain while its unit is pre-empted; unit 0 where the source has gone. -/
def park (uid p : Nat) : Nat := 4096 + 256 * uid + p
def Chain.rename (g : Nat → Nat) (c : Chain) : Chain := { c with src := g c.src, dst := g c.dst }
def State.renameEnds (s : State) (g : Nat → Nat) : State := { s with chains := s.chains.map (Chain.rename g) }
/-- Bytes of a chain row, and of its place in a ring (R106). -/
def rowBytes (r : Tag × List Nat) : Nat := r.2.length * elemBytes r.1
def ringRow (r : Tag × List Nat) : Nat := (rowBytes r + 63) / 64 * 64
/-- Rows that a ring holds, counted in the size of the row that comes next (R106; for rows of several sizes in one
ring DESIGN CHOICE, assumption 80). -/
def ringCap (bytes : Nat) (r : Tag × List Nat) : Nat := bytes / max 1 (ringRow r)
/-- Where a chain has room for a row (R108): true in the FIFO, false in the ring, none where both are full. A row that
stalled the edge unit stays there until the ring is empty, as in R108's example (DEDUCED, assumption 104). -/
def rowRoom (c : Chain) (r : Tag × List Nat) : Option Bool :=
  if c.rrows.isEmpty && c.fifo.length < 256 then some true
  else if c.stuck then none
  else match c.ring with
    | none => none
    | some (_, n) => if c.rrows.length < ringCap n r then some false else none
/-- Key of a scratchpad byte at a window offset of a fragment (R103). -/
def fragKey (s : State) (seq off : Nat) : Nat :=
  let i := off / 2 ^ 24
  let w := (s.frag seq).w
  spKey (seq + 4 * (i / w) + i % w) (off % 2 ^ 24)
/-- Bytes at a window offset of a fragment's scratchpad. -/
def padBytesAt (s : State) (seq off : Nat) (bs : List Nat) : State :=
  eccFix (setBytes s (fragKey s seq off) bs) (fragKey s seq off) bs.length
/-- A row stored in its ring. -/
def storeRow (s : State) (c : Chain) (r : Tag × List Nat) : State :=
  match c.ring with
  | none => s
  | some (base, n) =>
    padBytesAt s c.src (base + c.rtail % max 1 (ringCap n r) * ringRow r) ((r.2.map (leList (elemBytes r.1))).flatten)
def Chain.push (c : Chain) (r : Tag × List Nat) (toFifo : Bool) : Chain :=
  if toFifo then { c with fifo := c.fifo ++ [r] } else { c with rrows := c.rrows ++ [r], rtail := c.rtail + 1 }

/-- What follows a row by `d` ticks where it stalled the edge unit: the rows behind it, and the source's array and its
tokens (R108). -/
def Frag.later (ids : List Nat) (d : Nat) (f : Frag) : Frag :=
  { f with
    busy := if f.cur.isSome then f.busy + d else f.busy
    q := f.q.map (fun e => (e.1, if e.1 < 2 then e.2.map (fun k =>
      if ids.contains k.id || f.cur = some k.id then { k with ready := k.ready + d } else k) else e.2)) }
/-- One row due at the edge unit enters its chain's FIFO or ring; none where no row can. -/
def landOne (s : State) (c : Chain) : Option State :=
  match c.flight with
  | [] => none
  | f :: rest =>
    if s.now < f.due then none
    else match rowRoom c f.row with
      | none => if c.stuck then none
          else some { s with chains := s.chains.map (fun x => if x = c then { x with stuck := true } else x) }
      | some b =>
        let d := if c.stuck then s.now - f.due else 0
        let c1 := { c.push f.row b with flight := rest.map (fun x => { x with due := x.due + d }), stuck := false }
        let s1 := if b then s else storeRow s c f.row
        let s2 : State := { s1 with chains := s1.chains.map (fun x => if x = c then c1 else x) }
        some (if d = 0 then s2 else s2.modFrag c.src (Frag.later (rest.map (·.cmd)) d))
/-- Rows that have left their edge unit by now enter their chains (R94, R108). -/
def landFor : Nat → State → State
  | 0, s => s
  | fuel + 1, s => match s.chains.findSome? (landOne s) with
    | none => s
    | some t => landFor fuel t
def State.land (s : State) : State :=
  landFor ((s.chains.map (fun c => 2 * c.flight.length + 1)).foldl (· + ·) 1) s
/-- A row that cannot enter stalls the edge unit, and with it the array (R108). -/
def edgeStuck (s : State) (seq : Nat) : Bool := s.chains.any (fun c => c.src == seq && c.stuck)
/-- Rows of a command that are still on their way. -/
def inFlight (s : State) (id : Nat) : Nat := (s.chains.map (fun c => (c.flight.filter (fun f => f.cmd == id)).length)).foldl (· + ·) 0

/-- An outstanding MMA.chain whose destination ended fails with SHAPE and the rows delivered (R109): one that has started,
and one that still waits in its queue, unless it stands behind the chain's end marker: of those R109 is read to say that
they are a later chain's (DEDUCED, assumption 80). -/
def Cmd.cut (s : State) (c : Chain) (k : Cmd) : Cmd :=
  match k.op with
  | .mma _ _ _ _ _ _ _ _ true _ _ _ =>
    if k.st = .queued && c.marker.any (fun ids => !ids.contains k.id) then k
    else { k with
      st := .passed, ready := if k.st = .passed then k.ready else s.now, page := none
      fin := some ⟨statusWord cShape (k.prog - inFlight s k.id), k.pc, k.word⟩ }
  | _ => k
def isCut (k : Cmd) : Bool :=
  match k.op, k.st with
  | .mma _ _ _ _ _ _ _ _ true _ _ _, .started => true
  | _, _ => false
def Frag.cut (s : State) (c : Chain) (f : Frag) : Frag :=
  let cuts := f.cur.any (fun i => f.q.any (fun e => e.2.any (fun k => k.id == i && isCut k)))
  { f with
    q := f.q.map (fun q => (q.1, q.2.map (Cmd.cut s c)))
    cur := if cuts then none else f.cur
    busy := if cuts then min f.busy s.now else f.busy }
/-- A destination that ends closes its input: rows are discarded (R109). -/
def State.cutInput (s0 : State) (seq : Nat) : State :=
  let s := s0.land
  { s with
    chains := s.chains.filter (fun c => c.dst != seq)
    frags := s.frags.map (fun e => match s.chains.find? (fun c => c.dst == seq && c.src == e.1) with
      | some c => (e.1, e.2.cut s c)
      | none => e) }

/-- Ends of chains that go without EXIT: inputs close (R109), outputs close as by UNCHAIN behind the rows sent. -/
def closeEnds (s : State) (p : Nat → Bool) : State :=
  let s1 := (s.chains.filter (fun c => p c.dst)).foldl (fun s c => s.cutInput c.dst) s
  { s1 with chains := s1.chains.map (fun c =>
    if p c.src then { c with src := park 0 (c.src % 256), flight := [], stuck := false, marker := some [] } else c) }
/-- A pane number that stands for a pane of a pre-empted unit. -/
def parkedBy (uid x : Nat) : Bool := 4096 ≤ x && (x - 4096) / 256 == uid

/- Stopping a unit -/

/-- The command belongs to a unit. -/
def Cmd.ofUnit (uid : Nat) (k : Cmd) : Bool := k.uid == uid
/-- Takes the entries that satisfy `p` out of every queue of a fragment. -/
def Frag.dropWhere (p : Cmd → Bool) (f : Frag) : Frag :=
  let gone := (f.q.map (fun e => e.2.filter p)).flatten.map (·.id)
  { f with
    q := (f.q.map (fun e => (e.1, e.2.filter (fun k => !p k)))).filter (fun e => !e.2.isEmpty)
    cur := match f.cur with
      | some i => if gone.contains i then none else some i
      | none => none }
def State.dropWhere (s : State) (p : Cmd → Bool) : State :=
  { s with frags := (s.frags.map (fun e => (e.1, e.2.dropWhere p))).filter (fun e => decide (e.2 ≠ Frag.reset)) }

/-- A unit's engine commands that are queued or running. -/
def unitCmds (s : State) (uid : Nat) : List Cmd :=
  (s.frags.map (fun e => (e.2.q.map (fun q => q.2.filter (Cmd.ofUnit uid))).flatten)).flatten

/-- A stop of the unit has begun: nothing of it issues or starts any more (R224, R232). -/
def State.stopping (s : State) (uid : Nat) : Bool :=
  ((s.unit? uid).map (fun u => u.phase == .quiescing || u.phase == .writing)).getD false

/-- The same of an array command: it stops too where a shared fragment is saved on which it stands, its own unit having
exited (R36, R224). -/
def State.stops (s : State) (k : Cmd) : Bool :=
  s.stopping k.uid || ((s.launch? k.lid).any (·.lpb.shared) && s.units.any (fun u =>
    u.2.lid == k.lid && !u.2.killed && (u.2.phase == .quiescing || u.2.phase == .writing)))

/-- Outstanding fetches of the commands send STOP to their owners, and no COMMIT follows (R232); no fabric command
of them is outstanding any more. -/
def dropFab (s : State) (ids : List Nat) : State :=
  let s1 := (s.fab.cmds.filter (fun f => ids.contains f.id)).foldl (fun s f => match f.owner with
    | some (p, _) => s.sendCmd f ⟨p, s.hdr f.die f.ctxid f.id f.ver, .stop⟩
    | none => s) s
  { s1 with fab := { s1.fab with cmds := s1.fab.cmds.filter (fun f => !ids.contains f.id) } }

/-- Releases image space to a job's save area (R233). -/
def freeImage (s : State) (job : W16) (addr : Nat) : State :=
  s.modJob job (fun j => { j with allocs := j.allocs.filter (fun a => a.1 != addr) })

/-- Every context of a unit stops at its instruction boundary: a stalled instruction is abandoned, WC stores become
visible (R174, R224). A BAR keeps its arrival (R289). -/
def stopContexts (s : State) (u : UnitRec) : State :=
  u.cids.foldl (fun s cid => ((s.endPart cid).flush cid).modCtx cid (fun c => { c with
    phase := if c.phase = .running then .stopped else c.phase, pfault := none,
    wait := if c.wait = .quantum then .quantum else .none, marker := none })) s

/-- Lease and request list without a unit's contexts (R72). -/
def Frag.withoutCtxs (cids : List Nat) (now : Nat) (f : Frag) : Frag :=
  let reqs := f.reqs.filter (fun r => !cids.contains r)
  if f.holder.any (fun h => cids.contains h) then
    { f with holder := reqs.head?, reqs := reqs.drop 1, tcount := 0, tstart := now }
  else { f with reqs := reqs }

/-- Of a unit that stops without an image nothing queued starts, and its fetches stop (R232 step 2). -/
def endQueued (s : State) (uid : Nat) : State :=
  let gone (k : Cmd) : Bool := k.ofUnit uid && (k.st == .queued || match k.op with
    | .xfetch _ _ _ _ _ _ => true
    | _ => false)
  let ids := ((unitCmds s uid).filter gone).map (·.id)
  let s1 := (dropFab s ids).dropWhere gone
  { s1 with chains := s1.chains.map (fun c => { c with marker := c.marker.map (fun l => l.filter (fun i => !ids.contains i)) }) }

/-- A running, yielding or quiescing unit stops without an image (R232 step 2): its contexts stop, leave their
barriers and their chains; nothing queued starts; its fetches stop. Its started commands go on to their stop points,
where QUIESCE_COMPLETE ends it. -/
def killUnit (s : State) (uid : Nat) : State :=
  match s.unit? uid with
  | none => s
  | some u =>
    let s0 := stopContexts s u
    let cs := s0.ctxs.filter (fun c => u.cids.contains c.cid)
    let s1 := cs.foldl (fun s c => s.leaveBarriers c) s0
    let s2 := cs.foldl (fun s c => (s.unchain c.seq).cutInput c.seq) s1
    let s3 := endQueued s2 uid
    let s4 : State := { s3 with
      frags := s3.frags.map (fun e => (e.1, e.2.withoutCtxs u.cids s3.now))
      pend := s3.pend.filter (fun p => !(p.uid == uid && p.child.isNone))
      joins := s3.joins.filter (fun j => !u.cids.contains j.cid) }
    let s5 := s4.modUnit uid (fun u => { u with phase := .quiescing, deadline := s4.now, stop := s4.now, killed := true })
    if s3.pend.any (fun p => p.uid == uid && p.child.isNone) then s5.reprioritise else s5

/-- A fatal trap (R217): the unit stops, the launch fails with the cause, the first record is kept. -/
def fatal (s : State) (word : W64) (cause : Nat) (taddr tdata : W64) : State :=
  let c := s.cur
  let r : FaultRec := ⟨c.lhandle, c.unit, c.compid, cause, c.sm, c.pc, word, taddr, tdata, c.seq / 16, c.seq % 16, s.ftime (c.seq / 16)⟩
  let s1 := s.modLaunch c.lid (fun l => { l with frec := some (l.frec.getD r) })
  failLaunch (killUnit s1 c.uid) c.lid (statusWord cause 0)

end Sys2Proof.Machine
end

