-- ==== Sys2Proof/Machine/Ops.lean ====
section
/-! DEFINITION. Registers of the context that moves (R260), issue and its order of checks (R258, R261), taking a
trap and returning from one (R213 to R217), stalls (R54, R80), and accesses with their faults (R172, R221). -/
namespace Sys2Proof.Machine

/-- g0 reads 0 (R260). -/
def Ctx.rg (c : Ctx) (r : GReg) : W64 := if r = 0#6 then 0 else Store.get 0 c.g r.toNat
/-- A write to g0 is discarded (R260). -/
def Ctx.wg (c : Ctx) (r : GReg) (v : W64) : Ctx :=
  { c with g := if r = 0#6 then c.g else Store.put 0 c.g r.toNat v }
/-- p0 reads true (R260). -/
def Ctx.rp (c : Ctx) (p : PNum) : Bool := p == 0#3 || c.p.getLsbD p.toNat
def Ctx.wp (c : Ctx) (p : PNum) (b : Bool) : Ctx :=
  { c with p := if p = 0#3 then c.p else if b then c.p ||| (1#8 <<< p.toNat) else c.p &&& ~~~(1#8 <<< p.toNat) }
def Ctx.rv (c : Ctx) (v : VNum) : VReg := Store.get VReg.reset c.v v.toNat
def Ctx.wv (c : Ctx) (v : VNum) (x : VReg) : Ctx := { c with v := Store.put VReg.reset c.v v.toNat x }
def Ctx.rm (c : Ctx) (m : MNum) : BitVec 128 := Store.get 0 c.m m.toNat
def Ctx.wm (c : Ctx) (m : MNum) (x : BitVec 128) : Ctx := { c with m := Store.put 0 c.m m.toNat x }
/-- k0 is always complete (R115). -/
def Ctx.rk (c : Ctx) (k : KNum) : Token := if k = 0#5 then Token.reset else Store.get Token.reset c.k k.toNat
def Ctx.wk (c : Ctx) (k : KNum) (t : Token) : Ctx :=
  { c with k := if k = 0#5 then c.k else Store.put Token.reset c.k k.toNat t }

def State.rg (s : State) (r : GReg) : W64 := s.cur.rg r
def State.wg (s : State) (r : GReg) (v : W64) : State := s.setCur (·.wg r v)

/-- R258: p[GP] XOR GN. -/
def guardTrue (c : Ctx) (gd : Guard) : Bool := c.rp gd.gp != gd.gn

/-- On to PC + 8 (R256); a wait ends. -/
def advance (s : State) : State := s.setCur (fun c => { c with pc := c.pc + 8, wait := .none })
/-- Control redirected (R257). -/
def jump (s : State) (t : W64) : State := s.setCur (fun c => { c with pc := t, wait := .none })
/-- The instruction does not complete at this step; it executes again at the context's next one. -/
def stall (s : State) (k : WaitKind) : State :=
  s.setCur (fun c => if c.wait = k then c else { c with wait := k, since := s.now })

/-- Trap entry (R213, R214), or the fatal trap of R217 where no handler runs. `word` is what TWORD takes. -/
def trap (s : State) (word : W64) (cause : Nat) (taddr tdata : W64) : State :=
  if s.cur.sm || s.cur.tvec = 0 then fatal s word cause taddr tdata
  else s.setCur (fun c => { c with
    tpc := c.pc, tword := word, tcause := u64 cause, taddr := taddr, tdata := tdata, sm := true, pc := c.tvec,
    wait := .none, pfault := none })

/-- The return of ERET in supervisor mode (R216, R299). -/
def trapReturn (s : State) : State := s.setCur (fun c => { c with sm := false, pc := c.tpc, wait := .none })

/-- A precise trap whose TADDR and TDATA are 0 (R214). -/
def trap0 (s : State) (word : W64) (cause : Nat) : State := trap s word cause 0 0

/-- A fault of an access of the context that moves: page service first under the firmware setting (R172, R221),
else the precise trap. -/
def accessFault (s : State) (word : W64) (cause : Nat) (a : W64) (td : Nat) : State :=
  if (cause = cXlate || cause = cPerm) && !s.cur.pfh then
    (stall s .page).setCur (fun c => { c with pfault := some (cause, a, u64 td, word) })
  else
    let s1 := if cause = cEcc then s.count (fun e => { e with uncorr := satInc e.uncorr }) else s
    trap s1 word cause a (u64 td)

/-- Goes on with an access's result, takes its fault, or stalls while it is held. -/
def onRes {α : Type} (s : State) (word : W64) (r : Res α) (f : α → State) : State :=
  match r with
  | .ok a => f a
  | .fail c a td => accessFault s word c a td
  | .hold => stall s .stall

/-- Issue in the context that moves (R258, R261 step 3): nothing where it may not issue (R221, R232), only the
PC under a false guard, else the body. -/
def issue (gd : Guard) (s : State) (body : State → State) : Out :=
  if s.cur.phase != .running then .fault .noContext
  else if s.cur.halted || s.cur.pfault.isSome then .next s
  else if guardTrue s.cur gd then .next (body s)
  else .next (advance s)

/-- The instruction word that TWORD and origin records name (R119, R213). -/
def wordOf (i : Instr) : W64 := (encode i).getD 0

/-- Result to a g register, then on (R277). -/
def result (s : State) (d : GReg) (v : W64) : State := advance (s.wg d v)

/-- Whether the context's launch sets REPLICA, GANG, SHARED. -/
def State.curLaunch (s : State) : Option Launch := s.launch? s.cur.lid
def isReplica (s : State) : Bool := (s.curLaunch.map (·.lpb.replica)).getD false
def isGang (s : State) : Bool := (s.curLaunch.map (·.lpb.gang)).getD false
def isShared (s : State) : Bool := (s.curLaunch.map (·.lpb.shared)).getD false


/-- A store of the context that moves, as `putFor`. -/
def putLocs (s : State) (a : W64) (ls : List Loc) (leaf : Option Leaf) (n v : Nat) : State :=
  putFor s s.cur.cid s.cur.sec a a ls leaf n v
/-- A scalar store: folded in a replica (R56), then as `putLocs`. -/
def storeLocs (s : State) (a : W64) (ls : List Loc) (leaf : Option Leaf) (n v : Nat) : State :=
  putLocs (if isReplica s && isGlobal a then s.fold s.cur.uid a n v else s) a ls leaf n v

/-- What the context that moves reads at checked locations (R174, R179). -/
def loadLocs (s : State) (ls : List Loc) : Nat :=
  if s.cur.wc.isEmpty then readLocs s ls else readLocsOwn s s.cur.who s.cur.wc ls

/-- A scalar access's alignment, then its other checks (R165, R169). -/
def scalarAccess (s : State) (op : MemOp) (a : W64) (n : Nat) : Res (List Loc × Option Leaf) :=
  if a.toNat % n != 0 then .fail cAlign a op.kind.code else access s s.cur.who op a n

/-- Queues of a context: the array queues of the fragment whose array it uses, its own for the rest (R36). -/
def queueHome (c : Ctx) (q : Nat) : Nat := if q < 2 then c.arr else c.seq

/-- A queue of the context has drained: no entry of it stands there, in a shared array queue none of its own. -/
def drained (s : State) (c : Ctx) (q : Nat) : Bool :=
  (s.queue (queueHome c q) q).isEmpty
def allDrained (s : State) (c : Ctx) : Bool := (List.range 6).all (drained s c)

end Sys2Proof.Machine
end

