-- ==== Sys2Proof/Machine/Flags.lean ====
section
/-! DEFINITION. The arithmetic flags of R161 and how a sequencer instruction sets them (R162). -/
namespace Sys2Proof.Machine

abbrev fNV : BitVec 8 := 0x01
abbrev fDZ : BitVec 8 := 0x02
abbrev fOF : BitVec 8 := 0x04
abbrev fUF : BitVec 8 := 0x08
abbrev fNX : BitVec 8 := 0x10
abbrev fSAT : BitVec 8 := 0x20
abbrev fIDZ : BitVec 8 := 0x40
abbrev fANV : BitVec 8 := 0x80

/-- Sticky bits of the context that moves (R161). -/
def setFlags (s : State) (fl : BitVec 8) : State :=
  s.setCur (fun c => { c with aflags := c.aflags ||| fl.zeroExtend 64 })

/-- IDZ of an integer division by zero (R159). -/
def divFlag (b : W64) : BitVec 8 := if b = 0 then fIDZ else 0

end Sys2Proof.Machine
end

