-- ==== Sys2Proof/Machine/Operands.lean ====
section
/-! DEFINITION. Operand forms: immediates and effective addresses (R257, R259, R264), sizes, comparison results,
truth tables, lanes and their selection by a mask (R149, R263), descriptors of launches in GB fields. -/
namespace Sys2Proof.Machine

def sx (x : W32) : W64 := x.signExtend 64
/-- g[A] + SExt(OFF32, 32) modulo 2^64 (R264). -/
def effAddr (c : Ctx) (a : GReg) (off : W32) : W64 := c.rg a + sx off
/-- PC + 8 × SExt(OFF32, 32) modulo 2^64 (R257). -/
def branchTarget (c : Ctx) (off : W32) : W64 := c.pc + 8 * sx off
/-- Size in bytes of SZ[37:36] (R264). -/
def sizeOf2 (sz : BitVec 2) : Nat := 2 ^ sz.toNat
def wideBytes (wide : Bool) : Nat := if wide then 8 else 4

/-- A value of `n` bytes, sign- or zero-extended to 64 bits (R301, R311). -/
def extendTo (n v : Nat) (sgn : Bool) : W64 :=
  if sgn && 2 ^ (8 * n - 1) ≤ v % 2 ^ (8 * n) then u64 (v % 2 ^ (8 * n) + (2 ^ 64 - 2 ^ (8 * n))) else u64 (v % 2 ^ (8 * n))

/-- Conditions of R295. -/
def condHolds (k : Cond) (x y : W64) : Bool :=
  match k with
  | .eq => x == y
  | .ne => x != y
  | .lt => x.slt y
  | .ge => !x.slt y
  | .ltu => x.ult y
  | .geu => !x.ult y

/-- SUB[2a + b] (R321, R328). -/
def tableBit (tbl : BitVec 4) (a b : Bool) : Bool := tbl.getLsbD ((if a then 2 else 0) + (if b then 1 else 0))

def VReg.lane (v : VReg) (i : Nat) : W32 := Store.get 0 v.lanes i
/-- The 128 lanes given by a function. -/
def lanesOf (f : Nat → W32) : Store W32 :=
  (List.range 128).filterMap (fun i => if f i = 0 then none else some (i, f i))
def VReg.side (v : VReg) (i : Nat) : W16 := if i < 64 then v.side0 else v.side1
/-- Scale code and zero point of a side (R149). -/
def sideScale (x : W16) : Nat := x.toNat / 256
def sideZero (x : W16) : Nat := x.toNat % 256

/-- A zero point of an OB4 register with bits [7:4] set (R148): of either half, whatever lanes a mask selects (DESIGN
CHOICE, assumption 105). -/
def badZero (r : VReg) : Bool := r.tag == .ob4 && (16 ≤ sideZero r.side0 || 16 ≤ sideZero r.side1)

/-- Whether a lane is selected (R263). -/
def laneOn (c : Ctx) (mk : Option MNum) (i : Nat) : Bool :=
  match mk with
  | none => true
  | some m => (c.rm m).getLsbD i
/-- A masked write needs the destination's tag to be the one written (R263). -/
def maskTagOk (old : VReg) (mk : Option MNum) (t : Tag) : Bool := mk.isNone || old.tag == t
/-- Lanes of a masked write: an unselected lane keeps its code. -/
def mergeLanes (c : Ctx) (mk : Option MNum) (old : VReg) (f : Nat → W32) : Store W32 :=
  lanesOf (fun i => if laneOn c mk i then f i else old.lane i)

/-- A register of a tag without side fields (R149). -/
def plainReg (t : Tag) (lanes : Store W32) : VReg := ⟨lanes, t, 0, 0, 0⟩

/-- Code of a tag in TDATA[7:0] of a TAG trap (R150, R214). -/
def tagData (t : Tag) : W64 := t.bits.zeroExtend 64

/-- The integer tags of vector arithmetic (R143). -/
def isInt (t : Tag) : Bool := t == .i32 || t == .w32

end Sys2Proof.Machine
end

