-- ==== Sys2Proof/Machine/System.lean ====
section
/-! DEFINITION. Control registers (R84, R215, R219, R220, R319), the lease (R72 to R74, R283), barriers (R288),
CANCEL (R291), QMARK (R329), tokens read by the sequencer (R119, R337). -/
namespace Sys2Proof.Machine

/- Control registers -/

def Frag.amode (f : Frag) : W64 := u64 (2 * f.geom + if f.dual then 1 else 0)
/-- The 64-bit value of a listed control register (R37, R38, R215, R219); SHAPE, PANE, FRAGH and FRAGW describe
the current fragment, in a shared launch the shared one. -/
def ctrlRead (s : State) (n : Nat) : W64 :=
  let c := s.cur
  let f := s.frag c.arr
  if 0x010 ≤ n && n ≤ 0x01F then Store.get 0 c.lparam (n - 0x010)
  else match n with
    | 0x000 => u64 c.unit
    | 0x001 => u64 c.nunits
    | 0x002 => c.lhandle
    | 0x003 => u64 (shapeCode f.h f.w)
    | 0x004 => u64 (c.arr % 16)
    | 0x005 => u64 (c.seq / 16)
    | 0x006 => u64 s.pkg
    | 0x007 => u64 c.compid
    | 0x008 => u64 c.nfrag
    | 0x009 => u64 (128 * f.h)
    | 0x00A => u64 (128 * f.w)
    | 0x00B => u64 c.slot
    | 0x020 => c.aflags
    | 0x021 => c.amask
    | 0x022 => c.rmode
    | 0x023 => f.amode
    | 0x024 => c.splive
    | 0x025 => c.acclive
    | 0x030 => u64 (s.cycle (c.seq / 16))
    | 0x031 => s.ftime (c.seq / 16)
    | 0x100 => c.tcause
    | 0x101 => c.tpc
    | 0x102 => c.tword
    | 0x103 => c.taddr
    | 0x104 => c.tdata
    | 0x105 => c.tvec
    | 0x106 => u64 ((if c.pfh then 2 else 0) + if c.sm then 1 else 0)
    | 0x107 => c.sscr
    | 0x108 => c.ctxid.zeroExtend 64
    | _ => 0

def execMfc (gd : Guard) (d : GReg) (num : BitVec 12) (s : State) : Out :=
  issue gd s (fun s =>
    if 0x100 ≤ num.toNat && !s.cur.sm then trap s (wordOf (.mfc gd d num)) cPriv 0 (num.zeroExtend 64)
    else result s d (ctrlRead s num.toNat))

/-- Both halves of a pane's bank set to +0; the words written are correct again (R178). -/
def clearBank (s : State) (p : Nat) : State :=
  eccFix { s with accs := Store.clear s.accs (2 * p * 524288) ((2 * p + 2) * 524288) }
    (Loc.acc (2 * p * 524288) 0).eccKey (8 * 524288)
/-- Both halves of every bank of a fragment set to +0. -/
def clearBanks (s : State) (panes : List Nat) : State := panes.foldl clearBank s

/-- AMODE takes a legal value (R84). -/
def setAmode (s : State) (arr : Nat) (geom : Nat) (dual : Bool) : State :=
  let f := s.frag arr
  if f.geom = geom && f.dual = dual then s
  else
    let s1 := s.modFrag arr (fun f => { f with
      geom := geom, dual := dual, plane0 := { f.plane0 with valid := false }, plane1 := { f.plane1 with valid := false },
      edge1 := if f.dual = dual then f.edge1 else f.edge0, lastQ := none })
    if f.geom = geom then s1 else clearBanks s1 (panesOf arr f.h f.w)

/-- What an MTC of a listed register does (R319): its new state, or none for a MODE trap. -/
def ctrlWrite (s : State) (n : Nat) (x : W64) : Option State :=
  let v := x.toNat
  match n with
  | 0x020 => if v < 256 then some (s.setCur (fun c => { c with aflags := x })) else none
  | 0x021 => if v < 256 then some (s.setCur (fun c => { c with amask := x })) else none
  | 0x022 => if v < 5 then some (s.setCur (fun c => { c with rmode := x })) else none
  | 0x023 => if v < 6 then some (setAmode s s.cur.arr (v / 2) (v % 2 = 1)) else none
  | 0x024 => if v ≤ 16777216 && v % 64 = 0 then some (s.setCur (fun c => { c with splive := x })) else none
  | 0x025 => if v ≤ 4096 then some (s.setCur (fun c => { c with acclive := x })) else none
  | 0x100 => if v < 128 then some (s.setCur (fun c => { c with tcause := x })) else none
  | 0x101 => some (s.setCur (fun c => { c with tpc := x }))
  | 0x102 => some (s.setCur (fun c => { c with tword := x }))
  | 0x103 => some (s.setCur (fun c => { c with taddr := x }))
  | 0x104 => some (s.setCur (fun c => { c with tdata := x }))
  | 0x105 => if v % 8 = 0 then some (s.setCur (fun c => { c with tvec := x })) else none
  | 0x106 => if v < 4 then some s else none
  | 0x107 => some (s.setCur (fun c => { c with sscr := x }))
  | 0x108 => if v < 65536 then some s else none
  | _ => some s

def execMtc (gd : Guard) (a : GReg) (num : BitVec 12) (s : State) : Out :=
  issue gd s (fun s =>
    let w := wordOf (.mtc gd a num)
    let x := s.rg a
    if 0x100 ≤ num.toNat && !s.cur.sm then trap s w cPriv 0 (num.zeroExtend 64)
    else if num = 0x023#12 && !(drained s s.cur 0 && drained s s.cur 1) then stall s .stall
    else match ctrlWrite s num.toNat x with
      | none => trap s w cMode 0 x
      | some t => advance t)

/- Lease -/

/-- The head of the request list comes to hold (R72). -/
def passLease (now : Nat) (f : Frag) : Frag :=
  { f with holder := f.reqs.head?, reqs := f.reqs.drop 1, tcount := 0, tstart := now }
def execAq (gd : Guard) (s : State) : Out :=
  issue gd s (fun s =>
    let c := s.cur
    if !isShared s then advance s
    else advance (s.modFrag c.arr (fun f =>
      if f.holder = some c.cid || f.reqs.contains c.cid then f
      else if f.holder.isNone then { f with holder := some c.cid, tcount := 0, tstart := s.now }
      else { f with reqs := f.reqs ++ [c.cid] })))
/-- AREL, and EXIT's release (R49, R72). -/
def releaseLease (s : State) (c : Ctx) : State :=
  s.modFrag c.arr (fun f =>
    if f.holder = some c.cid then passLease s.now f
    else { f with reqs := f.reqs.filter (· != c.cid) })
def execArel (gd : Guard) (s : State) : Out :=
  issue gd s (fun s => advance (if isShared s then releaseLease s s.cur else s))
/-- The limit of a tenure: its 64th array command, or 100 µs (R73). -/
def tenureOver (s : State) (f : Frag) : Bool := 64 ≤ f.tcount || f.tstart + 100 * ticksPerUs ≤ s.now
/-- The holder goes to the tail of the request list, the head holds (R73). -/
def handOver (s : State) (arr : Nat) : State :=
  s.modFrag arr (fun f => match f.holder with
    | some h => if f.reqs.isEmpty then f else passLease s.now { f with reqs := f.reqs ++ [h] }
    | none => f)
/-- The time limit reached while the holder has no array command pending: a command boundary at that moment, and at no later
one (R73). -/
def execTenureLimit (seq : Nat) (s : State) : Out :=
  let f := s.frag seq
  let pending := match f.holder with
    | some h => (f.queue 0 ++ f.queue 1).any (fun k => k.cid == h)
    | none => true
  .next (if s.now = f.tstart + 100 * ticksPerUs && f.tcount < 64 && !pending && !f.reqs.isEmpty then handOver s seq else s)

/- Barriers -/

/-- The barrier of a context for a scope and id, its participants, and whether its home is in another package. -/
def barrierOf (s : State) (c : Ctx) (scope : BarScope) (id : Nat) : Barrier × Nat × Option (Slice × Nat) :=
  match scope with
  | .comp => match s.unit? c.uid with
    | none => (Barrier.reset, 1, none)
    | some u => (Store.get Barrier.reset u.bars id, liveContexts s u, none)
  | .launch => match s.launch? c.lid with
    | none => (Barrier.reset, 1, none)
    | some l => (Store.get Barrier.reset l.bars id, l.lpb.nunits - l.left, none)
  | .gang => match s.launch? c.lid with
    | none => (Barrier.reset, 1, none)
    | some l => (Store.get Barrier.reset l.gbars id, gangParts l, sliceAway s l)
def setBarrier (s : State) (c : Ctx) (scope : BarScope) (id : Nat) (b : Barrier) : State :=
  match scope with
  | .comp => s.modUnit c.uid (fun u => { u with bars := Store.put Barrier.reset u.bars id b })
  | .launch => s.modLaunch c.lid (fun l => { l with bars := Store.put Barrier.reset l.bars id b })
  | .gang => s.modLaunch c.lid (fun l => { l with gbars := Store.put Barrier.reset l.gbars id b })
def Ctx.setBar (c : Ctx) (scope id : Nat) (b : Byte) : Ctx :=
  { c with bars := Store.put 0 c.bars (barIndex scope id) b }
/-- The arrival part of BAR (R288). -/
def barArrive (s : State) (scope : BarScope) (id : Nat) : State :=
  let c := s.cur
  let sc := scope.bits.toNat
  let (b, parts, away) := barrierOf s c scope id
  let r := c.bar sc id
  if barArrived r && barGen r = b.gen % 128 then s
  else
    let s1 := s.setCur (fun c => c.setBar sc id (BitVec.ofNat 8 (128 + b.gen % 128)))
    match away with
    | some (sl, m) => s1.sendSeq ⟨m, s1.hdr (c.seq / 16) c.ctxid (b.gen % 128) 0, .barArrive sl.serial id⟩
    | none =>
      let b1 := bumpBarrier parts { b with count := b.count + 1 }
      let s2 := setBarrier s1 c scope id b1
      if scope = .gang && b1.gen != b.gen then tellMembers s2 c.lid (c.seq / 16) c.ctxid id else s2
/-- The BAR at the PC waits no longer. -/
def Ctx.leaveBar (c : Ctx) : Ctx := { c with barAt := c.barAt.filter (· != c.pc) }
/-- The wait part: on once the generation has passed, else a wait of R54 (R288, R289). -/
def barWait (s : State) (scope : BarScope) (id : Nat) : State :=
  let sc := scope.bits.toNat
  let (b, _, _) := barrierOf s s.cur scope id
  let r := s.cur.bar sc id
  if barArrived r then
    if b.gen % 128 != barGen r then
      advance (s.setCur (fun c => (c.setBar sc id (r &&& 0x7F)).leaveBar))
    else stall s .quantum
  else advance (s.setCur Ctx.leaveBar)
/-- A BAR that already waits, or waited when it was pre-empted, adds no arrival (R289): one executed again is known by the
PC of the BAR that waits (DEDUCED, assumption 107). -/
def execBar (gd : Guard) (mode : BarMode) (scope : BarScope) (id : BitVec 4) (s : State) : Out :=
  issue gd s (fun s =>
    let w := wordOf (.bar gd mode scope id)
    let sel := (barSel mode scope).zeroExtend 64
    if (scope = .launch && !(isGang s || isShared s)) || (scope = .gang && !isGang s) then trap s w cScope 0 sel
    else match mode with
      | .both =>
        barWait (if s.cur.barAt.contains s.cur.pc then s
          else (barArrive s scope id.toNat).setCur (fun c => { c with barAt := c.pc :: c.barAt })) scope id.toNat
      | .arrive => advance (barArrive s scope id.toNat)
      | .wait => barWait s scope id.toNat)

/- CANCEL -/

/-- The entity of a level that contains an entity, itself included. -/
def ancestor (s : State) (lv : Level) : Nat → Nat → Option Nat
  | 0, _ => none
  | fuel + 1, e =>
    match s.ent? e with
    | none => none
    | some x => if x.level = lv then some e else match x.parent with
      | none => none
      | some p => ancestor s lv fuel p
def ancestorOf (s : State) (lv : Level) (e : Nat) : Option Nat := ancestor s lv (s.ents.length + 1) e
/-- The entity of a handle in a job (R25). -/
def entByHandle (s : State) (job : W16) (h : W64) : Option Nat :=
  (s.ents.find? (fun e => e.2.job == job && e.2.handle == h)).map (·.1)
/-- A handle of a level that the job has given, also one that a rejected launch keeps (R25). -/
def handleGiven (s : State) (job : W16) (lv : Level) (h : W64) : Bool :=
  let n := h.toNat % 2 ^ 32
  0 < n && n ≤ Store.get 0 s.serials (8 * job.toNat + levelCode lv)
/-- A handle of a level that another job has given, of whatever became of its entity. -/
def handleElsewhere (s : State) (job : W16) (lv : Level) (h : W64) : Bool :=
  let n := h.toNat % 2 ^ 32
  h.toNat / 2 ^ 32 % 2 ^ 28 = 0 && 0 < n && s.serials.any (fun e => e.1 % 8 == levelCode lv && e.1 / 8 != job.toNat && n ≤ e.2)
/-- The entity of a level that a CANCEL without a handle names: a graph only where the unit's launch is its node (R291). -/
def cancelTarget (s : State) (lv : Level) : Option Nat :=
  match lv with
  | .graph => ((s.ent? s.cur.lid).bind (·.parent)).filter (fun p => (s.ent? p).any (fun e => e.level == .graph))
  | _ => ancestorOf s lv s.cur.lid
/-- `x` is `e` or contains it. -/
def containsUpTo (s : State) (x : Nat) : Nat → Nat → Bool
  | 0, _ => false
  | fuel + 1, e => e == x || match (s.ent? e).bind (·.parent) with
    | none => false
    | some p => containsUpTo s x fuel p
def contains (s : State) (x e : Nat) : Bool := containsUpTo s x (s.ents.length + 1) e
/-- The home accepts the cancel; nothing more of a unit that it contains issues (R291). -/
def acceptCancel (s : State) (x : Nat) : State :=
  let s1 := { s with cancels := s.cancels ++ [⟨x⟩] }
  let done := ((s.ent? x).map (·.complete)).getD true
  if done then s
  else if contains s x s.cur.lid then
    let u := s.cur.uid
    { s1 with
      cur := { s1.cur with halted := true }
      others := s1.others.map (fun c => if c.uid = u then { c with halted := true } else c) }
  else s1
def execCancel (gd : Guard) (a : GReg) (lvl : Level) (s : State) : Out :=
  issue gd s (fun s =>
    let h := s.rg a
    let w := wordOf (.cancel gd a lvl)
    if h = 0 then
      match cancelTarget s lvl with
      | none => advance s
      | some x => advance (acceptCancel s x)
    else if h.toNat / 2 ^ 60 != levelCode lvl then trap s w cScope 0 (lvl.bits.zeroExtend 64)
    else match entByHandle s s.cur.ctxid h with
      | some x => advance (acceptCancel s x)
      | none =>
        if !handleGiven s s.cur.ctxid lvl h && handleElsewhere s s.cur.ctxid lvl h then trap0 s w cPerm else advance s)

/- Markers and tokens -/

/-- Every command ahead of the markers behind number `n` in the named queues has completed (R329). -/
def aheadDone (s : State) (c : Ctx) (mask : BitVec 6) (n : Nat) : Bool :=
  (List.range 6).all (fun q => !mask.getLsbD q || (s.queue (queueHome c q) q).all (fun k => decide (n ≤ k.id)))
def execQmark (gd : Guard) (mask : BitVec 6) (s : State) : Out :=
  issue gd s (fun s =>
    if !s.cur.sm then trap0 s (wordOf (.qmark gd mask)) cPriv
    else
      let n := s.cur.marker.getD s.nextId
      if aheadDone s s.cur mask n then advance (s.setCur (fun c => { c with marker := none }))
      else (stall s .stall).setCur (fun c => { c with marker := some n }))

/-- The first faulted token among three, in order. -/
def firstBadToken (c : Ctx) : List KNum → Option (KNum × Done)
  | [] => none
  | k :: t => if (c.rk k).done.code = 0 then firstBadToken c t else some (k, (c.rk k).done)
/-- TWAIT (R119): the reported token is consumed together with the trap. -/
def execTwait (gd : Guard) (ka kb kc : KNum) (s : State) : Out :=
  issue gd s (fun s =>
    let ks := [ka, kb, kc]
    if ks.any (fun k => (s.cur.rk k).pend != 0) then stall s .quantum
    else match firstBadToken s.cur ks with
      | none => advance s
      | some (k, d) =>
        trap (s.setCur (·.wk k Token.reset)) d.oword cToken d.opc (d.status.zeroExtend 64))
def execTstat (gd : Guard) (d : GReg) (ka : KNum) (s : State) : Out :=
  issue gd s (fun s =>
    let t := s.cur.rk ka
    if t.pend != 0 then stall s .quantum else result s d (t.done.status.zeroExtend 64))
def execTjoin (gd : Guard) (ko ka kb kc : KNum) (s : State) : Out :=
  issue gd s (fun s =>
    if (s.cur.rk ko).pend != 0 then stall s .stall
    else
      let ins := [ka, kb, kc].map (fun k => (s.cur.rk k).inp)
      let (id, s1) := s.fresh
      let s2 := s1.setCur (·.wk ko ⟨id, Done.ok⟩)
      advance ({ s2 with joins := s2.joins ++ [⟨id, s2.cur.cid, ins⟩] } : State).settle)

end Sys2Proof.Machine
end

