-- ==== Sys2Proof/Machine/Engine.lean ====
section
/-! DEFINITION. Issue of engine commands and LAUNCH (R58, R72, R80, R87, R88, R112, R114, R115, R118, R309), and
what starts, ends and faults of a command have in common (R50, R113, R116, R117, R120). -/
namespace Sys2Proof.Machine

/- Issue -/

/-- Adds a command to a queue, or none where it stalls: KO pending (R118), or 16 entries (R80). The input tokens
and the g registers are captured (R114, R115). -/
def enqueue? (i : Instr) (q : Nat) (ko : KNum) (ks : List KNum) (ga gb res : W64) (s : State) : Option State :=
  let c := s.cur
  let home := queueHome c q
  if (c.rk ko).pend != 0 || 16 ≤ (s.queue home q).length then none
  else
    let ins := ks.map (fun k => (c.rk k).inp)
    let (id, s1) := s.fresh
    let k : Cmd := ⟨id, i, wordOf i, c.pc, c.cid, c.uid, c.lid, c.ctxid, c.sec, c.seq, c.arr, c.h, c.w, ga, gb, res,
      ins, .queued, 0, none, [], [], (0, 0, 0), none, none, [], none, 0, false, none, 0, 0, none⟩
    some (advance ((s1.setCur (·.wk ko ⟨id, Done.ok⟩)).setQueue home q (s1.queue home q ++ [k])))

def engIssue (i : Instr) (q : Nat) (ko : KNum) (ks : List KNum) (ga gb res : W64) (s : State) : State :=
  (enqueue? i q ko ks ga gb res s).getD (stall s .stall)

/-- Issue of an array command under the lease (R72, R73). -/
def arrayIssue (i : Instr) (bg : Bool) (ko : KNum) (ks : List KNum) (ga gb : W64) (s : State) : State :=
  let q := if bg then 1 else 0
  let c := s.cur
  if !isShared s then engIssue i q ko ks ga gb 0 s
  else
    let f := s.frag c.arr
    if f.holder = some c.cid then
      if tenureOver s f && !f.reqs.isEmpty then stall (handOver s c.arr) .stall
      else match enqueue? i q ko ks ga gb 0 s with
        | none => stall s .stall
        | some t => t.modFrag c.arr (fun f => { f with tcount := f.tcount + 1 })
    else if f.reqs.contains c.cid then stall s .stall
    else trap0 s (wordOf i) cLease

/-- Instructions that a REPLICA launch turns away (R58). -/
def replicaTrap (i : Instr) (s : State) (run : State → State) : State :=
  if isReplica s then trap0 s (wordOf i) cMode else run s

def resumeOf (s : State) : Option GReg → W64
  | none => 0
  | some r => s.rg r

def execXcopy (gd : Guard) (ko ka kb kc : KNum) (ga gb : GReg) (res : Option GReg) (s : State) : Out :=
  issue gd s (fun s => engIssue (.xcopy gd ko ka kb kc ga gb res) 2 ko [ka, kb, kc] (s.rg ga) (s.rg gb) (resumeOf s res) s)
def execXcast (gd : Guard) (ko ka kb kc : KNum) (ga gb : GReg) (res : Option GReg) (s : State) : Out :=
  issue gd s (fun s => engIssue (.xcast gd ko ka kb kc ga gb res) 2 ko [ka, kb, kc] (s.rg ga) (s.rg gb) (resumeOf s res) s)
def execXred (gd : Guard) (ko ka kb kc : KNum) (ga gb : GReg) (res : Option GReg) (s : State) : Out :=
  issue gd s (fun s => replicaTrap (.xred gd ko ka kb kc ga gb res) s
    (engIssue (.xred gd ko ka kb kc ga gb res) 2 ko [ka, kb, kc] (s.rg ga) (s.rg gb) (resumeOf s res)))
def execXfetch (gd : Guard) (ko ka kb kc : KNum) (ga : GReg) (s : State) : Out :=
  issue gd s (fun s => replicaTrap (.xfetch gd ko ka kb kc ga) s
    (engIssue (.xfetch gd ko ka kb kc ga) 3 ko [ka, kb, kc] (s.rg ga) 0 0))
def execXsend (gd : Guard) (ko ka kb kc : KNum) (ga gb : GReg) (add : Bool) (res : Option GReg) (s : State) : Out :=
  issue gd s (fun s => replicaTrap (.xsend gd ko ka kb kc ga gb add res) s
    (engIssue (.xsend gd ko ka kb kc ga gb add res) 3 ko [ka, kb, kc] (s.rg ga) (s.rg gb) (resumeOf s res)))
def execArrive (gd : Guard) (ko ka kb kc : KNum) (ga gb : GReg) (s : State) : Out :=
  issue gd s (fun s => replicaTrap (.arrive gd ko ka kb kc ga gb) s
    (engIssue (.arrive gd ko ka kb kc ga gb) 3 ko [ka, kb, kc] (s.rg ga) (s.rg gb) 0))
def execStrm (gd : Guard) (ko ka kb kc : KNum) (ga gb : GReg) (s : State) : Out :=
  issue gd s (fun s => engIssue (.strm gd ko ka kb kc ga gb) 4 ko [ka, kb, kc] (s.rg ga) (s.rg gb) 0 s)
def execGcfg (gd : Guard) (ko ka kb kc : KNum) (ga : GReg) (s : State) : Out :=
  issue gd s (fun s => engIssue (.gcfg gd ko ka kb kc ga) 4 ko [ka, kb, kc] (s.rg ga) 0 0 s)
def execGspill (gd : Guard) (ko ka kb kc : KNum) (ga : GReg) (s : State) : Out :=
  issue gd s (fun s => engIssue (.gspill gd ko ka kb kc ga) 4 ko [ka, kb, kc] (s.rg ga) 0 0 s)
def execGstart (gd : Guard) (ko ka kb kc : KNum) (s : State) : Out :=
  issue gd s (fun s => engIssue (.gstart gd ko ka kb kc) 4 ko [ka, kb, kc] 0 0 0 s)
def execGstop (gd : Guard) (ko ka kb kc : KNum) (s : State) : Out :=
  issue gd s (fun s => engIssue (.gstop gd ko ka kb kc) 4 ko [ka, kb, kc] 0 0 0 s)
def execKwatch (gd : Guard) (ko ka kb kc : KNum) (ga gb : GReg) (s : State) : Out :=
  issue gd s (fun s => engIssue (.kwatch gd ko ka kb kc ga gb) 5 ko [ka, kb, kc] (s.rg ga) (s.rg gb) 0 s)

def execWload (gd : Guard) (ko ka kb kc : KNum) (ga gb : GReg) (bg : Bool) (s : State) : Out :=
  issue gd s (fun s => arrayIssue (.wload gd ko ka kb kc ga gb bg) bg ko [ka, kb, kc] (s.rg ga) (s.rg gb) s)
/-- In dual-queue mode MODE, after the check of the lease (R88). -/
def execWswap (gd : Guard) (ko ka kb kc : KNum) (bg : Bool) (s : State) : Out :=
  issue gd s (fun s =>
    let i : Instr := .wswap gd ko ka kb kc bg
    let f := s.frag s.cur.arr
    let outside := isShared s && f.holder != some s.cur.cid
    if f.dual && !outside then trap0 s (wordOf i) cMode else arrayIssue i bg ko [ka, kb, kc] 0 0 s)
def execMma (gd : Guard) (ko ka kb kc : KNum) (ga gb : GReg) (bg chn rag cin set : Bool) (s : State) : Out :=
  issue gd s (fun s =>
    arrayIssue (.mma gd ko ka kb kc ga gb bg chn rag cin set) bg ko [ka, kb, kc] (s.rg ga) (s.rg gb) s)
def execAswap (gd : Guard) (ko ka kb kc : KNum) (bg : Bool) (s : State) : Out :=
  issue gd s (fun s => arrayIssue (.aswap gd ko ka kb kc bg) bg ko [ka, kb, kc] 0 0 s)
def execAclr (gd : Guard) (ko ka kb kc : KNum) (gb : GReg) (bg : Bool) (s : State) : Out :=
  issue gd s (fun s => arrayIssue (.aclr gd ko ka kb kc gb bg) bg ko [ka, kb, kc] 0 (s.rg gb) s)
def execAdrain (gd : Guard) (ko ka kb kc : KNum) (ga gb : GReg) (bg : Bool) (s : State) : Out :=
  issue gd s (fun s => arrayIssue (.adrain gd ko ka kb kc ga gb bg) bg ko [ka, kb, kc] (s.rg ga) (s.rg gb) s)
def execEdge (gd : Guard) (ko ka kb kc : KNum) (ga : GReg) (bg : Bool) (s : State) : Out :=
  issue gd s (fun s => arrayIssue (.edge gd ko ka kb kc ga bg) bg ko [ka, kb, kc] (s.rg ga) 0 s)

/-- LAUNCH at issue (R309): a 17th pending one stalls (R112); the edges of its inputs lend priority (R62). -/
def execLaunch (gd : Guard) (ko ka kb kc : KNum) (ga : GReg) (s : State) : Out :=
  issue gd s (fun s =>
    let i : Instr := .launch gd ko ka kb kc ga
    let c := s.cur
    if isReplica s then trap0 s (wordOf i) cMode
    else if 16 ≤ (s.pend.filter (fun p => p.cid == c.cid)).length || (c.rk ko).pend != 0 then stall s .stall
    else
      let ins := [ka, kb, kc].map (fun k => (c.rk k).inp)
      let (id, s1) := s.fresh
      let p : PendLaunch := ⟨id, c.cid, c.uid, c.lid, c.ctxid, c.pc, wordOf i, c.rg ga, c.h, c.w, c.seq, ins, none⟩
      let s2 := s1.setCur (·.wk ko ⟨id, Done.ok⟩)
      let s3 := ({ s2 with pend := s2.pend ++ [p] } : State).settle
      advance (if inputsDone ins then s3 else s3.reprioritise))

/- Commands in their queues -/

def State.cmd? (s : State) (home q id : Nat) : Option Cmd := (s.queue home q).find? (fun k => k.id == id)
def State.modCmd (s : State) (home q id : Nat) (f : Cmd → Cmd) : State :=
  s.modFrag home (fun fr => fr.setQueue q ((fr.queue q).map (fun k => if k.id = id then f k else k)))

/-- Whether the context that issued a command has executed EXIT (R300). -/
def issuerGone (s : State) (k : Cmd) : Bool :=
  match s.ctx? k.cid with
  | none => ((s.unit? k.uid).map (fun u => u.phase == .exited || u.phase == .counted)).getD true
  | some c => c.phase == .exited

/-- A command leaves its queue and its token completes; flags first (R89); one that faults after its EXIT fails
its launch (R50). `d` names the command whose fault it reports (R116, R117). -/
def completeWith (s : State) (k : Cmd) (d : Done) (fl : BitVec 8) : State :=
  let gone := issuerGone s k
  let orderly := match s.unit? k.uid with
    | some u => u.orderly.contains k.id
    | none => false
  let s1 := ((s.dropCmd k.id).foldCmd k.uid k.id).orFlags k.cid (k.flags ||| fl)
  let s2 := s1.complete k.id d
  if gone && d.code != 0 && !orderly then failLaunch s2 k.lid (statusWord d.code 0) else s2
def completeCmd (s : State) (k : Cmd) (st : W32) (fl : BitVec 8) : State :=
  completeWith s k (if statusCode st = 0 then Done.ofStatus st else ⟨st, k.pc, k.word⟩) fl

/-- The job's page-fault setting sends faults of this command to firmware (R120, R172). -/
def toFirmware (s : State) (k : Cmd) (cause : Nat) : Bool :=
  (cause = cXlate || cause = cPerm) && ((s.job? k.ctxid).map (fun j => !j.pfh)).getD false

/-- A command's fault: it waits at the page where firmware may map it (`fw`), else its token reports it. -/
def cmdFault (fw : Bool) (s : State) (home q : Nat) (k : Cmd) (cause : Nat) (a : W64) (prog : Nat) : State :=
  if fw && toFirmware s k cause then s.modCmd home q k.id (fun k => { k with page := some a })
  else
    let s1 := if cause = cEcc then s.count (fun e => { e with uncorr := satInc e.uncorr }) else s
    completeCmd s1 k (statusWord cause prog) 0

/-- The command of a queue that may start next (R80, R113): in GRD a GCFG keeps the head until it completes.
While one waits at its start for firmware's page service, none behind it starts (R120 is silent: DESIGN CHOICE,
assumption 12). -/
def nextStart (q : Nat) (l : List Cmd) : Option Cmd :=
  match l.find? (fun k => k.st == .queued) with
  | none => none
  | some k =>
    let blocked := q == 4 && l.any (fun j => j.st == .started && match j.op with
      | .gcfg _ _ _ _ _ _ => true
      | _ => false)
    if blocked || k.page.isSome || !inputsDone k.ins then none else some k
/-- A queued command that a faulted input ends (R117), at any place in its queue. -/
def inputBad (l : List Cmd) : Option (Cmd × Done) :=
  l.findSome? (fun k => if k.st = .queued then (inputFault k.ins).map (fun d => (k, d)) else none)
/-- The token completes with the input's status and origin record; an orderly end stays one (R50, R305). -/
def inheritFault (s : State) (k : Cmd) (d : Done) : State :=
  let gstop := statusCode d.status = nCancelled && (d.oword.toNat / 2 ^ 56 = 0x48 || d.oword.toNat / 2 ^ 56 = 0x4C)
  let s1 := if gstop then s.modUnit k.uid (fun u => { u with orderly := u.orderly ++ [k.id] }) else s
  completeWith s1 k d 0

end Sys2Proof.Machine
end

