-- ==== Sys2Proof/Machine/Numbers.lean ====
section
/-! DEFINITION. Number formats, exact values, rounding and conversion (R144 to R148, R151 to R155, R158). A finite
value is an integer times a power of two, held exactly; rounding takes it to a format once. -/
namespace Sys2Proof.Machine

/-- A decoded value: NaN with its sign and whether it signals, an infinity, or (−1)^neg × m × 2^e. -/
inductive Val where
  | nan (neg sig : Bool)
  | inf (neg : Bool)
  | fin (neg : Bool) (m : Nat) (e : Int)
deriving DecidableEq, Repr

def Val.zero (neg : Bool) : Val := .fin neg 0 0
def Val.isNan : Val → Bool
  | .nan _ _ => true
  | _ => false
def Val.isSig : Val → Bool
  | .nan _ g => g
  | _ => false
def Val.neg : Val → Val
  | .nan n g => .nan (!n) g
  | .inf n => .inf (!n)
  | .fin n m e => .fin (!n) m e
def Val.sign : Val → Bool
  | .nan n _ => n
  | .inf n => n
  | .fin n _ _ => n
def Val.isZero : Val → Bool
  | .fin _ m _ => m == 0
  | _ => false
def Val.ofInt (x : Int) : Val := .fin (decide (x < 0)) x.natAbs 0

/-- Exponent and fraction widths, bias (R144). -/
def fmtWidths : Tag → Nat × Nat × Nat
  | .bf16 => (8, 7, 127)
  | .fp16 => (5, 10, 15)
  | .e4m3 => (4, 3, 7)
  | .e5m2 => (5, 2, 15)
  | _ => (8, 23, 127)

/-- Value of a floating-point code (R144). E4M3 has one NaN pattern and no infinity. -/
def decodeFloat (t : Tag) (c : Nat) : Val :=
  let (eb, fb, bias) := fmtWidths t
  let neg := c / 2 ^ (eb + fb) % 2 = 1
  let ex := c / 2 ^ fb % 2 ^ eb
  let f := c % 2 ^ fb
  if t = .e4m3 && ex = 15 && f = 7 then .nan neg false
  else if t != .e4m3 && ex = 2 ^ eb - 1 then
    if f = 0 then .inf neg else .nan neg (f / 2 ^ (fb - 1) = 0)
  else if ex = 0 then .fin neg f (1 - bias - fb)
  else .fin neg (2 ^ fb + f) ((ex : Int) - bias - fb)

def bits32 (x : W32) : Val := decodeFloat .fp32 x.toNat

/-- E2M1 code values in halves (R146). -/
def e2m1Half (c : Nat) : Nat := ([0, 1, 2, 3, 4, 6, 8, 12][c % 8]?).getD 0
def e2m1Val (c : Nat) : Val := .fin (decide (8 ≤ c % 16)) (e2m1Half c) (-1)
/-- The Madder codebook in units of 2^−8 (R147): sign and magnitude. -/
def qc4Code (i : Nat) : Int :=
  ([-256, -178, -134, -101, -73, -47, -23, 0, 20, 41, 63, 86, 112, 144, 187, 256][i % 16]?).getD 0
def qc4Val (i : Nat) : Val := .fin (decide (qc4Code i < 0)) (qc4Code i).natAbs (-8)

/- Arithmetic on exact values -/

/-- m × 2^e as a multiple of 2^q, for q ≤ e. -/
def scaleTo (neg : Bool) (m : Nat) (e q : Int) : Int :=
  let v : Int := (m * 2 ^ (e - q).toNat : Nat)
  if neg then -v else v

/-- Sum of two finite values; a zero sum has the sign R158 gives. -/
def addFin (rdn : Bool) (n1 : Bool) (m1 : Nat) (e1 : Int) (n2 : Bool) (m2 : Nat) (e2 : Int) : Val :=
  if m1 = 0 && m2 = 0 then .fin (if n1 = n2 then n1 else rdn) 0 0
  else
    let q := min e1 e2
    let v := scaleTo n1 m1 e1 q + scaleTo n2 m2 e2 q
    if v = 0 then .fin rdn 0 0 else .fin (decide (v < 0)) v.natAbs q

def nvIf (b : Bool) : BitVec 8 := if b then fNV else 0

/-- Exact sum; ∞ − ∞ is invalid (R341). -/
def addVal (rdn : Bool) (x y : Val) : Val × BitVec 8 :=
  match x, y with
  | .nan _ g, y => (.nan false false, nvIf (g || y.isSig))
  | x, .nan _ g => (.nan false false, nvIf (g || x.isSig))
  | .inf a, .inf b => if a = b then (.inf a, 0) else (.nan false false, fNV)
  | .inf a, _ => (.inf a, 0)
  | _, .inf b => (.inf b, 0)
  | .fin n1 m1 e1, .fin n2 m2 e2 => (addFin rdn n1 m1 e1 n2 m2 e2, 0)

/-- Exact product; 0 × ∞ is invalid. -/
def mulVal (x y : Val) : Val × BitVec 8 :=
  match x, y with
  | .nan _ g, y => (.nan false false, nvIf (g || y.isSig))
  | x, .nan _ g => (.nan false false, nvIf (g || x.isSig))
  | .inf a, .inf b => (.inf (a != b), 0)
  | .inf a, .fin b m _ => if m = 0 then (.nan false false, fNV) else (.inf (a != b), 0)
  | .fin a m _, .inf b => if m = 0 then (.nan false false, fNV) else (.inf (a != b), 0)
  | .fin a m1 e1, .fin b m2 e2 => (.fin (a != b) (m1 * m2) (e1 + e2), 0)

/-- Order of two values that are not NaN, −0 = +0: less, and equal. -/
def ltVal (x y : Val) : Bool :=
  match x, y with
  | .inf a, .inf b => a && !b
  | .inf a, _ => a
  | _, .inf b => !b
  | .fin n1 m1 e1, .fin n2 m2 e2 =>
    let q := min e1 e2
    decide (scaleTo n1 m1 e1 q < scaleTo n2 m2 e2 q)
  | _, _ => false
def eqVal (x y : Val) : Bool := !x.isNan && !y.isNan && !ltVal x y && !ltVal y x

/-- minimumNumber and maximumNumber (R158): one NaN is ignored, −0 lies below +0. -/
def belowNum (x y : Val) : Bool := ltVal x y || (eqVal x y && x.sign && !y.sign)
def pickNum (wantMax : Bool) (x y : Val) : Val × BitVec 8 :=
  let fl := nvIf (x.isSig || y.isSig)
  if x.isNan && y.isNan then (.nan false false, fl)
  else if x.isNan then (y, fl)
  else if y.isNan then (x, fl)
  else if belowNum x y = wantMax then (y, fl) else (x, fl)

/- Rounding -/

/-- Whether the magnitude is incremented: remainder against half, sticky bits below (R151). -/
def roundsUp (rm : Rm) (neg odd : Bool) (rem half : Nat) (sticky : Bool) : Bool :=
  match rm with
  | .rtz => false
  | .rdn => neg && (rem != 0 || sticky)
  | .rup => !neg && (rem != 0 || sticky)
  | .rna => half ≤ rem && half != 0
  | _ => half != 0 && (half < rem || (rem == half && (sticky || odd)))

/-- m × 2^e rounded to a multiple of 2^q: the integer multiple and whether it is inexact. -/
def roundAt (rm : Rm) (neg : Bool) (m : Nat) (e q : Int) (sticky : Bool) : Nat × Bool :=
  if q ≤ e then
    let k := m * 2 ^ (e - q).toNat
    (k + (if roundsUp rm neg (k % 2 = 1) 0 0 sticky then 1 else 0), sticky)
  else
    let d := 2 ^ (q - e).toNat
    let k := m / d
    let r := m % d
    (k + (if roundsUp rm neg (k % 2 = 1) r (d / 2) sticky then 1 else 0), r != 0 || sticky)

/-- Largest finite magnitude as multiple and exponent (R144). -/
def maxFinite (t : Tag) : Nat × Int :=
  let (eb, fb, bias) := fmtWidths t
  if t = .e4m3 then (14, 5) else (2 ^ (fb + 1) - 1, (2 ^ eb - 2 : Nat) - (bias : Int) - fb)

def signBit (t : Tag) (neg : Bool) : Nat := if neg then 2 ^ ((fmtWidths t).1 + (fmtWidths t).2.1) else 0
/-- Quiet NaN of a sign with zero payload (R145). -/
def nanCode (t : Tag) (neg : Bool) : Nat :=
  let (eb, fb, _) := fmtWidths t
  signBit t neg + (if t = .e4m3 then 0x7F else (2 ^ eb - 1) * 2 ^ fb + 2 ^ (fb - 1))
def infCode (t : Tag) (neg : Bool) : Nat := signBit t neg + (2 ^ (fmtWidths t).1 - 1) * 2 ^ (fmtWidths t).2.1
def maxCode (t : Tag) (neg : Bool) : Nat := if t = .e4m3 then signBit t neg + 0x7E else infCode t neg - 1

/-- Code of k × 2^q, exact in the format. -/
def packFloat (t : Tag) (neg : Bool) (k : Nat) (q : Int) : Nat :=
  let (_, fb, bias) := fmtWidths t
  let (k, q) := if k = 2 ^ (fb + 1) then (2 ^ fb, q + 1) else (k, q)
  if k < 2 ^ fb then signBit t neg + k
  else signBit t neg + (q + fb + bias).toNat * 2 ^ fb + (k - 2 ^ fb)

/-- What an overflow gives (R153). -/
def overflowCode (t : Tag) (rm : Rm) (sat neg : Bool) : Nat × BitVec 8 :=
  if sat then (maxCode t neg, fSAT)
  else if t = .e4m3 then (nanCode t neg, fOF)
  else
    let toMax := match rm with
      | .rtz => true
      | .rdn => !neg
      | .rup => neg
      | _ => false
    (if toMax then maxCode t neg else infCode t neg, fOF ||| fNX)

/-- Conversion of a finite value with sticky bits to a floating format (R151, R153). -/
def roundFloat (t : Tag) (rm : Rm) (sat neg : Bool) (m : Nat) (e : Int) (sticky : Bool) : Nat × BitVec 8 :=
  if m = 0 && !sticky then (signBit t neg, 0)
  else
    let (_, fb, bias) := fmtWidths t
    let emin : Int := 1 - bias
    let top : Int := e + (Nat.log2 m : Int)
    let qn : Int := top - fb
    let q := max qn (emin - fb)
    let (k, inexact) := roundAt rm neg m e q sticky
    let (mk, mq) := maxFinite t
    let above := q > mq || (q = mq && mk < k)
    if above then overflowCode t rm sat neg
    else
      let tiny := top < emin && !(top = emin - 1 && (roundAt rm neg m e qn sticky).1 = 2 ^ (fb + 1))
      (packFloat t neg k q, (if inexact then fNX else 0) ||| (if inexact && tiny then fUF else 0))

/-- Conversion of a finite value to I32 or W32 (R154). -/
def roundInt (t : Tag) (rm : Rm) (neg : Bool) (m : Nat) (e : Int) (sticky : Bool) : Nat × BitVec 8 :=
  let (k, inexact) := roundAt rm neg m e 0 sticky
  let v : Int := if neg then -k else k
  let lo : Int := if t = .i32 then -2 ^ 31 else 0
  let hi : Int := if t = .i32 then 2 ^ 31 - 1 else 2 ^ 32 - 1
  let code (x : Int) : Nat := (BitVec.ofInt 32 x).toNat
  if v < lo then (code lo, fSAT)
  else if hi < v then (code hi, fSAT)
  else (code v, if inexact then fNX else 0)

/-- A conversion (R145, R151 to R154): code and flags. `sticky` says that bits below the value are cut off. -/
def convertSt (t : Tag) (rm : Rm) (sat : Bool) (x : Val) (sticky : Bool) : Nat × BitVec 8 :=
  if isInt t then
    match x with
    | .nan _ _ => (0, fNV)
    | .inf n => (if t = .i32 then (if n then 2 ^ 31 else 2 ^ 31 - 1) else (if n then 0 else 2 ^ 32 - 1), fSAT)
    | .fin n m e => roundInt t rm n m e sticky
  else
    match x with
    | .nan n g => (nanCode t n, nvIf g)
    | .inf n =>
      if sat then (maxCode t n, fSAT)
      else if t = .e4m3 then (nanCode t n, fOF)
      else (infCode t n, 0)
    | .fin n m e => roundFloat t rm sat n m e sticky
def convert (t : Tag) (rm : Rm) (sat : Bool) (x : Val) : Nat × BitVec 8 := convertSt t rm sat x false

/-- RNE32 of an exact value, and the value it yields (R6). -/
def rne32 (x : Val) : Nat × BitVec 8 := convert .fp32 .rne false x
def rne32Val (x : Val) : Val := decodeFloat .fp32 (rne32 x).1

/-- An arithmetic result: NaN is the canonical NaN of the format (R145). -/
def roundResult (t : Tag) (rm : Rm) (sat : Bool) (r : Val × BitVec 8) (sticky : Bool) : Nat × BitVec 8 :=
  match r.1 with
  | .nan _ _ => (nanCode t false, r.2)
  | x =>
    let (c, f) := convertSt t rm sat x sticky
    (c, f ||| r.2)

/- Elements with side fields -/

/-- Block scale of QC4: RNE32(F × (s + 1)) × 2^−8, exact (R147). Forming it sets no flag, also where F is a signalling
NaN (assumption 95). -/
def qc4Scale (sup : W32) (sc : Nat) : Val :=
  match rne32Val (mulVal (bits32 sup) (.fin false (sc + 1) 0)).1 with
  | .fin n m e => .fin n m (e - 8)
  | v => v
/-- Block scale of E2M1: 2^(E − 127), NaN for E = 0xFF (R146). -/
def e2m1Scale (sc : Nat) : Val := if sc = 255 then .nan false false else .fin false 1 ((sc : Int) - 127)

/-- Value of a code of a tag with its block's scale byte, zero point and super-scale (R144 to R148). An element that is
NaN by its block's scale is a positive quiet NaN (assumption 95). -/
def decodeElem (t : Tag) (c sc z : Nat) (sup : W32) : Val :=
  match t with
  | .i32 => Val.ofInt (BitVec.ofNat 32 c).toInt
  | .w32 => .fin false c 0
  | .e2m1 => (mulVal (e2m1Val c) (e2m1Scale sc)).1
  | .qc4 => (mulVal (qc4Val c) (qc4Scale sup sc)).1
  | .ob8 => Val.ofInt ((c : Int) - z)
  | .ob4 => Val.ofInt ((c : Int) - z)
  | t => decodeFloat t c
/-- Value of a lane (R149). -/
def VReg.val (v : VReg) (i : Nat) : Val :=
  decodeElem v.tag (v.lane i).toNat (sideScale (v.side i)) (sideZero (v.side i)) v.sup

/-- The rounding mode in force (R151, R152). -/
def rmOf (x : W64) : Rm :=
  match x.toNat % 8 with
  | 1 => .rtz
  | 2 => .rdn
  | 3 => .rup
  | 4 => .rna
  | _ => .rne
def effRm (c : Ctx) (r : Rm) : Rm := if r = .dyn then rmOf c.rmode else r

/- Quantisation (R155) -/

/-- Distance of |x| = m × 2^e to two candidates is compared exactly: x rounded to an integer. -/
def roundToInt (rm : Rm) (neg : Bool) (m : Nat) (e : Int) : Int × Bool :=
  let (k, i) := roundAt rm neg m e 0 false
  (if neg then -(k : Int) else k, i)

/-- OB8 and OB4: u := R(x) + z clamped (R155). A clamped code sets SAT alone, also where x is not an integer
(assumption 95). -/
def quantOb (hi z : Nat) (rm : Rm) (x : Val) : Nat × BitVec 8 :=
  match x with
  | .nan _ _ => (0, fNV)
  | .inf n => (if n then 0 else hi, fSAT)
  | .fin n m e =>
    let (v, i) := roundToInt rm n m e
    let u := v + z
    if u < 0 then (0, fSAT)
    else if (hi : Int) < u then (hi, fSAT)
    else (u.toNat, if i then fNX else 0)

/-- E2M1: x / 2^(E − 127) rounded to the E2M1 values, codes 0 to 7 of magnitude 0 to 6 (R146). A magnitude that is above
6 after rounding saturates (R153, assumption 79); an inexact result that is below 1 after rounding sets UF. -/
def quantE2m1 (sc : Nat) (rm : Rm) (x : Val) : Nat × BitVec 8 :=
  if sc = 255 then (0, fNV)
  else match x with
    | .nan _ _ => (0, fNV)
    | .inf n => ((if n then 8 else 0) + 7, fSAT)
    | .fin n m e =>
      let e' := e - ((sc : Int) - 127)
      if m = 0 then (if n then 8 else 0, 0)
      else
        let top : Int := e' + (Nat.log2 m : Int)
        let q : Int := max (top - 1) (-1)
        let (k, i) := roundAt rm n m e' q false
        let halves := k * 2 ^ (q + 1).toNat
        let sg := if n then 8 else 0
        if 12 < halves then (sg + 7, fSAT)
        else
          let c := if halves ≤ 4 then halves else if halves = 6 then 5 else if halves = 8 then 6 else 7
          let tiny := top < 0 && !(top = -1 && (roundAt rm n m e' (top - 1) false).1 = 4)
          (sg + c, (if i then fNX else 0) ||| (if i && tiny then fUF else 0))

/-- |x − CB[i] × bs| for finite values, as an exact non-negative value m × 2^e. -/
def distTo (x bs : Val) (i : Nat) : Val :=
  match (addVal false x (mulVal (qc4Val i) bs).1.neg).1 with
  | .fin _ m e => .fin false m e
  | v => v

/-- The index nearest to x / bs, ties to the even index (R155). -/
def nearestQc4 (x bs : Val) : Nat :=
  (List.range 16).foldl (fun best i =>
    if ltVal (distTo x bs i) (distTo x bs best) then i
    else if eqVal (distTo x bs i) (distTo x bs best) && i % 2 = 0 then i else best) 0

def absVal : Val → Val
  | .nan _ g => .nan false g
  | .inf _ => .inf false
  | .fin _ m e => .fin false m e

def quantQc4 (sup : W32) (sc : Nat) (x : Val) : Nat × BitVec 8 :=
  match qc4Scale sup sc with
  | .fin bn bm be =>
    let bs := Val.fin bn bm be
    if bm = 0 then (0, fNV)
    else match x with
      | .nan _ _ => (7, fNV)
      | .inf n => (if n = bn then 15 else 0, fSAT)
      | .fin n m e =>
        let x := Val.fin n m e
        if ltVal (absVal bs) (absVal x) then (if n = bn then 15 else 0, fSAT)
        else
          let i := nearestQc4 x bs
          (i, if eqVal (distTo x bs i) (Val.zero false) then 0 else fNX)
  | _ => (0, fNV)

/-- Code of a value under a block's side fields (R155). -/
def quantise (t : Tag) (sc z : Nat) (sup : W32) (rm : Rm) (x : Val) : Nat × BitVec 8 :=
  match t with
  | .ob8 => quantOb 255 z rm x
  | .ob4 => quantOb 15 z rm x
  | .e2m1 => quantE2m1 sc rm x
  | _ => quantQc4 sup sc x

end Sys2Proof.Machine
end

