-- ==== Sys2Proof/Machine/Stream.lean ====
section
/-! DEFINITION. Stream descriptors (R122, R123), the translation pass of a command (R126, R171), and XCOPY, XCAST,
XRED, ARRIVE and KWATCH (R124 to R131, R284, R308, R357). -/
namespace Sys2Proof.Machine

/-- Little-endian field of `n` bytes at an offset of a block. -/
def fld (bs : List Nat) (off n : Nat) : Nat := ((bs.drop off).take n).foldr (fun b acc => b + 256 * acc) 0
def zeroFrom (bs : List Nat) (off n : Nat) : Bool := ((bs.drop off).take n).all (· == 0)

/-- Bytes of a block that a command reads once, within one page or window each 64 bytes (R114). -/
def readBlock (s : State) (w : Who) (op : MemOp) (a : W64) (n : Nat) : Res (List Nat) :=
  (access s w op a n).bind (fun r => .ok (r.1.map (readLoc s)))
/-- A longer run of bytes, `m` pieces of `n`. -/
def readRun (s : State) (w : Who) (op : MemOp) (n : Nat) : Nat → W64 → Res (List Nat)
  | 0, _ => .ok []
  | m + 1, a => (readBlock s w op a n).bind (fun b => (readRun s w op n m (a + u64 n)).bind (fun t => .ok (b ++ t)))

/-- A block that a command names is read once (R114): as it was kept, or as memory holds it now. -/
def blkKey (a : W64) (n : Nat) : Nat := a.toNat * 2 ^ 20 + n
def Cmd.block (k : Cmd) (s : State) (a : W64) (n : Nat) : Res (List Nat) :=
  match Tab.get? k.blk (blkKey a n) with
  | some bs => .ok bs
  | none => readBlock s k.who .engRead a n
/-- `m` blocks of `n` bytes that stand one after the other. -/
def Cmd.blocks (k : Cmd) (s : State) (n : Nat) : Nat → W64 → Res (List Nat)
  | 0, _ => .ok []
  | m + 1, a => (k.block s a n).bind (fun b => (k.blocks s n m (a + u64 n)).bind (fun t => .ok (b ++ t)))
/-- The command with what can be read of a block kept. -/
def Cmd.keep (k : Cmd) (s : State) (a : W64) (n : Nat) : Cmd :=
  match k.block s a n with
  | .ok bs => { k with blk := Tab.set k.blk (blkKey a n) bs }
  | _ => k
def Cmd.keeps (k : Cmd) (s : State) (n : Nat) : Nat → W64 → Cmd
  | 0, _ => k
  | m + 1, a => (k.keep s a n).keeps s n m (a + u64 n)

/- Stream descriptors -/

def tagOf (n : Nat) : Option Tag :=
  [Tag.i32, .w32, .fp32, .bf16, .fp16, .e4m3, .e5m2, .e2m1, .qc4, .ob8, .ob4].find? (fun t => t.bits.toNat == n)

def Sd.count' (d : Sd) : Nat := (d.dims.map (·.1)).foldl (· * ·) 1
/-- Stream bytes (R123). -/
def Sd.bytes (d : Sd) : Nat := d.count' * elemBits d.fmt / 8
/-- Bytes of one access to an element. -/
def Sd.size (d : Sd) : Nat := max 1 (elemBytes d.fmt)
def Sd.four (d : Sd) : Bool := elemBits d.fmt == 4
/-- Stream-byte offset of element j (R127). -/
def Sd.off (d : Sd) (j : Nat) : Nat := j * elemBits d.fmt / 8

def sdAddr : List (Nat × W64) → Nat → W64 → W64
  | [], _, a => a
  | (e, st) :: t, j, a => sdAddr t (j / e) (a + u64 (j % e) * st)
/-- Address of the byte of element j, and whether it is the high nibble (R123). -/
def Sd.elem (d : Sd) (j : Nat) : W64 × Bool :=
  match d.dims with
  | (e, st) :: t => if d.four then (sdAddr t (j / e) (d.base + u64 (j % e / 2)), j % e % 2 = 1) else (sdAddr ((e, st) :: t) j d.base, false)
  | [] => (d.base, false)

/-- The descriptor of a 256-byte block: DESC, then ALIGN (R122, R123). -/
def parseSd (a : W64) (bs : List Nat) : Res Sd :=
  let ndim := fld bs 9 1
  let dim (i : Nat) : Nat × W64 := (fld bs (0x20 + 16 * i) 8, u64 (fld bs (0x28 + 16 * i) 8))
  let flags := fld bs 10 2
  match tagOf (fld bs 8 1) with
  | none => .fail cDesc a 0
  | some t =>
    if ndim < 1 || 9 < ndim || 4 ≤ flags || !zeroFrom bs 12 4 || !zeroFrom bs 0xB0 80
        || !zeroFrom bs (0x20 + 16 * ndim) (16 * (9 - ndim)) then .fail cDesc a 0
    else
      let d : Sd := ⟨u64 (fld bs 0 8), t, flags, u64 (fld bs 16 8), u64 (fld bs 24 8), (List.range ndim).map dim⟩
      let d0 := dim 0
      if d.four && (d0.2 != 0 || d0.1 % 2 = 1) then .fail cDesc a 0
      else if (d.count' != 0 && d.base.toNat % d.size != 0) || d.dims.any (fun e => e.2.toNat % d.size != 0)
        then .fail cAlign a 0
      else .ok d
/-- A command reads its descriptor (R114); a misaligned one is DESC (R122). -/
def readSd (s : State) (k : Cmd) (a : W64) : Res Sd :=
  if a.toNat % 256 != 0 then .fail cDesc a 0 else (k.block s a 256).bind (parseSd a)
def keepSd (s : State) (k : Cmd) (a : W64) : Cmd := if a.toNat % 256 != 0 then k else k.keep s a 256
/-- A destination stream: at most 2^30 − 64 bytes (R122). -/
def readDst (s : State) (k : Cmd) (a : W64) : Res Sd :=
  (readSd s k a).bind (fun d => if 2 ^ 30 - 64 < d.bytes then .fail cDesc a 0 else .ok d)

/- The pass of R126 -/

/-- What a pass over pages came to: translations, the first fault (element, cause, address) but MTYPE, the first page
of a type that the access does not accept, whether a page is held. -/
structure Pass where
  xl    : Tab Leaf
  bad   : Option (Nat × Nat × W64)
  mtype : Option (Nat × W64)
  held  : Bool
def Pass.start : Pass := ⟨[], none, none, false⟩

/-- Checks an element's accesses; ECC is met only when data moves. -/
def passOps (s : State) (w : Who) (j : Nat) (p : Pass) : List (MemOp × W64 × Nat) → Pass
  | [] => p
  | (op, a, n) :: t =>
    passOps s w j (match accessChecks s w op a n with
      | .fail c b _ => if c = cMtype then { p with mtype := some (p.mtype.getD (j, b)) }
          else { p with bad := some (p.bad.getD (j, c, b)) }
      | .hold => { p with held := true }
      | .ok (_, none) => p
      | .ok (_, some l) => { p with xl := Tab.set p.xl (a.toNat / 65536) l }) t
/-- The pass over `count` elements from j: over every page, since one of a wrong type ends the command before it moves
a byte (R126). -/
def passAll (s : State) (w : Who) (f : Nat → List (MemOp × W64 × Nat)) : Nat → Nat → Pass → Pass
  | 0, _, p => p
  | c + 1, j, p => if p.held then p else passAll s w f c (j + 1) (passOps s w j p (f j))

/-- Locations of an element under the translation captured at the start (R171). -/
def useLoc (s : State) (k : Cmd) (op : MemOp) (a : W64) (n : Nat) : Res (List Loc) :=
  match winOfRange s k.who a n, Tab.get? k.xl (a.toNat / 65536) with
  | .global, some l =>
    let ls := (List.range n).map (fun i => l.loc (a.toNat + i))
    if l.held s (k.seq / 16) a n then .hold
    else if op.readsData && eccBad s ls then .fail cEcc a op.kind.code
    else .ok ls
  | _, _ => (access s k.who op a n).bind (fun r => .ok r.1)
/-- Bytes at an address under that translation. -/
def useBlock (s : State) (k : Cmd) (op : MemOp) (a : W64) (n : Nat) : Res (List Nat) :=
  (useLoc s k op a n).bind (fun ls => .ok (ls.map (readLoc s)))

/-- An engine write: in a replica its bytes are kept for the signature, `lv` as the command alone gives them, and its
secondary performs no write to global memory (R55, R56). -/
def engStore (s : State) (k : Cmd) (a : W64) (ls : List Loc) (n v lv : Nat) : State :=
  let rep := ((s.launch? k.lid).map (·.lpb.replica)).getD false
  let s1 := if rep && isGlobal a then s.logWrite k.uid k.id a (leList n lv) else s
  if k.sec && isGlobal a then s1 else writePiece s1 k.id ls v

/-- One nibble of a byte replaced. -/
def putNib (old : Nat) (hi : Bool) (v : Nat) : Nat := if hi then old % 16 + 16 * (v % 16) else old / 16 * 16 + v % 16
def getNib (b : Nat) (hi : Bool) : Nat := if hi then b / 16 else b % 16

/-- Value of an element read for a command. -/
def readElem (s : State) (k : Cmd) (d : Sd) (j : Nat) : Res Nat :=
  let (a, hi) := d.elem j
  (useLoc s k .engRead a d.size).bind (fun ls =>
    let v := readLocs s ls
    .ok (if d.four then getNib v hi else v))
/-- Writes an element of a destination. -/
def writeElem (s : State) (k : Cmd) (d : Sd) (j v : Nat) : Res State :=
  let (a, hi) := d.elem j
  (useLoc s k .engWrite a d.size).bind (fun ls =>
    .ok (if d.four then engStore s k a ls 1 (putNib (readLocs s ls) hi v) (putNib (loggedByte s k.uid k.id a) hi v)
      else engStore s k a ls d.size v v))

/- Overlaps (R124) -/

/-- Elements written so far that share a byte with element j; and whether a source element does. -/
def sameByte (x y : W64) (n : Nat) : Bool := (x - y).toNat < n || (y - x).toNat < n
def overlapsEarlier (d : Sd) (j : Nat) : Bool :=
  (List.range j).any (fun i => d.elem i = d.elem j || (!d.four && sameByte (d.elem i).1 (d.elem j).1 d.size))
def overlapsSource (src d : Sd) (j : Nat) : Bool :=
  (List.range src.count').any (fun i => sameByte (src.elem i).1 (d.elem j).1 d.size)
/-- Two dense descriptors whose elements lie at rising addresses without overlap. -/
def Sd.dense (d : Sd) : Bool :=
  (d.dims.foldl (fun (acc : Bool × Nat) e =>
    (acc.1 && (e.1 ≤ 1 || (acc.2 ≤ e.2.toNat && e.2.toNat < 2 ^ 60)), max acc.2 (e.1 * e.2.toNat))) (true, d.size)).1
    && (!d.four || (match d.dims with
      | (e, _) :: t => t.all (fun x => x.1 ≤ 1 || e / 2 ≤ x.2.toNat)
      | [] => true))
def Sd.span (d : Sd) : Nat := (d.dims.map (fun e => (e.1 - 1) * e.2.toNat)).foldl (· + ·) (d.size + match d.dims with
  | (e, _) :: _ => if d.four then e / 2 else 0
  | [] => 0)
def apart (x y : Sd) : Bool := x.base.toNat + x.span ≤ y.base.toNat || y.base.toNat + y.span ≤ x.base.toNat
/-- Whether an element's write may be left out by a free choice: it meets an earlier element of the destination,
or a source byte, so that either value may stay (R124). -/
def mayDrop (src d : Sd) (j : Nat) : Bool :=
  if d.dense && src.dense && apart src d then false
  else (!d.dense && overlapsEarlier d j) || (!(d.dense && src.dense && apart src d) && overlapsSource src d j)
def copyElem (s : State) (k : Cmd) (src d : Sd) (j v : Nat) : Res State :=
  if mayDrop src d j then
    let (c, s1) := s.pick 2
    if c = 0 then .ok s1 else writeElem s1 k d j v
  else writeElem s k d j v

/- Copies, casts, reductions -/

/-- Source element of element j of receiver r (R128); of a copy, j itself. -/
def castIndex (k : Cmd) (r j : Nat) : Nat :=
  match k.op with
  | .xcast _ _ _ _ _ _ _ _ =>
    let (common, _, os) := k.cast
    if j < common then j else common + r * os + (j - common)
  | _ => j
/-- Elements that the destination streams hold. -/
def Cmd.total (k : Cmd) : Nat := (k.dsts.head?.map Sd.count').getD 0

/-- Accesses of element j in the pass: source and destination of each receiver in turn. -/
def copyOps (k : Cmd) (src : Sd) (w : MemOp) (j : Nat) : List (MemOp × W64 × Nat) :=
  ((k.dsts.zipIdx).map (fun e =>
    [(MemOp.engRead, (src.elem (castIndex k e.2 j)).1, src.size), (w, (e.1.elem j).1, src.size)])).flatten

/-- First element whose stream bytes lie at or beyond an offset. -/
def elemAt (d : Sd) (off : Nat) : Nat := (8 * off + elemBits d.fmt - 1) / elemBits d.fmt

/-- The checks of a copy's start after its descriptors, then the pass (R125 to R127, R129). One that goes on after a
pre-emption reports what it had moved (R224). -/
def startMove (fw : Bool) (s : State) (home q : Nat) (k : Cmd) (src : Sd) (dsts : List Sd) (cast : Nat × Nat × Nat)
    (xred : Bool) : State :=
  let off := k.res.toNat
  let fail (c : Nat) : State := cmdFault fw s home q k c 0 (k.prog / 64)
  let d := (dsts.head?).getD src
  if off % 64 != 0 then fail cDesc
  else if dsts.any (fun e => e.fmt != src.fmt) then fail cTag
  else if xred && !(src.fmt == .fp32 || isInt src.fmt) then fail cTag
  else
    let lo := elemAt d (max k.prog off)
    let k1 : Cmd := { k with
      st := .started, src := some src, dsts := dsts, cast := cast, prog := max k.prog off, ragN := lo }
    let w := if xred then MemOp.xred else .engWrite
    let p := passAll s k.who (copyOps k1 src w) (d.count' - lo) lo Pass.start
    if p.held then s
    else match p.mtype, p.bad with
      | some _, _ => fail cMtype
      | none, none => s.modCmd home q k.id (fun _ => { k1 with xl := p.xl, blk := [] })
      | none, some (j, c, a) =>
        if fw && toFirmware s k c then s.modCmd home q k.id (fun k => { k with page := some a })
        else s.modCmd home q k.id (fun _ => { k1 with xl := p.xl, bad := some (j, c, a), blk := [] })

def parseCast (a : W64) (bs : List Nat) : Res (Nat × Nat × Nat × Nat × List W64) :=
  let n := fld bs 0 4
  if n < 1 || 16 < n || !zeroFrom bs 4 4 || !zeroFrom bs (0x20 + 8 * n) (8 * (16 - n)) || !zeroFrom bs 0xA0 96
    then .fail cDesc a 0
  else .ok (n, fld bs 8 8, fld bs 16 8, fld bs 24 8, (List.range n).map (fun i => u64 (fld bs (0x20 + 8 * i) 8)))
def readAllDst (s : State) (k : Cmd) : List W64 → Res (List Sd)
  | [] => .ok []
  | a :: t => (readDst s k a).bind (fun d => (readAllDst s k t).bind (fun ds => .ok (d :: ds)))

/-- What a cast block and its descriptors say (R128): DESC before anything else. -/
def castPlan (s : State) (k : Cmd) : Res (Sd × List Sd × (Nat × Nat × Nat)) :=
  (readSd s k k.ga).bind (fun src =>
    if k.gb.toNat % 64 != 0 then .fail cAlign k.gb 0
    else (k.blocks s 64 4 k.gb).bind (fun bs => (parseCast k.gb bs).bind (fun b =>
      let (n, common, slice, os, as) := b
      (readAllDst s k as).bind (fun ds =>
        if ds.any (fun d => d.count' != common + slice) || src.count' < common + (n - 1) * os + slice
          then .fail cDesc k.gb 0
        else .ok (src, ds, (common, slice, os))))))
def copyPlan (s : State) (k : Cmd) : Res (Sd × List Sd × (Nat × Nat × Nat)) :=
  (readSd s k k.ga).bind (fun src => (readDst s k k.gb).bind (fun d =>
    if src.fmt = d.fmt && src.count' != d.count' then .fail cDesc k.gb 0 else .ok (src, [d], (0, 0, 0))))
/-- The blocks that a copy names, read at its start. -/
def captureCpy (s : State) (k : Cmd) : Cmd :=
  match k.op with
  | .xcast _ _ _ _ _ _ _ _ =>
    if k.gb.toNat % 64 != 0 then keepSd s k k.ga
    else
      let k1 := (keepSd s k k.ga).keeps s 64 4 k.gb
      match (k1.blocks s 64 4 k.gb).bind (parseCast k.gb) with
      | .ok (_, _, _, _, as) => as.foldl (fun k a => keepSd s k a) k1
      | _ => k1
  | _ => keepSd s (keepSd s k k.ga) k.gb

def startCpy (fw : Bool) (s0 : State) (home q : Nat) (k0 : Cmd) : State :=
  let k := captureCpy s0 k0
  let s := s0.modCmd home q k.id (fun _ => k)
  let (plan, xred) := match k.op with
    | .xcast _ _ _ _ _ _ _ _ => (castPlan s k, false)
    | .xred _ _ _ _ _ _ _ _ => (copyPlan s k, true)
    | _ => (copyPlan s k, false)
  match plan with
  | .fail c a _ => cmdFault fw s home q k c a (k.prog / 64)
  | .hold => s
  | .ok (src, ds, cast) => startMove fw s home q k src ds cast xred

/-- XRED's new element (R129). -/
def redElem (t : Tag) (old v : Nat) : Nat × BitVec 8 :=
  if t = .fp32 then roundResult .fp32 .rne false (addVal false (decodeFloat .fp32 old) (decodeFloat .fp32 v)) false
  else ((old + v) % 2 ^ 32, 0)

/-- Whether the data of a 64-byte chunk of an XRED can all be read: it is checked before any is added (R129). -/
def chunkOk (s : State) (k : Cmd) (src d : Sd) (j n : Nat) : Res Unit :=
  (List.range n).foldl (fun acc i => acc.bind (fun _ =>
    (readElem s k src (j + i)).bind (fun _ => (useLoc s k .xred (d.elem (j + i)).1 d.size).bind (fun _ => .ok ())))) (.ok ())

/-- Whether element j begins a new naturally aligned 8-byte granule of a destination: each such granule is written at
once (R181). -/
def granuleCut (d : Sd) (j : Nat) : Bool :=
  j = 0 ||
    (let x := d.elem (j - 1)
     let y := d.elem j
     x.1.toNat / 8 != y.1.toNat / 8 || decide (y.1.toNat < x.1.toNat) || (y.1 == x.1 && (x.2 || !y.2)))
/-- First element from `j` on, at most `goal`, that begins a granule; a granule has at most 16 elements. -/
def wholeUp (d : Sd) (goal : Nat) : Nat → Nat → Nat
  | 0, j => j
  | fuel + 1, j => if goal ≤ j || granuleCut d j then min goal j else wholeUp d goal fuel (j + 1)
/-- Last element up to `j` that begins a granule. -/
def wholeDown (d : Sd) : Nat → Nat → Nat
  | 0, j => j
  | fuel + 1, j => if granuleCut d j then j else wholeDown d fuel (j - 1)
/-- Elements that a receiver has taken when the command stands at element j: it takes a granule whole (R181), but for
the one in which the command began (`ragN`). -/
def Cmd.taken (k : Cmd) (d : Sd) (goal j : Nat) : Nat := if j ≤ k.ragN then j else wholeUp d goal 16 j

/-- Elements of one receiver from j on: where a fault stopped it. -/
def moveOne (k : Cmd) (src d : Sd) (r : Nat) : Nat → State → Nat → State × Option (Nat × Nat × W64)
  | 0, s, _ => (s, none)
  | n + 1, s, j =>
    match (readElem s k src (castIndex k r j)).bind (fun v => copyElem s k src d j v) with
    | .ok s1 => moveOne k src d r n s1 (j + 1)
    | .hold => (s, none)
    | .fail c a _ => (s, some (j, c, a))
/-- The earlier of two faults, the first of two at one element. -/
def earlierFault (x y : Option (Nat × Nat × W64)) : Option (Nat × Nat × W64) :=
  match x, y with
  | some a, some b => if b.1 < a.1 then y else x
  | none, _ => y
  | _, none => x
/-- Every receiver goes on from element lo of the command to element hi. Where the destinations of two receivers of an XCAST
share bytes, the later receiver's write of a step stands: R124 speaks of the elements of one stream, R128 and R181 name no
order (DESIGN CHOICE, assumption 100). -/
def moveAll (k : Cmd) (src : Sd) (goal lo hi : Nat) : Nat → State → List Sd → State × Option (Nat × Nat × W64)
  | _, s, [] => (s, none)
  | r, s, d :: t =>
    let x := moveOne k src d r (k.taken d goal hi - k.taken d goal lo) s (k.taken d goal lo)
    let y := moveAll k src goal lo hi (r + 1) x.1 t
    (y.1, earlierFault x.2 y.2)
/-- Whether no home is held at all. -/
def noneHeld (s : State) : Bool := s.dies.all (fun e => e.2.resetAt.isNone) && s.links.all (fun e => e.2.window.isNone)
/-- Whether a held home keeps the command from passing element j, in any receiver (R14, R22). -/
def stepHeld (s : State) (k : Cmd) (src : Sd) (goal j : Nat) : Bool :=
  k.dsts.zipIdx.any (fun e =>
    let lo := k.taken e.1 goal j
    (List.range (k.taken e.1 goal (j + 1) - lo)).any (fun i =>
      let isHeld (op : MemOp) (a : W64) : Bool := (useLoc { s with ecc := [] } k op a src.size).held
      isHeld .engRead (src.elem (castIndex k e.2 (lo + i))).1 || isHeld .engWrite (e.1.elem (lo + i)).1))
/-- First element from j on that a held home keeps the command from passing. -/
def openTo (s : State) (k : Cmd) (src : Sd) (goal : Nat) : Nat → Nat → Nat
  | 0, j => j
  | n + 1, j => if stepHeld s k src goal j then j else openTo s k src goal n (j + 1)
/-- What moving came to: the state, the element at which the command stands, flags, the fault there. -/
structure Moved where
  s     : State
  j     : Nat
  fl    : BitVec 8
  fault : Option (Nat × W64)
/-- A copy or cast from element lo towards `want`: as far as no home is held; where an element cannot be read, also one that
completes a granule, every receiver takes those before it and the command ends there (R127). -/
def castTo (s : State) (k : Cmd) (src : Sd) (goal lo want : Nat) : Moved :=
  let upTo (g w : Nat) : Nat := if noneHeld s then max lo w else openTo s k src g (w - lo) lo
  let hi := upTo goal want
  let r := moveAll k src goal lo hi 0 s k.dsts
  match r.2 with
  | none => ⟨r.1, hi, 0, none⟩
  | some (f, c, a) =>
    let hi := upTo f f
    ⟨(moveAll k src f lo hi 0 s k.dsts).1, hi, 0, if f ≤ hi then some (c, a) else none⟩
/-- An XRED's elements from j on, chunk by chunk; where it stopped. -/
def redTo (k : Cmd) (src d : Sd) : Nat → State → Nat → BitVec 8 → Moved
  | 0, s, j, fl => ⟨s, j, fl, none⟩
  | n + 1, s, j, fl =>
    let pre : Res Unit := if j % 16 = 0 then chunkOk s k src d j (min 16 (n + 1)) else .ok ()
    match pre.bind (fun _ => (readElem s k src j).bind (fun v => (useLoc s k .xred (d.elem j).1 d.size).bind (fun ls =>
        .ok (ls, redElem d.fmt (readLocs s ls) v)))) with
    | .ok (ls, x, f) => redTo k src d n (engStore s k (d.elem j).1 ls d.size x x) (j + 1) (fl ||| f)
    | .hold => ⟨s, j, fl, none⟩
    | .fail c a _ => ⟨s, j, fl, some (c, a)⟩

/-- A started copy moves its stream bytes below `upto`, and completes when it has moved them all (R125, R127). -/
def moveCpy (s : State) (home q : Nat) (k : Cmd) (upto : Nat) : State :=
  match k.src, k.dsts with
  | some src, d :: _ =>
    let xred := match k.op with
      | .xred _ _ _ _ _ _ _ _ => true
      | _ => false
    let goal := match k.bad with
      | some (j, _, _) => if xred then elemAt d (d.off j / 64 * 64) else j
      | none => d.count'
    let lo := elemAt d k.prog
    let want := min goal (elemAt d (if xred && upto < d.bytes then upto / 64 * 64 else upto))
    let r := if xred then redTo k src d (want - lo) s lo 0 else castTo s k src goal lo want
    match r.fault with
    | some (c, a) => cmdFault false r.s home q { k with flags := k.flags ||| r.fl } c a (d.off r.j / 64)
    | none =>
      if goal ≤ r.j then
        match k.bad with
        | some (e, c, _) => completeWith r.s k ⟨statusWord c (d.off e / 64), k.pc, k.word⟩ r.fl
        | none => completeCmd r.s k 1 r.fl
      else r.s.modCmd home q k.id (fun k => { k with prog := max k.prog (d.off r.j), flags := k.flags ||| r.fl })
  | _, _ => s

/- ARRIVE and KWATCH -/

/-- ARRIVE's one atomic addition (R130, R284). -/
def runArrive (fw : Bool) (s : State) (home q : Nat) (k : Cmd) : State :=
  if k.ga.toNat % 8 != 0 then cmdFault fw s home q k cAlign k.ga 0
  else match access s k.who .counter k.ga 8 with
    | .fail c a _ => cmdFault fw s home q k c a 0
    | .hold => s
    | .ok (ls, _) => completeCmd (writeLocs s ls ((readLocs s ls + k.gb.toNat) % 2 ^ 64)) k 1 0
/-- A watch's read under the translation of its start; `ready` notes when (R131, R171, R308). -/
def readWatch (fw : Bool) (s : State) (home q : Nat) (k : Cmd) : State :=
  match useLoc s k .watch k.ga 8 with
  | .fail c a _ => cmdFault fw s home q k c a 0
  | .hold => s
  | .ok ls =>
    if k.gb.toNat ≤ readLocs s ls then completeCmd s k 1 0
    else s.modCmd home q k.id (fun _ => { k with st := .started, ready := s.now })
/-- A watch starts, or reads again. -/
def runKwatch (fw : Bool) (s : State) (home q : Nat) (k : Cmd) : State :=
  if k.st = .started then readWatch fw s home q k
  else if k.ga.toNat % 8 != 0 then cmdFault fw s home q k cAlign k.ga 0
  else match accessChecks s k.who .watch k.ga 8 with
    | .fail c a _ => cmdFault fw s home q k c a 0
    | .hold => s
    | .ok (_, leaf) =>
      readWatch fw s home q { k with xl := match leaf with
        | some l => [(k.ga.toNat / 65536, l)]
        | none => [] }

/-- An active watch reads again (R131). -/
def execKwatchRead (seq id : Nat) (s : State) : Out :=
  .next (match s.cmd? seq 5 id with
    | none => s
    | some k => if k.st = .started && k.page.isNone then runKwatch true s seq 5 k else s)

end Sys2Proof.Machine
end

