-- ==== Sys2Proof/Machine/Array.lean ====
section
/-! DEFINITION. The array: WLOAD, WSWAP, MMA, ASWAP, ACLR, ADRAIN, EDGE when they run (R83 to R100, R107, R108,
R110, R156, R157, R275 to R298, R322, R355), command boundaries (R81, R94) and the ragged counter. Rows are taken
at the boundary of their command, in start order. -/
namespace Sys2Proof.Machine

def tickOf (s : State) (arr : Nat) : Nat := (s.die (arr / 16)).tpc
def Frag.plane (f : Frag) (i : Nat) : Plane := if i = 0 then f.plane0 else f.plane1
def Frag.setPlane (f : Frag) (i : Nat) (p : Plane) : Frag := if i = 0 then { f with plane0 := p } else { f with plane1 := p }
/-- The plane that a queue's MMAs multiply by, and the one that its WLOADs write (R90, R92). -/
def Frag.usePlane (f : Frag) (q : Nat) : Nat := if f.dual then q else if f.active then 1 else 0
def Frag.loadPlane (f : Frag) (q : Nat) : Nat := if f.dual then q else if f.active then 0 else 1
def Frag.edgeOf (f : Frag) (q : Nat) : EdgeCfg := if f.dual && q = 1 then f.edge1 else f.edge0
def Frag.fragW (f : Frag) : Nat := 128 * f.w

/-- The array is free from now on. -/
def freeArray (s : State) (arr : Nat) : State := s.modFrag arr (fun f => { f with cur := none, busy := min f.busy s.now })
/-- A fault of an array command when it runs (R88); under the firmware setting it holds the array while the page is
served (R120). The token of an MMA that faults after some rows completes at once, and the array is free at once (DESIGN
CHOICE, assumption 80). -/
def arrFault (fw : Bool) (s : State) (arr q : Nat) (k : Cmd) (c : Nat) (a : W64) (prog : Nat) : State :=
  if fw && toFirmware s k c then
    (s.modCmd arr q k.id (fun k => { k with page := some a })).modFrag arr (fun f => { f with cur := some k.id })
  else cmdFault false (freeArray s arr) arr q k c a prog
/-- A command occupies the array until `busy`; its token is due at `ready`. -/
def occupy (s : State) (arr q : Nat) (k : Cmd) (busy ready : Nat) : State :=
  (s.modCmd arr q k.id (fun _ => { k with st := .started, ready := ready })).modFrag arr (fun f =>
    { f with cur := some k.id, busy := busy })

/-- The blocks that an array command names, read at its start (R114). -/
def captureArr (s : State) (k : Cmd) : Cmd :=
  match k.op with
  | .edge _ _ _ _ _ _ _ => if k.ga.toNat % 64 != 0 then k else k.keep s k.ga 64
  | .wload _ _ _ _ _ _ _ _ => keepSd s k k.ga
  | .adrain _ _ _ _ _ _ _ _ => keepSd s k k.ga
  | .mma _ _ _ _ _ _ _ _ _ _ cin _ => if cin then k else keepSd s k k.ga
  | _ => k

/- Weights -/

/-- GEOM of a weight format (R83). -/
def geomOf : Tag → Option Nat
  | .bf16 => some 0
  | .fp16 => some 0
  | .e4m3 => some 1
  | .e5m2 => some 1
  | .ob8 => some 1
  | .e2m1 => some 2
  | .qc4 => some 2
  | .ob4 => some 2
  | _ => none
/-- Formats with a side table (R91). -/
def sided : Tag → Bool
  | .e2m1 => true
  | .qc4 => true
  | .ob8 => true
  | .ob4 => true
  | _ => false

/-- The K × N codes of a weight stream, n fastest (R90). -/
def readCodes (s : State) (k : Cmd) (d : Sd) (n : Nat) : Nat → Nat → Res (Store Nat)
  | 0, _ => .ok []
  | c + 1, j =>
    (readElem s k d j).bind (fun v => (readCodes s k d n c (j + 1)).bind (fun t =>
      .ok (if v = 0 then t else (j / n * 2048 + j % n, v) :: t)))

/-- Side bytes and super-scales of a table (R91). -/
def readSide (s : State) (k : Cmd) (t : Tag) (side : W64) (nb : Nat) : Res (Store Byte × Store W32) :=
  (readRun s k.who .engRead 1 nb side).bind (fun bs =>
    let st : Store Byte := (bs.zipIdx).filterMap (fun e => if e.1 = 0 then none else some (e.2, BitVec.ofNat 8 e.1))
    if t = .ob4 && bs.any (fun b => 16 ≤ b) then .fail cDesc side 0
    else if t != .qc4 then .ok (st, [])
    else
      let ns := (nb + 255) / 256
      (readRun s k.who .engRead 4 ns (side + u64 ((nb + 3) / 4 * 4))).bind (fun ss =>
        .ok (st, (List.range ns).filterMap (fun i =>
          let v := u32 (fld ss (4 * i) 4)
          if v = 0 then none else some (i, v)))))

/-- The plane that a WLOAD's command names, after the checks of R90 and R355. -/
def loadOf (s : State) (arr : Nat) (k : Cmd) : Res Plane :=
  let f := s.frag arr
  let g := k.gb.toNat
  let kk := g % 65536
  let n := g / 65536 % 65536
  if g / 2 ^ 32 != 0 then .fail cDesc 0 0
  else (readSd s k k.ga).bind (fun d =>
    match geomOf d.fmt with
    | none => .fail cTag 0 0
    | some ge =>
      if ge != f.geom then .fail cMode 0 0
      else if kk < 1 || f.kfrag < kk || n < 1 || f.nmax < n || (sided d.fmt && kk % 64 != 0) then .fail cShape 0 0
      else if d.count' != kk * n || (sided d.fmt && (d.side = 0 || d.side.toNat % 64 != 0)) then .fail cDesc 0 0
      else (readCodes s k d n (kk * n) 0).bind (fun w =>
        if sided d.fmt then
          (readSide s k d.fmt d.side (n * (kk / 64))).bind (fun x =>
            .ok ⟨false, d.fmt, kk, n, w, x.1, x.2, k.id, false⟩)
        else .ok ⟨false, d.fmt, kk, n, w, [], [], k.id, false⟩))

def startWload (fw : Bool) (s : State) (arr q : Nat) (k : Cmd) : State :=
  let f := s.frag arr
  let tgt := f.loadPlane q
  let s1 := s.modFrag arr (fun f => f.setPlane tgt { f.plane tgt with valid := false, by' := k.id })
  match loadOf s1 arr k with
  | .fail c a _ => arrFault fw s1 arr q k c a 0
  | .hold => s
  | .ok p =>
    let t0 := if f.dual then max s.now (if q = 0 then f.exit0 else f.exit1) else s.now
    let t := t0 + p.k * tickOf s arr
    occupy (s1.modFrag arr (·.setPlane tgt p)) arr q { k with cast := (tgt, 0, 0) } t (t + tickOf s arr)

/- The product (R156, R157) -/

def posZero : Val → Val
  | .fin _ 0 _ => .fin false 0 0
  | v => v
def Plane.code (p : Plane) (k n : Nat) : Nat := Store.get 0 p.w (k * 2048 + n)
def Plane.sideByte (p : Plane) (n g : Nat) : Nat := (Store.get 0 p.side (n * (p.k / 64) + g)).toNat
/-- w[k] without its block scale. -/
def Plane.val (p : Plane) (k n : Nat) : Val :=
  let c := p.code k n
  match p.fmt with
  | .e2m1 => e2m1Val c
  | .qc4 => qc4Val c
  | .ob8 => Val.ofInt ((c : Int) - p.sideByte n (k / 64))
  | .ob4 => Val.ofInt ((c : Int) - p.sideByte n (k / 64))
  | t => decodeFloat t c
def Plane.scale (p : Plane) (n g : Nat) : Option Val :=
  match p.fmt with
  | .e2m1 => some (e2m1Scale (p.sideByte n g))
  | .qc4 => some (qc4Scale (Store.get 0 p.sup ((n * (p.k / 64) + g) / 256)) (p.sideByte n g))
  | _ => none

def fp32Of (v : Val) : Val := posZero (decodeFloat .fp32 (roundResult .fp32 .rne false (v, 0) false).1)
/-- S[g] over the rows of a block. A signalling operand sets NV (R145); an ∞ − ∞ or 0 × ∞ of the array sets no flag
of its own: R341 names those for the vector unit and R93 for the array only ANV and SAT (log 94). -/
def blockSum (p : Plane) (n k0 : Nat) (acts : List Val) : Val × BitVec 8 :=
  (acts.zipIdx).foldl (fun acc e =>
    let w := p.val (k0 + e.2) n
    ((addVal false acc.1 (mulVal e.1 w).1).1, acc.2 ||| nvIf (e.1.isSig || w.isSig))) (Val.zero false, 0)
def blockTerm (p : Plane) (n g : Nat) (acts : List Val) : Val × BitVec 8 :=
  let sg := blockSum p n (64 * g) ((acts.drop (64 * g)).take 64)
  match p.scale n g with
  | some bs => (fp32Of (mulVal (posZero sg.1) bs).1, sg.2)
  | none => (fp32Of (posZero sg.1), sg.2)
/-- P of one output column in float mode: blocks in ascending order. A block at or beyond the plane's K is an exact
zero, its scale irrelevant, and so adds nothing (R90, R156). -/
def orderedSum (p : Plane) (n : Nat) (acts : List Val) : Val × BitVec 8 :=
  (List.range ((p.k + 63) / 64)).foldl (fun acc g =>
    let t := blockTerm p n g acts
    (fp32Of (addVal false acc.1 t.1).1, acc.2 ||| t.2)) (Val.zero false, 0)
/-- P in integer mode. -/
def valInt : Val → Int
  | .fin n m e => let v : Int := (m * 2 ^ e.toNat : Nat); if n then -v else v
  | _ => 0
def intSum (p : Plane) (n : Nat) (acts : List Val) : Int :=
  (acts.zipIdx).foldl (fun acc e => acc + valInt e.1 * valInt (p.val e.2 n)) 0
def isOb (t : Tag) : Bool := t == .ob8 || t == .ob4
def codeOf (v : Val) : W32 := u32 (roundResult .fp32 .rne false (posZero v, 0) false).1

/- The edge unit (R100) -/

/-- min(max(y, LO), HI) for values that are not NaN. -/
def clampVal (lo hi y : Val) : Val := (pickNum false (pickNum true y lo).1 hi).1
/-- The edge unit's value of a column, with its flags. `RNE32(x)` of integer mode sets no flag, since R100 names those of
scale, bias and Convert alone; 0 × ∞ and ∞ − ∞ of scale and bias set NV, as they do in the vector unit (both DESIGN CHOICE,
assumption 103). -/
def edgeOut (e : EdgeCfg) (int : Bool) (x : W32) (n : Nat) : Nat × BitVec 8 :=
  if int && e.scale.isNone && e.bias.isNone && e.act = 0 && e.ofmt = .i32 then (x.toNat, 0)
  else
    let y0 := if int then rne32Val (Val.ofInt x.toInt) else bits32 x
    let sc := ((e.scale.bind (fun t => Tab.get? t n)).map bits32).getD (Val.fin false 1 0)
    let bi := ((e.bias.bind (fun t => Tab.get? t n)).map bits32).getD (Val.zero false)
    let (c1, f1) := roundResult .fp32 .rne false (mulVal y0 sc) false
    let (c2, f2) := roundResult .fp32 .rne false (addVal false (decodeFloat .fp32 c1) bi) false
    let y := decodeFloat .fp32 c2
    let y' := if y.isNan then y
      else if e.act = 1 then (if ltVal (Val.zero false) y then y else Val.zero false)
      else if e.act = 2 then clampVal (bits32 e.lo) (bits32 e.hi) y
      else y
    let (c, f) := convert e.ofmt e.rm (e.sat || e.ofmt = .i32) y'
    (c, f1 ||| f2 ||| f)

/- MMA -/

def mmaFlags (k : Cmd) : Bool × Bool × Bool × Bool :=
  match k.op with
  | .mma _ _ _ _ _ _ _ _ chn rag cin set => (chn, rag, cin, set)
  | _ => (false, false, false, false)

/-- The open chain output that a command uses (R107, R293): one without a marker ahead of it. -/
def chainOut (s : State) (arr : Nat) (k : Cmd) : Option Chain :=
  s.chains.find? (fun c => c.src == arr && match c.marker with
    | none => true
    | some l => l.contains k.id)
/-- The tick at which row m of an MMA enters (R94): `ready` is the tick after the last row that may enter by now; a
row from a chain enters when it is taken. -/
def entryTick (s : State) (arr : Nat) (k : Cmd) (m : Nat) : Nat :=
  if (mmaFlags k).2.2.1 then s.now else k.ready - (k.cast.2.1 - m) * tickOf s arr
/-- A chain row sets out for the edge unit, which it leaves K_frag + W + 12 cycles after its activation row entered
(R94). -/
def sendOut (s : State) (arr : Nat) (k : Cmd) (c : Chain) (m : Nat) (row : Tag × List Nat) : State :=
  let f := s.frag arr
  let r : FlightRow := ⟨k.id, entryTick s arr k m + (f.kfrag + f.fragW + 12) * tickOf s arr, row⟩
  { s with chains := s.chains.map (fun x => if x = c then { x with flight := x.flight ++ [r] } else x) }

/-- What one row of an MMA came to. -/
inductive RowRes where
  | done (s : State) (fl : BitVec 8)
  | fail (cause : Nat) (addr : W64)
  | wait
  | ended (s : State)

/-- The values of an activation row (R93): OB8 as d = u − z with the zero points of its side table. -/
def readAct (s : State) (k : Cmd) (d : Sd) (m kk : Nat) : Nat → Nat → Res (List Val)
  | 0, _ => .ok []
  | c + 1, i =>
    (readElem s k d (m * kk + i)).bind (fun v =>
      (if d.fmt = .ob8 then
        (useBlock s k .engRead (d.side + u64 (m * ((kk + 63) / 64) + i / 64)) 1).bind (fun z =>
          .ok (Val.ofInt ((v : Int) - fld z 0 1)))
      else .ok (decodeFloat d.fmt v)).bind (fun x =>
        (readAct s k d m kk c (i + 1)).bind (fun t => .ok (x :: t))))

/-- One output row to the working half (R93): flags ANV, SAT and NV. -/
def bankCol (s : State) (arr r : Nat) (p : Plane) (int set : Bool) (acts : List Val) (n : Nat)
    (fl : BitVec 8) : State × BitVec 8 :=
  let key := accKey s arr false r n
  let old : W32 := Store.get 0 s.accs key
  if int then
    let v := intSum p n acts + (if set then 0 else old.toInt)
    let c : Int := if v < -2 ^ 31 then -2 ^ 31 else if 2 ^ 31 - 1 < v then 2 ^ 31 - 1 else v
    ({ s with accs := Store.put 0 s.accs key (BitVec.ofInt 32 c) }, fl ||| (if c = v then 0 else fSAT))
  else
    let pv := orderedSum p n acts
    let x := codeOf (if set then pv.1 else (addVal false (bits32 old) pv.1).1)
    ({ s with accs := Store.put 0 s.accs key x },
      fl ||| pv.2 ||| nvIf (!set && (bits32 old).isSig) ||| (if x.toNat / 2 ^ 23 % 256 = 255 then fANV else 0))
def bankRow (arr r : Nat) (p : Plane) (int set : Bool) (acts : List Val) :
    Nat → Nat → State → BitVec 8 → State × BitVec 8
  | 0, _, s, fl => (s, fl)
  | c + 1, n, s, fl =>
    let (s1, fl1) := bankCol s arr r p int set acts n fl
    bankRow arr r p int set acts c (n + 1) s1 fl1
/-- Words of a row that an accumulation reads and that hold an uncorrectable error (R178). -/
def rowBad (s : State) (arr r n : Nat) : Bool :=
  !s.ecc.isEmpty && (List.range n).any (fun i => eccBad s [Loc.acc (accKey s arr false r i) 0])
/-- ECC words that a written row covers in full become correct (R178): its part in each south-edge pane stands in one
piece. -/
def rowFix (s : State) (arr r n : Nat) : State :=
  let cp := colsPer (s.frag arr).geom
  (List.range ((n + cp - 1) / cp)).foldl (fun s i =>
    eccFix s (Loc.acc (accKey s arr false r (i * cp)) 0).eccKey (4 * min cp (n - i * cp))) s

/-- One output row as a chain row after the edge unit of its queue. -/
def chainRow (e : EdgeCfg) (p : Plane) (int : Bool) (acts : List Val) : List (Nat × BitVec 8) :=
  (List.range p.n).map (fun n =>
    if int then edgeOut e int (BitVec.ofInt 32 (intSum p n acts)) n
    else
      let pv := orderedSum p n acts
      let (c, fl) := edgeOut e int (codeOf pv.1) n
      (c, fl ||| pv.2))

/-- The row `m` of activations multiplied and sent on. -/
def sendRow (s : State) (arr q : Nat) (k : Cmd) (t : Tag) (m : Nat) (acts : List Val) : RowRes :=
  let f := s.frag arr
  let p := f.plane k.cast.1
  let (chn, _, _, set) := mmaFlags k
  let int := isOb t && isOb p.fmt
  let base := k.gb.toNat % 65536
  if p.bad then .fail cEcc 0
  else if chn then
    match chainOut s arr k with
    | none => .fail cShape 0
    | some c =>
      let row := chainRow (f.edgeOf q) p int acts
      .done (sendOut s arr k c m ((f.edgeOf q).ofmt, row.map (·.1))) (row.foldl (fun a x => a ||| x.2) 0)
  else if f.arows ≤ base + m then .fail cShape 0
  else if !set && rowBad s arr (base + m) p.n then .fail cEcc 0
  else
    let (s1, fl) := bankRow arr (base + m) p int set acts p.n 0 s 0
    .done (rowFix s1 arr (base + m) p.n) fl

/-- A row taken from the chain input (R107): the oldest, then the end marker once all is consumed. A row that makes
the MMA fail with TAG or SHAPE stays in the FIFO (DESIGN CHOICE, assumption 80). -/
def cinRow (s : State) (arr q : Nat) (k : Cmd) : RowRes :=
  match s.chains.find? (fun c => c.dst == arr) with
  | none => .wait
  | some c => match c.fifo with
    | (t, row) :: rest =>
      let kk := ((s.frag arr).plane k.cast.1).k
      if !(t == .bf16 || t == .fp16 || t == .e4m3 || t == .e5m2) then .fail cTag 0
      else if row.length != kk then .fail cShape 0
      else
        let s1 := { s with chains := s.chains.map (fun x => if x = c then { x with fifo := rest } else x) }
        sendRow s1 arr q k t k.prog (row.map (decodeFloat t))
    | [] =>
      if c.flight.isEmpty && c.rrows.isEmpty && c.marker = some [] then
        .ended { s with chains := s.chains.filter (fun x => x != c) }
      else .wait

def mmaRow (s : State) (arr q : Nat) (k : Cmd) : RowRes :=
  let (_, _, cin, _) := mmaFlags k
  if cin then cinRow s arr q k
  else match k.src with
    | none => .wait
    | some d =>
      if k.cast.2.2 ≤ k.prog then .fail cShape 0
      else
        let kk := ((s.frag arr).plane k.cast.1).k
        match (match k.bad with
          | some (j, c, a) => if j / kk = k.prog then Res.fail c a 0 else readAct s k d k.prog kk kk 0
          | none => readAct s k d k.prog kk kk 0) with
        | .fail c a _ => .fail c a
        | .hold => .wait
        | .ok acts => sendRow s arr q k d.fmt k.prog acts

/-- Rows up to `hi`; a fault ends the command with the rows done (R88). -/
def runRows (arr q id hi : Nat) : Nat → State → State
  | 0, s => s
  | n + 1, s =>
    match s.cmd? arr q id with
    | none => s
    | some k =>
      if hi ≤ k.prog then s
      else match mmaRow s arr q k with
        | .wait => s
        | .fail c a => arrFault false s arr q k c a k.prog
        | .ended s1 => s1.modCmd arr q id (fun k =>
            { k with fin := some (Done.ofStatus (statusWord 0 (2 ^ 23 + k.prog))) })
        | .done s1 fl => runRows arr q id hi n (s1.modCmd arr q id (fun k =>
            { k with prog := k.prog + 1, flags := k.flags ||| fl }))

/-- Whether an MMA has taken its last row. -/
def mmaOver (k : Cmd) : Bool :=
  let (_, rag, cin, _) := mmaFlags k
  if cin then k.fin.isSome || k.cast.2.1 ≤ k.prog
  else if rag then k.ragC && k.ragN ≤ k.prog
  else k.cast.2.2 ≤ k.prog
/-- The command boundary of an MMA whose last row has entered: when its results are written, its rows leave and its
token completes (R94). One that the end marker ends has its boundary there. Its last row has left the last PE row
K_frag + W cycles after the boundary (R92 and R94 name no cycle: DESIGN CHOICE, assumption 80). ASWAP, ACLR and ADRAIN
wait for the last row of an MMA.chain too, which writes no bank row (R95 is silent: DESIGN CHOICE, assumption 80). -/
def passMma (s : State) (arr q : Nat) (k : Cmd) : State :=
  let f := s.frag arr
  let tpc := tickOf s arr
  let (chn, _, cin, _) := mmaFlags k
  let b := if cin && k.fin.isSome then max f.busy s.now else f.busy
  let last := b + (f.kfrag + f.fragW + 6) * tpc
  let k1 : Cmd := { k with
    st := .passed
    ready := b + (f.kfrag + f.fragW + (if chn then 12 else 8)) * tpc
    fin := some (if cin then k.fin.getD (Done.ofStatus (statusWord 0 k.prog)) else Done.ok) }
  (s.modCmd arr q k.id (fun _ => k1)).modFrag arr (fun f =>
    let e := b + (f.kfrag + f.fragW) * tpc
    { f with cur := none, wdone := max f.wdone last,
             exit0 := if q = 0 then max f.exit0 e else f.exit0, exit1 := if q = 1 then max f.exit1 e else f.exit1 })
/-- An MMA takes its rows below `hi`, one from a chain input in a cycle, and passes its boundary after the last. -/
def advanceMma (s : State) (arr q : Nat) (k : Cmd) (hi : Nat) : State :=
  let free (s : State) : Bool := (s.frag arr).busy ≤ s.now
  if (mmaFlags k).2.2.1 then
    if !free s then s
    else if mmaOver k then passMma s arr q k
    else
      let s1 := runRows arr q k.id hi 1 s
      match s1.cmd? arr q k.id with
      | none => s1
      | some k1 =>
        if k1.fin.isSome then passMma s1 arr q k1
        else if k.prog < k1.prog then s1.modFrag arr (fun f => { f with busy := s1.now + tickOf s1 arr })
        else s1
  else
    let s1 := runRows arr q k.id hi (hi - k.prog + 1) s
    match s1.cmd? arr q k.id with
    | none => s1
    | some k1 => if mmaOver k1 && free s1 then passMma s1 arr q k1 else s1

/-- Accesses of element j of an activation stream of K elements a row: itself, and with the first of 64 the zero point
of its group (R91). -/
def actOps (d : Sd) (kk j : Nat) : List (MemOp × W64 × Nat) :=
  (.engRead, (d.elem j).1, d.size) ::
    (if d.fmt = .ob8 && j % kk % 64 = 0 then
      [(.engRead, d.side + u64 (j / kk * ((kk + 63) / 64) + j % kk / 64), 1)] else [])
/-- The checks of R322 in their order, before any row: a ragged counter before the pages of the activations. A page that
control-die firmware may map is waited for (`fw`), else the rows before it run (R88, R120). -/
def mmaPlan (fw : Bool) (s : State) (arr q : Nat) (k : Cmd) : Res Cmd :=
  let f := s.frag arr
  let g := k.gb.toNat
  let base := g % 65536
  let lim := g / 65536 % 65536
  let (chn, rag, cin, _) := mmaFlags k
  let pi := f.usePlane q
  let p := f.plane pi
  let late (k1 : Cmd) : Res Cmd :=
    if chn && (chainOut s arr k).isNone then .fail cShape 0 0
    else if cin && (lim < 1 || f.arows < base + lim) then .fail cShape 0 0
    else .ok k1
  if g / 2 ^ 32 != 0 || (lim != 0 && !cin) then .fail cDesc 0 0
  else if !p.valid then .fail cShape 0 0
  else if cin then late { k with cast := (pi, lim, lim) }
  else (readSd s k k.ga).bind (fun d =>
    let kk := (d.dims.head?.map (·.1)).getD 0
    let m := ((d.dims.drop 1).map (·.1)).foldl (· * ·) 1
    if !(d.fmt == .bf16 || d.fmt == .fp16 || d.fmt == .e4m3 || d.fmt == .e5m2 || d.fmt == .ob8) then .fail cTag 0 0
    else if kk != p.k then .fail cShape 0 0
    else if d.fmt = .ob8 && (d.side = 0 || d.side.toNat % 64 != 0) then .fail cDesc 0 0
    else if rag && (d.count = 0 || d.count.toNat % 8 != 0) then .fail cDesc 0 0
    else
      let p0 := if rag then passOps s k.who 0 Pass.start [(.watch, d.count, 8)] else Pass.start
      let pass := if p0.mtype.isSome || p0.bad.isSome then p0 else passAll s k.who (actOps d kk) d.count' 0 p0
      let k1 : Cmd := { k with src := some d, xl := pass.xl, bad := pass.bad }
      let go : Res Cmd := (if rag then useBlock s k1 .watch d.count 8 else .ok []).bind (fun cb =>
        let c := fld cb 0 8
        let n := c % 2 ^ 63
        late { k1 with cast := (pi, if rag then min n 16 else m, m), ragN := n, ragC := rag && 2 ^ 63 ≤ c })
      if pass.held then .hold
      else match pass.mtype, pass.bad with
        | some (_, a), _ => .fail cMtype a 0
        | none, some (_, c, a) => if p0.bad.isSome || (fw && toFirmware s k c) then .fail c a 0 else go
        | none, none => go)

/-- Ticks of an MMA's rows up to its target, and of the wait before the next counter read (R110). -/
def ragTicks (k : Cmd) (tpc : Nat) : Nat :=
  let rows := k.cast.2.1 - k.prog
  (rows + if rows < 16 && !k.ragC then 16 else 0) * tpc

def startMma (fw : Bool) (s : State) (arr q : Nat) (k : Cmd) : State :=
  let f := s.frag arr
  let tpc := tickOf s arr
  let (_, rag, cin, _) := mmaFlags k
  match mmaPlan fw s arr q k with
  | .hold => s
  | .fail c a _ =>
    if fw && toFirmware s k c then arrFault fw s arr q k c a k.prog
    else arrFault fw (s.modFrag arr (fun f => { f with lastQ := some (q = 1) })) arr q k c a k.prog
  | .ok k1 =>
    let t0 := s.now + if f.dual && f.lastQ == some (decide (q = 0)) then (f.kfrag + 16) * tpc else 0
    let int := isOb (f.plane k1.cast.1).fmt && ((k1.src.map (fun d => isOb d.fmt)).getD false)
    let s1 := s.modFrag arr (fun f => { f with
      lastQ := some (q = 1), int0 := if q = 0 then int else f.int0, int1 := if q = 1 then int else f.int1 })
    let t := t0 + (if cin then 0 else if rag then ragTicks k1 tpc else (k1.cast.2.2 - k.prog) * tpc)
    occupy s1 arr q { k1 with prog := k.prog, blk := [] } t (t0 + (k1.cast.2.1 - k.prog) * tpc)

/-- The ragged counter is read again, and its rows up to the next read become due (R110, R111). -/
def rereadCounter (s : State) (arr q : Nat) (k : Cmd) : State :=
  match k.src with
  | none => s
  | some d => match useBlock s k .watch d.count 8 with
    | .fail c a _ => arrFault false s arr q k c a k.prog
    | .hold => s
    | .ok cb =>
      let c := fld cb 0 8
      let n := c % 2 ^ 63
      let k1 : Cmd := { k with
        ragN := n, ragC := decide (2 ^ 63 ≤ c), cast := (k.cast.1, max k.prog (min n (k.prog + 16)), k.cast.2.2) }
      occupy s arr q k1 (s.now + ragTicks k1 (tickOf s arr)) (s.now + (k1.cast.2.1 - k1.prog) * tickOf s arr)
def execRaggedCounterRead (seq : Nat) (s0 : State) : Out :=
  let s := s0.land
  let f := s.frag seq
  .next (if edgeStuck s seq then s else match f.cur with
    | none => s
    | some id =>
      let go (q : Nat) (k : Cmd) : State :=
        let (_, rag, _, _) := mmaFlags k
        if !rag || k.st != .started || s.now < f.busy || s.stops k then s
        else
          let s1 := runRows seq q id k.cast.2.1 (k.cast.2.1 - k.prog + 1) s
          match s1.cmd? seq q id with
          | none => s1
          | some k1 => if mmaOver k1 || k1.prog < k1.cast.2.1 then s1 else rereadCounter s1 seq q k1
      match s.cmd? seq 0 id, s.cmd? seq 1 id with
      | some k, _ => go 0 k
      | none, some k => go 1 k
      | none, none => s)

/- ADRAIN -/

/-- The checks of R279 in their order. A command that has not started counts its progress in rows (R224). -/
def drainPlan (fw : Bool) (s : State) (arr q : Nat) (k : Cmd) : Res (Option Cmd) :=
  let f := s.frag arr
  let g := k.gb.toNat
  let base := g % 65536
  let rows := g / 65536 % 65536
  if g / 2 ^ 32 != 0 then .fail cDesc 0 0
  else (readDst s k k.ga).bind (fun d =>
    if rows = 0 then .ok none
    else if f.arows < base + rows then .fail cShape 0 0
    else if d.count' != rows * f.nmax then .fail cDesc 0 0
    else if d.fmt != (f.edgeOf q).ofmt then .fail cTag 0 0
    else
      let lo := k.prog * f.nmax
      let pass := passAll s k.who (fun j => [(.engWrite, (d.elem j).1, d.size)]) (d.count' - lo) lo Pass.start
      let int := if q = 0 then f.int0 else f.int1
      let k1 : Cmd := { k with
        src := none, dsts := [d], xl := pass.xl, bad := pass.bad, blk := [], prog := d.off lo,
        cast := (if int then 1 else 0, base, rows) }
      if pass.held then .hold
      else match pass.mtype, pass.bad with
        | some (_, a), _ => .fail cMtype a 0
        | none, some (_, c, a) => if fw && toFirmware s k c then .fail c a 0 else .ok (some k1)
        | none, none => .ok (some k1))
/-- Stream bytes of a row of an ADRAIN: its elements are of the edge unit's format (R279). -/
def drainRowBytes (s : State) (arr q : Nat) : Nat := (s.frag arr).nmax * elemBits ((s.frag arr).edgeOf q).ofmt / 8
/-- First tick after the last bank write (R95, R275, R279). -/
def settled (s : State) (arr : Nat) : Nat := let w := (s.frag arr).wdone; if s.now ≤ w then w + tickOf s arr else s.now
/-- The same for a started one, by its descriptor. -/
def Cmd.rowBytes (k : Cmd) : Nat := ((k.dsts.head?).map (fun d => d.off d.count' / k.cast.2.2)).getD 0
def startAdrain (fw : Bool) (s : State) (arr q : Nat) (k : Cmd) : State :=
  match drainPlan fw s arr q k with
  | .hold => s
  | .fail c a _ => arrFault fw s arr q k c a (k.prog * drainRowBytes s arr q / 64)
  | .ok none => completeCmd (freeArray s arr) k 1 0
  | .ok (some k1) =>
    let t := settled s arr + (k1.cast.2.2 - k.prog) * tickOf s arr
    occupy s arr q k1 t t
def drainTo (arr q : Nat) (k : Cmd) (d : Sd) : Nat → State → Nat → BitVec 8 → State × Nat × BitVec 8 →
    State × Nat × BitVec 8 × Option (Nat × W64)
  | 0, s, j, fl, _ => (s, j, fl, none)
  | n + 1, s, j, fl, mark =>
    let mark' := if granuleCut d j then (s, j, fl) else mark
    let f := s.frag arr
    let key := accKey s arr true (k.cast.2.1 + j / f.nmax) (j % f.nmax)
    if eccBad s [Loc.acc key 0] then (s, j, fl, some (cEcc, 0))
    else
      let (c, f1) := edgeOut (f.edgeOf q) (k.cast.1 = 1) (Store.get 0 s.accs key) (j % f.nmax)
      let (drop, s0) := if !d.dense && overlapsEarlier d j then s.pick 2 else (1, s)
      match (if drop = 0 then .ok s0 else writeElem s0 k d j c) with
      | .ok s1 => drainTo arr q k d n s1 (j + 1) (fl ||| f1) mark'
      | .hold => (mark'.1, mark'.2.1, mark'.2.2, none)
      | .fail c a _ => (s, j, fl, some (c, a))
/-- Rows of an ADRAIN that have entered the edge unit at a tick (R94). -/
def rowsDrained (s : State) (arr : Nat) (k : Cmd) (t : Nat) : Nat :=
  k.cast.2.2 - ((s.frag arr).busy - t + tickOf s arr - 1) / tickOf s arr
/-- Rows of an ADRAIN up to `upto` stream bytes, in whole granules (R181) unless it stops there (`cut`, R224); its
boundary follows the last (R94). -/
def moveAdrain (cut : Bool) (s : State) (arr q : Nat) (k : Cmd) (upto : Nat) : State :=
  match k.dsts with
  | [] => s
  | d :: _ =>
    let goal := match k.bad with
      | some (j, _, _) => j
      | none => d.count'
    let lo := elemAt d k.prog
    let want := min (min goal (rowsDrained s arr k s.now * (s.frag arr).nmax)) (elemAt d upto)
    let hi := if cut || goal ≤ want then want else wholeDown d 16 want
    let (s1, j, fl, bad) := drainTo arr q k d (hi - lo) s lo 0 (s, lo, 0)
    let k1 : Cmd := { k with flags := k.flags ||| fl, prog := max k.prog (d.off j) }
    match bad with
    | some (c, a) => arrFault false s1 arr q k1 c a (d.off j / 64)
    | none =>
      if goal ≤ j && (s1.frag arr).busy ≤ s1.now then
        let fin : Done := match k.bad with
          | some (e, c, _) => ⟨statusWord c (d.off e / 64), k.pc, k.word⟩
          | none => Done.ok
        (s1.modCmd arr q k.id (fun _ => { k1 with st := .passed, fin := some fin })).modFrag arr (fun f =>
          { f with cur := none })
      else s1.modCmd arr q k.id (fun _ => k1)

/- ACLR, ASWAP, WSWAP, EDGE -/

def startBrief (s : State) (arr q : Nat) (k : Cmd) (t : Nat) : State := occupy s arr q k (t + tickOf s arr) t

def startAclr (s : State) (arr q : Nat) (k : Cmd) : State :=
  let g := k.gb.toNat
  let rows := g / 65536 % 65536
  if g / 2 ^ 32 != 0 then arrFault false s arr q k cDesc 0 0
  else if rows != 0 && (s.frag arr).arows < g % 65536 + rows then arrFault false s arr q k cShape 0 0
  else startBrief s arr q k (if rows = 0 then s.now else settled s arr)
/-- Rows of the working half become +0 (R96). -/
def clearRows (s : State) (arr base rows : Nat) : State :=
  let f := s.frag arr
  let cp := colsPer f.geom
  (List.range f.w).foldl (fun s i =>
    let k := accKey s arr false base (i * cp)
    eccFix { s with accs := Store.clear s.accs k (k + rows * cp) } (Loc.acc k 0).eccKey (4 * rows * cp)) s

/-- The south-edge panes' halves exchanged (R95). -/
def swapHalves (s : State) (arr : Nat) : State :=
  let f := s.frag arr
  (List.range f.w).foldl (fun s i =>
    let p := arr + 4 * (f.h - 1) + i
    { s with accVis := Store.put 0 s.accVis p (1 - Store.get 0 s.accVis p) }) s

/-- The arrays that an edge block names (R99). -/
def edgeArray (s : State) (k : Cmd) (n : Nat) (a : W64) : Res (Option (Store W32)) :=
  if a = 0 then .ok none
  else if a.toNat % 4 != 0 then .fail cAlign a 0
  else (readRun s k.who .engRead 4 n a).bind (fun bs =>
    .ok (some ((List.range n).map (fun i => (i, u32 (fld bs (4 * i) 4))))))
/-- RMODE.RM of the context that issued a command, as it stands or as it stood at its EXIT (R151). -/
def issuerMode (s : State) (k : Cmd) : Rm :=
  rmOf (match s.ctx? k.cid with
    | some c => c.rmode
    | none => ((s.unit? k.uid).map (fun u => Store.get 0 u.rmodes k.cid)).getD 0)
/-- The configuration of an edge block (R99, R297); RM 7 takes the issuing context's RMODE. -/
def edgePlan (s : State) (arr : Nat) (k : Cmd) : Res EdgeCfg :=
  if k.ga.toNat % 64 != 0 then .fail cAlign k.ga 0
  else (k.block s k.ga 64).bind (fun b =>
    let act := fld b 16 1
    let rmb := fld b 18 1
    let rm := rmb % 8
    let lo := u32 (fld b 20 4)
    let hi := u32 (fld b 24 4)
    let ofmt := tagOf (fld b 17 1)
    let okF := match ofmt with
      | some t => t == .fp32 || t == .bf16 || t == .fp16 || t == .e4m3 || t == .e5m2 || t == .i32
      | none => false
    let clampBad := act = 2 && ((bits32 lo).isNan || (bits32 hi).isNan || ltVal (bits32 hi) (bits32 lo))
    if 3 ≤ act || !okF || 16 ≤ rmb || rm = 5 || rm = 6 || fld b 19 1 != 0 || !zeroFrom b 28 36 || clampBad
      then .fail cDesc 0 0
    else
      let n := (s.frag arr).nmax
      (edgeArray s k n (u64 (fld b 0 8))).bind (fun sc => (edgeArray s k n (u64 (fld b 8 8))).bind (fun bi =>
        let mode := if rm = 7 then issuerMode s k else rmOf (u64 rm)
        .ok ⟨sc, bi, act, ofmt.getD .fp32, mode, 8 ≤ rmb, lo, hi⟩)))
def startEdge (fw : Bool) (s : State) (arr q : Nat) (k : Cmd) : State :=
  match edgePlan s arr k with
  | .hold => s
  | .fail c a _ => arrFault fw s arr q k c a 0
  | .ok e =>
    startBrief (s.modFrag arr (fun f => if f.dual && q = 1 then { f with edge1 := e } else { f with edge0 := e }))
      arr q k (s.now + tickOf s arr)

/-- What a brief command does when it takes effect; its token completes then (R94). -/
def briefEffect (s : State) (arr : Nat) (k : Cmd) : State :=
  let s1 := match k.op with
    | .aclr _ _ _ _ _ _ _ => clearRows s arr (k.gb.toNat % 65536) (k.gb.toNat / 65536 % 65536)
    | .aswap _ _ _ _ _ _ => swapHalves s arr
    | .wswap _ _ _ _ _ _ => s.modFrag arr (fun f => { f with active := !f.active })
    | _ => s
  completeCmd s1 k 1 0
def isBrief (k : Cmd) : Bool :=
  match k.op with
  | .aclr _ _ _ _ _ _ _ => true
  | .aswap _ _ _ _ _ _ => true
  | .wswap _ _ _ _ _ _ => true
  | .edge _ _ _ _ _ _ _ => true
  | _ => false

/- Boundaries -/

/-- An array command starts (R81, R87), with the blocks it names read (R114). -/
def startArray (fw : Bool) (s0 : State) (arr q : Nat) (k0 : Cmd) : State :=
  let k := captureArr s0 k0
  let s := s0.modCmd arr q k.id (fun _ => k)
  match k.op with
  | .wload _ _ _ _ _ _ _ _ => startWload fw s arr q k
  | .mma _ _ _ _ _ _ _ _ _ _ _ _ => startMma fw s arr q k
  | .adrain _ _ _ _ _ _ _ _ => startAdrain fw s arr q k
  | .edge _ _ _ _ _ _ _ => startEdge fw s arr q k
  | .aclr _ _ _ _ _ _ _ => startAclr s arr q k
  | .aswap _ _ _ _ _ _ => startBrief s arr q k (settled s arr)
  | _ => startBrief s arr q k (let f := s.frag arr; max s.now (max f.exit0 f.exit1))

/-- A command past its boundary completes: a WLOAD's plane is valid from then on, unless another load of it has started
since (R88). -/
def finishPassed (s : State) (arr : Nat) (k : Cmd) : State :=
  let s1 := match k.op with
    | .wload _ _ _ _ _ _ _ _ => s.modFrag arr (fun f =>
        let p := f.plane k.cast.1
        if p.by' = k.id then f.setPlane k.cast.1 { p with valid := true } else f)
    | _ => s
  completeWith s1 k (k.fin.getD Done.ok) 0
/-- A token is due: its tick has come and no row of it is still on its way (R94, R108). -/
def tokenDue (s : State) (k : Cmd) : Bool := k.st == .passed && decide (k.ready ≤ s.now) && inFlight s k.id == 0
/-- Every command whose token is due completes. -/
def completeDue (arr : Nat) : Nat → State → State
  | 0, s => s
  | n + 1, s =>
    match (s.queue arr 0 ++ s.queue arr 1).find? (tokenDue s) with
    | none => s
    | some k => completeDue arr n (finishPassed s arr k)
def due (s : State) (arr : Nat) : State := completeDue arr 32 s.land

/-- A head waits for the array commands that an earlier holder of the lease issued and that have not run (R73). -/
def tenureWaits (f : Frag) (k : Cmd) : Bool :=
  (f.queue 0 ++ f.queue 1).any (fun j => j.cid != k.cid && decide (j.id < k.id) && j.st != .passed)
def nextArray (f : Frag) (q : Nat) : Option Cmd := (nextStart q (f.queue q)).filter (fun k => !tenureWaits f k)
/-- The head of AFG starts if it can, else that of ABG (R81); a faulted input ends a head instead (R117). -/
def startNextArray (s : State) (arr : Nat) : State :=
  let f := s.frag arr
  if f.cur.isSome || s.now < f.busy || edgeStuck s arr then s
  else
    let go (q : Nat) (k : Cmd) : State :=
      if s.stops k then s else
      match inputFault k.ins with
      | some d => inheritFault s k d
      | none => startArray true s arr q k
    match nextArray f 0, nextArray f 1 with
    | some k, _ => go 0 k
    | none, some k => go 1 k
    | none, none => s

/-- Array commands that a stop of their unit ends after the next row (R224). -/
def cutShort (k : Cmd) : Bool :=
  match k.op with
  | .mma _ _ _ _ _ _ _ _ _ _ _ _ => k.st == .started
  | .adrain _ _ _ _ _ _ _ _ => k.st == .started
  | _ => false
/-- A command reaches its boundary. -/
def passBoundary (s : State) (arr q : Nat) (k : Cmd) : State :=
  if k.page.isSome || (s.stops k && cutShort k) then s
  else if k.st = .queued then startArray true s arr q k
  else if isBrief k then briefEffect s arr k
  else match k.op with
    | .mma _ _ _ _ _ _ _ _ _ _ _ _ => advanceMma s arr q k k.cast.2.1
    | .adrain _ _ _ _ _ _ _ _ => moveAdrain false s arr q k (2 ^ 30)
    | _ => (s.modCmd arr q k.id (fun k => { k with st := .passed, fin := some Done.ok })).modFrag arr (fun f =>
        { f with cur := none })
def arrayStep (s : State) (arr : Nat) : State :=
  let s1 := due s arr
  let f := s1.frag arr
  if s1.now < f.busy || edgeStuck s1 arr then s1
  else match f.cur with
    | none => startNextArray s1 arr
    | some id =>
      let s2 := match s1.cmd? arr 0 id, s1.cmd? arr 1 id with
        | some k, _ => passBoundary s1 arr 0 k
        | none, some k => passBoundary s1 arr 1 k
        | none, none => freeArray s1 arr
      startNextArray (due s2 arr) arr
def execCommandBoundary (seq : Nat) (s : State) : Out := .next (arrayStep s seq)

/-- Rows of an MMA that have entered by now (R94). -/
def rowsEntered (s : State) (arr : Nat) (k : Cmd) : Nat :=
  k.cast.2.1 - (k.ready - s.now + tickOf s arr - 1) / tickOf s arr
/-- An array command's token completes, or one that runs goes on to `upto`. -/
def arrayGoOn (s : State) (arr q : Nat) (k : Cmd) (upto : Nat) : State :=
  if k.st = .passed then (if tokenDue s k then finishPassed s arr k else s)
  else if k.st = .queued || k.page.isSome || (s.stops k && cutShort k) || edgeStuck s arr then s
  else if isBrief k then (if k.ready ≤ s.now then briefEffect s arr k else s)
  else match k.op with
    | .mma _ _ _ _ _ _ _ _ _ _ _ _ =>
      advanceMma s arr q k (min upto (if (mmaFlags k).2.2.1 then k.cast.2.1 else rowsEntered s arr k))
    | .adrain _ _ _ _ _ _ _ _ => moveAdrain false s arr q k upto
    | _ => s
def arrayCompletion (s : State) (arr q : Nat) (k : Cmd) (upto : Nat) : State :=
  let t := s.land
  arrayGoOn t arr q ((t.cmd? arr q k.id).getD k) upto

end Sys2Proof.Machine
end

