-- ==== Sys2Proof/Machine/Fabric.lean ====
section
/-! DEFINITION. The fabric: rights and places of remote accesses (R193, R194, R199), what this package does as a
target, owner and recipient (R196 to R202, R375, R376), what it does as a requester (R198, R200, R203, R379),
XSEND and XFETCH when they start and send (R195 to R197, R359). -/
namespace Sys2Proof.Machine

/- Packets -/

/-- A packet to every member of a group is addressed to 4096 + the group id: a switch replicates it (R201). -/
def groupDst (t : Target) : Nat := if t.kind = 2 then 4096 + t.pkg else t.pkg

def removeFirst {α : Type} (p : α → Bool) : List α → List α
  | [] => []
  | x :: t => if p x then t else x :: removeFirst p t

/-- The control die's link to a gateway retrains (R22). -/
def ctlAway (s : State) (gate : Nat) : Bool := windowOpen s (s.link gate 15)
/-- A packet is ready to leave: the control die's reach their gateway over its link (R16, R22). -/
def OutPkt.ready (s : State) (o : OutPkt) : Bool := o.pkt.hdr.srcDie < 12 || !ctlAway s o.gate
/-- The fragment that a port serves next: the first one after the last with a packet ready, the gateway itself as the
seventeenth (R82). -/
def Port.nextFrag (s : State) (p : Port) : Option Nat :=
  ((List.range 17).map (fun i => (p.turn + 1 + i) % 17)).find? (fun f => p.q.any (fun o => o.frag == f && o.ready s))
/-- The packet at the head of a port's buffer. -/
def Port.head? (s : State) (p : Port) : Option OutPkt :=
  (p.nextFrag s).bind (fun f => p.q.find? (fun o => o.frag == f && o.ready s))
def Port.pop (s : State) (p : Port) : Port :=
  match p.nextFrag s with
  | none => p
  | some f => { p with q := removeFirst (fun o => o.frag == f && o.ready s) p.q, turn := f, at' := s.now }
/-- What a packet becomes on its way: a switch sends each member of a group its own (R191, R201). An owner needs no
entry for the group; without one the packet goes to the switch as it is. -/
def State.copies (s : State) (o : OutPkt) : List OutPkt :=
  if o.pkt.dst < 4096 then [{ o with since := s.now }]
  else match Tab.get? s.fab.groups (o.pkt.dst - 4096) with
    | none => [{ o with since := s.now }]
    | some g => g.members.map (fun m => { o with pkt := { o.pkt with dst := m }, since := s.now })
/-- A port sends its next packet, while the package's ports are up (R82, R205). -/
def servePort (s : State) (die p : Nat) : State :=
  match (s.port die p).head? s with
  | none => s
  | some o =>
    if !s.fab.portsUp || (s.die die).resetAt.isSome then s
    else
      let s1 := s.modPort die p (fun x => x.pop s)
      { s1 with fab := { s1.fab with out := s1.fab.out ++ s.copies o } }
/-- A packet of this package reaches another one. -/
def deliverPkt (s : State) (idx : Nat) : State :=
  match s.fab.out[idx]? with
  | none => s
  | some o => if o.pkt.dst = s.pkg then s else { s with fab := { s.fab with out := s.fab.out.eraseIdx idx } }

/-- The header of a packet that a die of this package sends in a command of another party. -/
def State.answerHdr (s : State) (rdie : Nat) (h : FHdr) : FHdr :=
  { h with srcPkg := s.pkg, srcDie := rdie, inc := (s.die rdie).inc, seq := 0 }
/-- A reply to the requester of a packet, sent by a die of this package. -/
def State.reply (s : State) (rdie : Nat) (h : FHdr) (m : FMsg) : State := s.send ⟨h.reqPkg, s.answerHdr rdie h, m⟩
/-- A responder whose order has ORD keeps to the port of its first packet (R190). -/
def Responder.fixPort (r : Responder) (s : State) : Responder :=
  if r.order.ord then { r with port := some (r.port.getD (choosePort s r.rdie)) } else r
/-- A packet of a responder: a unit, END, a negative reply. -/
def Responder.send (r : Responder) (s : State) (dst : Nat) (m : FMsg) : State :=
  s.queuePkt ⟨⟨dst, s.answerHdr r.rdie r.hdr, m⟩, r.rdie, 16, r.port, 0, 0⟩

/-- Whether an arriving packet can stand for a step at a gateway: one from another package, or one of this package's
own that is on its way to it and leaves the fabric. Nothing arrives while the ports are down (R205), the gateway's die
is in reset (R14), or at a gateway of no die (R16). What the control die (15) takes arrives at a compute die, and goes on over
the link between them (R22). -/
def State.arrive? (s : State) (gw : Nat) (h : FHdr) (m : FMsg) : Option State :=
  if !s.fab.portsUp || (s.die (gateOf s gw)).resetAt.isSome || (12 ≤ gw && gw != 15)
      || (gw = 15 && ctlAway s (gateOf s 15)) then none
  else if h.srcPkg != s.pkg then some s
  else
    let mine (o : OutPkt) : Bool := o.pkt.hdr == h && o.pkt.msg == m && o.pkt.dst == s.pkg
    if s.fab.out.any mine then some { s with fab := { s.fab with out := removeFirst mine s.fab.out } } else none

/-- Key of what a gateway keeps about a die of another package; the control die is 15 on either side. -/
def incKey (gw pkg die : Nat) : Nat := (gw * 4096 + pkg) * 16 + die
/-- A gateway has a packet outstanding to a die, or has one from it (R204): of its commands, of the fetches it serves
or receives, or in its ports or on the way. -/
def outstandingWith (s : State) (gw pkg die : Nat) : Bool :=
  let at' (p : Nat) (d : Option Nat) : Bool := p == pkg && (d.isNone || d == some die)
  s.fab.cmds.any (fun f => f.die == gw && ((f.endOff.isNone && f.owner.any (fun o => at' o.1 o.2))
      || f.peers.any (fun p => at' p.pkg p.die && !p.lost)))
    || s.fab.resps.any (fun r => r.rdie == gw && r.hdr.reqPkg == pkg && r.hdr.reqDie == die)
    || s.fab.recips.any (fun r => r.die == gw && !r.reported && r.hdr.reqPkg == pkg && r.hdr.reqDie == die)
    || ((s.fab.ports.flatMap (fun p => p.2.q)) ++ s.fab.out).any (fun o => o.gate == gw && o.pkt.dst == pkg
      && (o.pkt.hdr.reqPkg != pkg || o.pkt.hdr.reqDie == die))
/-- Incarnations (R204): another value than the recorded one is stale, unless the gateway has nothing outstanding with
the die and the value comes after the recorded one (assumption 83). -/
def staleSrc (s : State) (gw : Nat) (h : FHdr) : Bool :=
  if h.srcPkg = s.pkg then h.inc != (s.die h.srcDie).inc
  else match Tab.get? s.fab.peerInc (incKey gw h.srcPkg h.srcDie) with
    | none => false
    | some i => i != h.inc && (outstandingWith s gw h.srcPkg h.srcDie || (i + 256 - h.inc) % 256 < 128)
def noteInc (s : State) (gw : Nat) (h : FHdr) : State :=
  if h.srcPkg = s.pkg then s
  else { s with fab := { s.fab with peerInc := Tab.set s.fab.peerInc (incKey gw h.srcPkg h.srcDie) h.inc } }
def countStale (s : State) : State := s.count (fun e => { e with stale := satInc e.stale })

/-- A packet taken in: none where none arrives; else whether its sender is stale, and the state after it. -/
def State.intake (s : State) (gw : Nat) (h : FHdr) (m : FMsg) : Option (Bool × State) :=
  match s.arrive? gw h m with
  | none => none
  | some s1 => if staleSrc s1 gw h then some (true, countStale s1) else some (false, noteInc s1 gw h)
/-- The same at the gateway of a compute die, whose engines perform the packet (R16, R190). -/
def State.intakeAt (s : State) (gw : Nat) (h : FHdr) (m : FMsg) : Option (Bool × State) :=
  if gw < 12 then s.intake gw h m else none
/-- Where a reply is taken in: at any gateway of the package (R190), by the incarnations that the requester's keeps while
its die is not in reset (R204, assumption 83). -/
def replyGate (s : State) (h : FHdr) : Nat :=
  if h.reqDie < 12 && (s.die h.reqDie).resetAt.isNone then h.reqDie else gateOf s 15
/-- What a stale unit or reply is answered with, unless its requester's die is the one that was reset (R204). -/
def answerStale (s : State) (rdie : Nat) (h : FHdr) (off : Nat) : State :=
  if h.reqPkg = h.srcPkg && h.reqDie = h.srcDie then s else s.reply rdie h (.nak nStale off false)

/-- The last 64 sequence numbers applied for a sending die (R207). A packet that is sent again may come to another
gateway: what any of them applied counts. -/
def appliedBefore (s : State) (h : FHdr) : Bool :=
  s.fab.applied.any (fun e => e.1 % 2 ^ 16 == incKey 0 h.srcPkg h.srcDie && e.2.contains h.seq)
def noteApplied (s : State) (gw : Nat) (h : FHdr) : State :=
  let k := incKey gw h.srcPkg h.srcDie
  let l := (Tab.get? s.fab.applied k).getD [] ++ [h.seq]
  { s with fab := { s.fab with applied := Tab.set s.fab.applied k (l.drop (l.length - 64)) } }

/-- The request that two headers belong to. -/
def sameReq (a b : FHdr) : Bool :=
  a.reqPkg == b.reqPkg && a.reqDie == b.reqDie && a.reqCtx == b.reqCtx && a.cmd == b.cmd
/-- An earlier unit of a command with ORD is still to come (R202). -/
def ordEarly (s : State) (h : FHdr) (off : Nat) : Option Nat → Bool
  | none => false
  | some start => ((s.fab.ords.find? (fun r => sameReq r.hdr h)).map (·.next)).getD start < off
/-- A unit of it became visible, or was refused. -/
def ordNote (s : State) (gw : Nat) (h : FHdr) (off : Nat) : Option Nat → State
  | none => s
  | some _ =>
    let r := (s.fab.ords.find? (fun r => sameReq r.hdr h)).getD ⟨h, gw, 0⟩
    { s with fab := { s.fab with
        ords := s.fab.ords.filter (fun r => !sameReq r.hdr h) ++ [{ r with next := max r.next (off + 64) }] } }

/- Rights and places -/

/-- RD, LAND, WR, ADD as bits of RIGHTS (R194). -/
abbrev rRd : Nat := 0
abbrev rLand : Nat := 1
abbrev rWr : Nat := 2
abbrev rAdd : Nat := 3

def FatEnt.grants (e : FatEnt) (h : FHdr) (bit : Nat) : Bool :=
  e.rights.getLsbD 7 && e.rights.getLsbD bit && (e.rpkg == 0xFFFF || e.rpkg == h.reqPkg) && e.rctx == h.reqCtx
/-- The entry of the lowest index that covers a byte of memory with a right. -/
def fatFor (s : State) (h : FHdr) (bit a : Nat) : Option FatEnt :=
  (s.fab.fat.map (·.2)).find? (fun e => e.grants h bit && !e.rights.getLsbD 4 && e.base.toNat ≤ a && a < e.base.toNat + e.length.toNat)
/-- Whether a pane is held by a unit or companion of a context. -/
def paneCtx (s : State) (pane : Nat) : Option W16 :=
  (s.unit? (Store.get 0 s.occ pane)).bind (fun u => (s.ent? u.lid).map (·.job))
def spFor (s : State) (h : FHdr) (bit pane : Nat) : Bool :=
  s.fab.fat.any (fun e => e.2.grants h bit && e.2.rights.getLsbD 4 && e.2.base.toNat % 256 == pane && paneCtx s pane == some e.2.lctx)

/-- One byte of a target: XLATE or PERM is what a refusal is made of (R199). -/
def remoteByte (s : State) (rdie : Nat) (h : FHdr) (bit : Nat) (op : MemOp) (t : Target) (a : Nat) : Res Loc :=
  if t.kind = 1 then
    let pane := 16 * t.die + t.pane
    if 2 ^ 24 ≤ a then .fail cXlate (u64 a) 0
    else if !spFor s h bit pane then .fail cPerm (u64 a) 0
    else if heldBy s rdie t.die then .hold
    else
      let l := Loc.mem (spKey pane a) 0 0
      if op.readsData && eccBad s [l] then .fail cPerm (u64 a) 0 else .ok l
  else match fatFor s h bit a with
    | none => .fail cPerm (u64 a) 0
    | some e => match access s (Who.ctl e.lctx rdie) op (u64 a) 1 with
      | .ok (l :: _, _) => .ok l
      | .ok ([], _) => .fail cPerm (u64 a) 0
      | .hold => .hold
      | .fail c _ _ => .fail (if c = cXlate then cXlate else cPerm) (u64 a) 0
/-- The bytes [off, off + n) of a target. -/
def remoteLocs (s : State) (rdie : Nat) (h : FHdr) (bit : Nat) (op : MemOp) (t : Target) : Nat → Nat → Res (List Loc)
  | _, 0 => .ok []
  | off, n + 1 =>
    (remoteByte s rdie h bit op t (t.addr.toNat + off)).bind (fun l =>
      (remoteLocs s rdie h bit op t (off + 1) n).bind (fun ls => .ok (l :: ls)))

/-- A member with an equal group entry takes a group's packet (R201). -/
def groupOk (s : State) (t : Target) (h : FHdr) : Bool :=
  t.kind != 2 || match Tab.get? s.fab.groups t.pkg with
    | some g => g.ver == h.ver && g.members.contains s.pkg
    | none => false

def ofBytes : List Byte → Nat
  | [] => 0
  | b :: t => b.toNat + 256 * ofBytes t
def dstCode (c : Nat) : Nat := if c = cXlate then nDstXlate else nDstPerm
def srcCode (c : Nat) : Nat := if c = cXlate then nSrcXlate else nSrcPerm

/- Targets of XSEND (R196) -/

/-- A write unit: all of its bytes are checked before any is written. -/
def execFabricWrite (rdie : Nat) (hdr : FHdr) (t : Target) (u : UnitAt) (data : List Byte) (s : State) : Out :=
  .next (if ordEarly s hdr u.off u.ord then s else match s.intakeAt rdie hdr (.write t u.off data u.ord) with
    | none => s
    | some (true, s1) => s1
    | some (false, s1) =>
      if !groupOk s1 t hdr then (ordNote s1 rdie hdr u.off u.ord).reply rdie hdr (.nak nDstPerm u.off false)
      else match remoteLocs s1 rdie hdr rWr .engWrite t u.off data.length with
        | .hold => s
        | .fail c _ _ => (ordNote s1 rdie hdr u.off u.ord).reply rdie hdr (.nak (dstCode c) u.off false)
        | .ok ls => (writeLocs (ordNote s1 rdie hdr u.off u.ord) ls (ofBytes data)).reply rdie hdr (.ack u.off))

/-- Adds 4-byte elements one after another; FP32 to nearest even, I32 modulo 2^32. -/
def addElems (fp : Bool) : Nat → State → List Loc → List Byte → State
  | 0, s, _, _ => s
  | n + 1, s, ls, bs =>
    if ls.isEmpty then s
    else
      let here := ls.take 4
      let x := (redElem (if fp then .fp32 else .i32) (readLocs s here) (ofBytes (bs.take 4))).1
      addElems fp n (writeLocs s here x) (ls.drop 4) (bs.drop 4)
def execFabricAdd (rdie : Nat) (hdr : FHdr) (t : Target) (u : UnitAt) (fp : Bool) (data : List Byte) (s : State) : Out :=
  .next (if ordEarly s hdr u.off u.ord then s else match s.intakeAt rdie hdr (.add t u.off fp data u.ord) with
    | none => s
    | some (true, s1) => s1
    | some (false, s1) =>
      if appliedBefore s1 hdr then s1.reply rdie hdr (.ack u.off)
      else if !groupOk s1 t hdr then (ordNote s1 rdie hdr u.off u.ord).reply rdie hdr (.nak nDstPerm u.off false)
      else match remoteLocs s1 rdie hdr rAdd .counter t u.off data.length with
        | .hold => s
        | .fail c _ _ => (ordNote s1 rdie hdr u.off u.ord).reply rdie hdr (.nak (dstCode c) u.off false)
        | .ok ls => (addElems fp data.length (noteApplied (ordNote s1 rdie hdr u.off u.ord) rdie hdr) ls data).reply rdie hdr
            (.ack u.off))

/- Owner (R198, R200, R375) -/

/-- Units from the responder's offset below `upto`, in ascending order; END after the last, a negative reply at a fault.
With ORD every packet leaves by the port of the first (R190). -/
def respond (upto : Nat) : Nat → State → Responder → State
  | 0, s, r => { s with fab := { s.fab with resps := s.fab.resps ++ [r] } }
  | n + 1, s, r =>
    if r.order.length ≤ r.pos then (r.fixPort s).send s r.hdr.reqPkg (.endUnits r.order.length)
    else if upto ≤ r.pos then { s with fab := { s.fab with resps := s.fab.resps ++ [r] } }
    else
      let m := min 64 (r.order.length - r.pos)
      match remoteLocs s r.rdie r.hdr rRd .engRead r.order.source r.pos m with
      | .hold => { s with fab := { s.fab with resps := s.fab.resps ++ [r] } }
      | .fail c _ _ => (r.fixPort s).send s r.hdr.reqPkg (.nak (srcCode c) r.pos true)
      | .ok ls =>
        let data := ls.map (fun l => BitVec.ofNat 8 (readLoc s l))
        let r1 := r.fixPort s
        respond upto n (r1.send s (groupDst r.order.recip) (.unit r.order r.pos data)) { r1 with pos := r.pos + m }

/-- The order arrives, or its responder sends on up to `upto`. -/
def execFetchOrder (rdie : Nat) (hdr : FHdr) (o : FetchOrder) (upto : Nat) (s : State) : Out :=
  .next (match s.fab.resps.find? (fun r => r.hdr == hdr) with
    | some r =>
      if (s.die r.rdie).resetAt.isSome then s
      else respond upto (o.length / 64 + 2)
        { s with fab := { s.fab with resps := s.fab.resps.filter (fun x => x.hdr != hdr) } } r
    | none => match s.intakeAt rdie hdr (.order o) with
      | none => s
      | some (true, s1) => s1
      | some (false, s1) =>
        if appliedBefore s1 hdr then s1
        else respond upto (o.length / 64 + 2) (noteApplied s1 rdie hdr) ⟨rdie, hdr, o, o.resume, none⟩)

def execFabricStop (hdr : FHdr) (s : State) : Out :=
  let gw := ((s.fab.resps.find? (fun r => sameReq r.hdr hdr)).map (·.rdie)).getD 15
  .next (match s.intake gw hdr .stop with
    | none => s
    | some (true, s1) => answerStale s1 gw hdr 0
    | some (false, s1) => match s1.fab.resps.find? (fun r => sameReq r.hdr hdr) with
      | none => s1
      | some r =>
        (r.fixPort s1).send { s1 with fab := { s1.fab with resps := s1.fab.resps.filter (fun x => x != r) } } r.hdr.reqPkg
          (.endUnits r.pos))

/- Recipient (R198, R200, R376) -/

def recipOf (s : State) (rdie : Nat) (h : FHdr) : Recipient :=
  (s.fab.recips.find? (fun r => sameReq r.hdr h)).getD ⟨h, rdie, none, [], [], false, none⟩
def setRecip (s : State) (r : Recipient) : State :=
  { s with fab := { s.fab with recips := s.fab.recips.filter (fun x => !sameReq x.hdr r.hdr) ++ [r] } }
/-- The largest offset below which every unit from `b` has landed. -/
def landedPrefix (units : List Nat) (hi : Nat) : Nat → Nat → Nat
  | 0, b => b
  | n + 1, b => if b < hi && units.contains b then landedPrefix units hi n (min hi (b + 64)) else b
def Recipient.prefix' (r : Recipient) : Nat :=
  match r.range, r.askEnd with
  | some (lo, hi), _ => landedPrefix r.units hi (hi / 64 + 1) lo
  | none, some (lo, _) => lo
  | none, none => 0
/-- Whether every unit below an end offset has landed or been refused. -/
def settledBelow (r : Recipient) (hi : Nat) : Nat → Nat → Bool
  | 0, _ => true
  | n + 1, b => hi ≤ b || ((r.units.contains b || r.refused.contains b) && settledBelow r hi n (b + 64))
/-- LANDED once everything has landed, or once a REPORT is answerable. -/
def tellLanded (s : State) (rdie : Nat) (r : Recipient) : State :=
  let full := match r.range with
    | some (_, hi) => r.prefix' == hi
    | none => false
  let asked := match r.askEnd with
    | some (lo, hi) => settledBelow r hi (hi / 64 + 1) lo
    | none => false
  if !r.reported && (full || asked) then
    (setRecip s { r with reported := true }).reply rdie r.hdr (.landed r.prefix')
  else setRecip s r

/-- A unit lands; under ORD in ascending order (R202). The first refusal tells the requester and stops the owner
(R200); a REPORT is answered whether the units below its end landed or were refused (R376). -/
def execFetchUnit (rdie : Nat) (hdr : FHdr) (o : FetchOrder) (off : Nat) (data : List Byte) (s : State) : Out :=
  .next (match s.intakeAt rdie hdr (.unit o off data) with
    | none => s
    | some (true, s1) => answerStale s1 rdie hdr off
    | some (false, s1) =>
      let r : Recipient := { recipOf s1 rdie hdr with hdr := hdr, range := some (o.resume, o.length) }
      let early := o.ord && !settledBelow r off (off / 64 + 1) o.resume
      let refuse (s1 : State) (c : Nat) : State :=
        let r1 := { r with refused := r.refused ++ [off] }
        let s2 :=
          if r.refused.isEmpty then
            (s1.reply rdie hdr (.nak c r.prefix' false)).send
              ⟨o.source.pkg, { hdr with srcPkg := s1.pkg, srcDie := rdie, inc := (s1.die rdie).inc, seq := 0 }, .stop⟩
          else s1
        tellLanded s2 rdie r1
      if early then s
      else if !groupOk s1 o.recip hdr then refuse s1 nDstPerm
      else match remoteLocs s1 rdie hdr rLand .engWrite o.recip off data.length with
        | .hold => s
        | .fail c _ _ => refuse s1 (dstCode c)
        | .ok ls =>
          let units := if r.units.contains off then r.units else r.units ++ [off]
          tellLanded (writeLocs s1 ls (ofBytes data)) rdie { r with units := units })

def execReport (rdie : Nat) (hdr : FHdr) (resume endOff : Nat) (s : State) : Out :=
  .next (match s.intakeAt rdie hdr (.report resume endOff) with
    | none => s
    | some (true, s1) => s1
    | some (false, s1) =>
      let r := recipOf s1 rdie hdr
      let e := min endOff ((r.askEnd.map (·.2)).getD endOff)
      tellLanded s1 rdie { r with hdr := hdr, askEnd := some (resume, e), reported := false })

/-- COMMIT (R198 step 7): one atomic addition, in a NORMAL page, under LAND. What landed stays on record: a REPORT that
COMMIT has overtaken is still answered (R202, R376). -/
def execFabricCommit (rdie : Nat) (hdr : FHdr) (addr : W64) (length : Nat) (s : State) : Out :=
  .next (match s.intakeAt rdie hdr (.commit addr length) with
    | none => s
    | some (true, s1) => s1
    | some (false, s1) =>
      if appliedBefore s1 hdr then s1.reply rdie hdr .committed
      else match remoteLocs s1 rdie hdr rLand .counter ⟨0, 0, 0, 0, addr⟩ 0 8 with
        | .hold => s
        | .fail c _ _ => s1.reply rdie hdr (.nak (dstCode c) length false)
        | .ok ls =>
          (writeLocs (noteApplied s1 rdie hdr) ls ((readLocs s1 ls + length) % 2 ^ 64)).reply rdie hdr .committed)

/- Requester -/

/-- Where a fabric command of this package stands in the queues. -/
def fabHome (s : State) (id : Nat) : Option (Nat × Cmd) :=
  s.frags.findSome? (fun e => ((Store.get [] e.2.q 3).find? (fun k => k.id == id)).map (fun k => (e.1, k)))

def State.fabCmd? (s : State) (id : Nat) : Option FabCmd := s.fab.cmds.find? (fun f => f.id == id)
def State.setFab (s : State) (f : FabCmd) : State :=
  { s with fab := { s.fab with cmds := s.fab.cmds.map (fun g => if g.id = f.id then f else g) } }
def State.endFab (s : State) (id : Nat) : State :=
  { s with fab := { s.fab with
    cmds := s.fab.cmds.filter (fun f => f.id != id) } }

/-- First unit of a send from `b` that some member has not acknowledged. -/
def sentPrefix (f : FabCmd) (hi : Nat) : Nat → Nat → Nat
  | 0, b => b
  | n + 1, b =>
    if b < hi && f.sent.contains b && f.peers.all (fun p => p.acked.contains b) then sentPrefix f hi n (b + 64) else b
/-- Every unit sent to a member that is still alive is answered. -/
def FabCmd.answered (f : FabCmd) : Bool :=
  f.peers.all (fun p => p.lost || f.sent.all (fun u => p.acked.contains u || p.naked.contains u))
/-- Every recipient has reported (R200). -/
def FabCmd.allReported (f : FabCmd) : Bool := f.peers.all (fun p => p.landed.isSome || p.lost)

/-- Packets with a sequence number of a die's commands that a package has not answered (R207). -/
def outstanding (s : State) (die pkg : Nat) : Nat :=
  (s.fab.cmds.map (fun f =>
    if f.die != die then 0
    else match f.order with
      | some _ => (if f.endOff.isNone && f.owner.any (fun o => o.1 == pkg) then 1 else 0)
          + (f.peers.filter (fun p => f.commit && p.pkg == pkg && !(p.committed || p.refused || p.lost))).length
      | none =>
        if f.add then ((f.peers.filter (fun p => p.pkg == pkg && !p.lost)).map (fun p =>
          (f.sent.filter (fun u => !(p.acked.contains u || p.naked.contains u))).length)).foldl (· + ·) 0
        else 0)).foldl (· + ·) 0
/-- A sender has at most 32 of them outstanding to one target. -/
def seqRoom (s : State) (die : Nat) (pkgs : List Nat) : Bool := pkgs.all (fun p => outstanding s die p < 32)

/-- What a fetch's requester sends or completes next (R198, R200, R376). A report of less than LENGTH means that a
negative reply is still on its way. -/
def fetchGoOn (s : State) (f : FabCmd) (o : FetchOrder) : State × Option Done :=
  let h := s.hdr f.die f.ctxid f.id f.ver
  let low := f.peers.foldl (fun m p => min m (max o.resume (p.landed.getD o.resume))) o.length
  match f.endOff with
  | none => (s, none)
  | some e =>
    if !f.allReported then
      if f.report then (s, none)
      else
        let asked := f.peers.filter (fun p => p.landed.isNone && !p.lost)
        ((asked.foldl (fun s p => s.sendCmd f ⟨p.pkg, h, .report o.resume e⟩) s).setFab { f with report := true }, none)
    else match f.nak with
      | some c =>
        if f.commit && !f.peers.all (fun p => p.committed || p.refused || p.lost) then (s, none)
        else (s, some (Done.ofStatus (statusWord c (low / 64))))
      | none =>
        if low < o.length then (s, none)
        else if o.landing = 0 then (s, some (Done.ofStatus 1))
        else if !f.commit then
          if !seqRoom s f.die (f.peers.map (·.pkg)) then (s, none)
          else ((f.peers.foldl (fun s p => s.sendCmdSeq f ⟨p.pkg, h, .commit o.landing o.length⟩) s).setFab
            { f with commit := true }, none)
        else if f.peers.all (·.committed) then (s, some (Done.ofStatus 1)) else (s, none)
/-- A send's outcome once every unit is answered: `hi` is where its stream ends, `more` whether units are to
come. -/
def sendDone (f : FabCmd) (hi : Nat) (more : Bool) : Option W32 :=
  if !f.answered then none
  else match f.nak with
    | some c => some (statusWord c (sentPrefix f hi (hi / 64 + 1) f.base / 64))
    | none => if more then none else some 1

/-- Goes on with a fabric command that a queue holds; one in an image waits (R230). A checkpoint is its thread's. -/
def fabGoOn (s : State) (id : Nat) : State :=
  match s.fabCmd? id, fabHome s id with
  | some f, some (_, k) => match f.order with
    | some o => match fetchGoOn s f o with
      | (s1, none) => s1
      | (s1, some d) => completeCmd (s1.endFab id) k d.status 0
    | none =>
      let total := (k.src.map Sd.bytes).getD 0
      match sendDone f total (k.prog < total) with
      | none => s
      | some st => completeCmd (s.endFab id) k st 0
  | _, _ => s

/-- Every command of this package goes on: a reply to one may leave room for another's packet (R207). -/
def fabAll (s : State) : State := (s.fab.cmds.map (·.id)).foldl fabGoOn s

def Peer.at (p : Peer) (pkg die : Nat) : Peer := if p.pkg = pkg then { p with die := some die } else p

/-- The control die's packets have no command: an acknowledgement of a returned part names its number (R207, R209). -/
def ackReturn (s : State) (h : FHdr) (m : FMsg) : State :=
  match m with
  | .ack n => s.returnAcked h.srcPkg n
  | _ => s
/-- A reply that this package receives as requester (R200, R201, R204, R379). -/
def onReply (s : State) (h : FHdr) (m : FMsg) (f : FabCmd → FabCmd) : Out :=
  .next (match if 12 ≤ h.reqDie && ctlAway s (gateOf s 15) then none else s.intake (replyGate s h) h m with
    | none => s
    | some (stale, s1) =>
      if h.reqPkg != s1.pkg then s
      else match s1.fabCmd? h.cmd with
        | none => if h.reqDie = 15 then ackReturn s1 h m else s1.count (fun e => { e with reply := satInc e.reply })
        | some c =>
          let owns := c.owner.any (fun o => o.1 == h.srcPkg)
          if !owns && !c.peers.any (fun p => p.pkg == h.srcPkg) then s1.count (fun e => { e with group := satInc e.group })
          else
            let c1 : FabCmd := { c with
              peers := c.peers.map (fun p => p.at h.srcPkg h.srcDie)
              owner := c.owner.map (fun o => if o.1 = h.srcPkg && o.2.isNone then (o.1, some h.srcDie) else o) }
            let c2 : FabCmd := if stale then { c1 with
                nak := some (c1.nak.getD nStale)
                endOff := if owns then some 0 else c1.endOff
                report := c1.report && !(owns && c1.endOff.any (fun e => 0 < e))
                peers := c1.peers.map (fun p => if p.pkg = h.srcPkg then { p with lost := true } else p) }
              else f c1
            fabAll (s1.setFab c2))

def FabCmd.modPeer (c : FabCmd) (pkg : Nat) (f : Peer → Peer) : FabCmd :=
  { c with peers := c.peers.map (fun p => if p.pkg = pkg then f p else p) }

def execFetchEnd (hdr : FHdr) (endOff : Nat) (s : State) : Out :=
  onReply s hdr (.endUnits endOff) (fun c => { c with endOff := some (c.endOff.getD endOff) })
def execLanded (hdr : FHdr) (landedTo : Nat) (s : State) : Out :=
  onReply s hdr (.landed landedTo) (fun c => c.modPeer hdr.srcPkg (fun p => { p with landed := some landedTo }))
def execCommitted (hdr : FHdr) (s : State) : Out :=
  onReply s hdr .committed (fun c => c.modPeer hdr.srcPkg (fun p => { p with committed := true }))

/-- A refusal of the owner ends the units at its offset, below an END that came before it: the recipients are then asked
anew (R207, R359). One of a recipient is its report (R200). -/
def refusal (hdr : FHdr) (code off : Nat) (owner : Bool) (c : FabCmd) : FabCmd :=
  let c1 := { c with nak := some (c.nak.getD code) }
  match c.order with
  | none => c1.modPeer hdr.srcPkg (fun p => { p with naked := p.naked ++ [off] })
  | some _ =>
    if owner || code = nSrcXlate || code = nSrcPerm || code = nStale then
      { c1 with endOff := some (min (c1.endOff.getD off) off), report := c.report && !c.endOff.any (fun e => off < e) }
    else c1.modPeer hdr.srcPkg (fun p => { p with refused := true, landed := some (p.landed.getD off) })
def execNegativeReply (hdr : FHdr) (code : Nat) (n : NakAt) (s : State) : Out :=
  onReply s hdr (.nak code n.off n.owner) (refusal hdr code n.off n.owner)
def execAcknowledgement (hdr : FHdr) (off : Nat) (s : State) : Out :=
  onReply s hdr (.ack off) (fun c => c.modPeer hdr.srcPkg (fun p => { p with acked := p.acked ++ [off] }))

/- XSEND and XFETCH start -/

/-- A target block of 16 bytes (R193). -/
def parseTarget (bs : List Nat) (o : Nat) : Option Target :=
  let pkg := fld bs o 2
  let kind := fld bs (o + 2) 1
  let pane := fld bs (o + 3) 1
  let a := fld bs (o + 8) 8
  if 4096 ≤ pkg || 2 < kind || (kind != 1 && pane != 0) || 12 ≤ pane / 16 || fld bs (o + 4) 4 != 0
      || (if kind = 1 then 2 ^ 24 ≤ a else globalSize ≤ a) then none
  else some ⟨kind, pkg, pane / 16, pane % 16, u64 a⟩

/-- Destination packages of a target, the group's VERSION; none for a group without an entry here (R201). -/
def destinations (s : State) (t : Target) : Option (List Nat × W32) :=
  if t.kind != 2 then some ([t.pkg], 0)
  else (Tab.get? s.fab.groups t.pkg).map (fun g => (g.members, g.ver))
def peerOf (t : Target) (pkg : Nat) : Peer := ⟨pkg, if t.kind = 1 then some t.die else none, [], [], none, false, false, false⟩

/-- What an XSEND reads before it sends (R196): target, source. The two halves of the target block may lie in two
pages. -/
def sendPlan (s : State) (k : Cmd) (add : Bool) : Res (Target × Sd) :=
  if k.gb.toNat % 8 != 0 then .fail cAlign k.gb 0
  else (k.blocks s 8 2 k.gb).bind (fun b =>
    match parseTarget b 0 with
    | none => .fail cDesc k.gb 0
    | some t =>
      if k.res.toNat % 64 != 0 then .fail cDesc k.gb 0
      else (readSd s k k.ga).bind (fun d =>
        if add && !(d.fmt == .fp32 || d.fmt == .i32) then .fail cTag k.ga 0
        else if t.addr.toNat % d.size != 0 then .fail cAlign t.addr 0
        else .ok (t, d)))
def captureXsend (s : State) (k : Cmd) : Cmd := if k.gb.toNat % 8 != 0 then k else keepSd s (k.keeps s 8 2 k.gb) k.ga
def isAdd (k : Cmd) : Bool :=
  match k.op with
  | .xsend _ _ _ _ _ _ _ add _ => add
  | _ => false
/-- ORD of an XSEND (R122, R202). -/
def Sd.ord (d : Sd) : Bool := d.flags / 2 % 2 == 1
/-- A command with ORD keeps to the port of its first packet (R190). -/
def FabCmd.fixPort (f : FabCmd) (s : State) (ord : Bool) : FabCmd :=
  if ord then { f with port := some (f.port.getD (choosePort s f.die)) } else f

/-- First fault of a pass, of whatever cause: element, cause, address. -/
def Pass.first (p : Pass) : Option (Nat × Nat × W64) :=
  match p.bad, p.mtype with
  | b, none => b
  | none, some (j, a) => some (j, cMtype, a)
  | some (i, c, b), some (j, a) => if j < i then some (j, cMtype, a) else some (i, c, b)

/-- XSEND starts; one that was stopped goes on from its progress (R230), up to which its bytes have landed. -/
def startXsend (fw : Bool) (s0 : State) (home q : Nat) (k0 : Cmd) : State :=
  let k := captureXsend s0 k0
  let s := s0.modCmd home q k.id (fun _ => k)
  match sendPlan s k (isAdd k) with
  | .hold => s
  | .fail c a _ => cmdFault fw s home q k c a (k.prog / 64)
  | .ok (t, d) => match destinations s t with
    | none => cmdFault fw s home q k nDstPerm 0 (k.prog / 64)
    | some (ms, ver) =>
      let prog := max k.prog k.res.toNat
      if d.bytes ≤ k.res.toNat then completeCmd s k 1 0
      else
        let lo := elemAt d prog
        let p := passAll s k.who (fun j => [(.engRead, (d.elem j).1, d.size)]) (d.count' - lo) lo Pass.start
        let f : FabCmd := ⟨k.id, k.ctxid, ver, ms.map (peerOf t), isAdd k, none, none, prog, [], none, none,
          false, false, k.seq / 16, k.seq % 16, none⟩
        if p.held then s
        else match p.first.filter (fun b => fw && toFirmware s k b.2.1) with
          | some (_, _, a) => s.modCmd home q k.id (fun k => { k with page := some a })
          | none =>
            let k1 : Cmd :=
              { k with st := .started, src := some d, tgt := some t, xl := p.xl, prog := prog, bad := p.first, blk := [] }
            let s1 := s.modCmd home q k.id (fun _ => k1)
            { s1 with fab := { s1.fab with cmds := s1.fab.cmds.filter (fun g => g.id != k.id) ++ [f] } }

/-- The stream bytes of the unit at an offset (R123). -/
def unitBytes (s : State) (k : Cmd) (d : Sd) (off : Nat) : Res (List Byte) :=
  let n := min 64 (d.bytes - off)
  let lo := elemAt d off
  let cnt := n * 8 / elemBits d.fmt
  ((List.range cnt).foldl (fun (acc : Res Nat) i => acc.bind (fun x =>
    (readElem s k d (lo + i)).bind (fun v => .ok (x + v * 2 ^ (elemBits d.fmt * i))))) (Res.ok 0)).bind (fun x =>
      .ok ((leList n x).map (BitVec.ofNat 8)))

/-- One unit, that a switch gives to every member (R196, R201). -/
def sendUnit (s : State) (k : Cmd) (f : FabCmd) (t : Target) (d : Sd) (off : Nat) (data : List Byte) : State :=
  let h := s.hdr f.die f.ctxid f.id f.ver
  let ord := if d.ord then some f.base else none
  if isAdd k then s.sendCmdSeq f ⟨groupDst t, h, .add t off (d.fmt == .fp32) data ord⟩
  else s.sendCmd f ⟨groupDst t, h, .write t off data ord⟩

/-- Where a started XSEND stops: at the unit of its source's first fault, or at the end of its stream (R127). -/
def sendStop (k : Cmd) (d : Sd) : Nat :=
  match k.bad with
  | some (j, _, _) => d.off j / 64 * 64
  | none => d.bytes
/-- Units from the command's progress below `upto`. -/
def sendTo (home q id upto : Nat) : Nat → State → State
  | 0, s => s
  | n + 1, s =>
    match s.cmd? home q id, s.fabCmd? id with
    | some k, some f => match k.src, k.tgt with
      | some d, some t =>
        if f.nak.isSome || upto ≤ k.prog || sendStop k d ≤ k.prog || (f.add && !seqRoom s f.die (f.peers.map (·.pkg))) then s
        else match unitBytes s k d k.prog with
          | .hold => s
          | .fail c _ _ => (s.count (fun e => if c = cEcc then { e with uncorr := satInc e.uncorr } else e)).setFab
              { f with nak := some c }
          | .ok data =>
            let f1 := f.fixPort s d.ord
            let s1 := (sendUnit s k f1 t d k.prog data).setFab { f1 with sent := f.sent ++ [k.prog] }
            sendTo home q id upto n (s1.modCmd home q id (fun k => { k with prog := min d.bytes (k.prog + 64) }))
      | _, _ => s
    | _, _ => s
/-- A started XSEND sends on; where its source faulted it ends at that unit (R127, R196). -/
def moveXsend (s : State) (home q : Nat) (k : Cmd) (upto : Nat) : State :=
  let s1 := sendTo home q k.id upto ((k.src.map Sd.bytes).getD 0 / 64 + 2) s
  match s1.cmd? home q k.id, s1.fabCmd? k.id with
  | some k1, some f =>
    let s2 := match k1.bad, k1.src with
      | some (_, c, _), some d => if f.nak.isNone && sendStop k1 d ≤ k1.prog then s1.setFab { f with nak := some c } else s1
      | _, _ => s1
    fabGoOn s2 k.id
  | _, _ => s1

/-- What an XFETCH reads (R197): DESC for a broken limit, ALIGN for its addresses. -/
def fetchPlan (s : State) (k : Cmd) : Res FetchOrder :=
  if k.ga.toNat % 64 != 0 then .fail cAlign k.ga 0
  else (k.block s k.ga 64).bind (fun b =>
    let len := fld b 0x10 8
    let landing := fld b 0x28 8
    let resume := fld b 0x30 8
    let flags := fld b 0x38 8
    match parseTarget b 0, parseTarget b 0x18 with
    | some src, some dst =>
      if src.kind = 2 || len < 8 || 2 ^ 30 - 64 < len || len % 8 != 0 || landing % 8 != 0 || 4 ≤ flags
          || resume % 64 != 0 || len ≤ resume || (flags / 2 = 0 && resume != 0) then .fail cDesc k.ga 0
      else if src.addr.toNat % 8 != 0 || dst.addr.toNat % 8 != 0 then .fail cAlign k.ga 0
      else .ok ⟨src, len, dst, u64 landing, resume, flags % 2 = 1⟩
    | _, _ => .fail cDesc k.ga 0)
/-- XFETCH writes its order to the owner (R198); it waits while the owner has 32 packets to answer (R207). -/
def startXfetch (fw : Bool) (s0 : State) (home q : Nat) (k0 : Cmd) : State :=
  let k := if k0.ga.toNat % 64 != 0 then k0 else k0.keep s0 k0.ga 64
  let s := s0.modCmd home q k.id (fun _ => k)
  match fetchPlan s k with
  | .hold => s
  | .fail c a _ => cmdFault fw s home q k c a 0
  | .ok o => match destinations s o.recip with
    | none => cmdFault fw s home q k nDstPerm 0 0
    | some (ms, ver) =>
      if !seqRoom s (k.seq / 16) [o.source.pkg] then s
      else
        let f : FabCmd := FabCmd.fixPort ⟨k.id, k.ctxid, ver, ms.map (peerOf o.recip), false, some o,
          some (o.source.pkg, if o.source.kind = 1 then some o.source.die else none), 0, [], none, none, false, false,
          k.seq / 16, k.seq % 16, none⟩ s o.ord
        let s1 := s.modCmd home q k.id (fun k => { k with st := .started, order := some o, tgt := some o.recip, blk := [] })
        let s2 := s1.sendCmdSeq f ⟨o.source.pkg, s1.hdr f.die f.ctxid f.id ver, .order o⟩
        { s2 with fab := { s2.fab with cmds := s2.fab.cmds ++ [f] } }

/- Resets and losses elsewhere (R204, R205, R207) -/

/-- A party of a command on a die that was reset: it is lost, whatever it has reported, and the token of the command,
which is still outstanding, reports STALE once the others have reported (R204). Units of a lost owner may have gone with
its ports, so that its recipients are asked for what they have now. A party whose die is not known counts as on the named
one (assumption 51). -/
def loseParty (pkg : Nat) (die : Option Nat) (c : FabCmd) : FabCmd :=
  let hit (p : Nat) (d : Option Nat) : Bool := p == pkg && (die.isNone || d.isNone || d == die)
  let own := c.owner.any (fun o => hit o.1 o.2)
  let other (p : Peer) : Bool := hit p.pkg p.die
  if own || c.peers.any other then { c with
      nak := some (c.nak.getD nStale)
      endOff := if own then some 0 else c.endOff
      report := c.report && !(own && c.endOff.any (fun e => 0 < e))
      peers := c.peers.map (fun p => if other p then { p with lost := true } else p) }
  else c
/-- Lent parts of a package that was lost come home as failed (R209). -/
def returnLent (s : State) (pkg : Nat) : State :=
  s.ents.foldl (fun s e =>
    let n := Store.get 0 e.2.lent pkg
    if n = 0 then s
    else
      let s1 := s.modEnt e.1 (fun x =>
        let (k, h) := lowerReserve x.e (x.h + n)
        { x with h := h, e := k, lent := Store.put 0 x.lent pkg 0, losses := Store.put 0 x.losses pkg (Store.get 0 x.losses pkg + 1)
                 status := if statusCode x.status = 0 then statusWord nStale 0 else x.status })
      checkEnt s1 e.1) s
/-- What gateways keep about a die, or about every die of a package, that was reset. -/
def forgetPeer (f : Fabric) (pkg : Nat) (die : Option Nat) : Fabric :=
  let hit (p d : Nat) : Bool := p == pkg && (die.isNone || die == some d)
  let key (k : Nat) : Bool := hit (k / 16 % 4096) (k % 16)
  { f with
    resps := f.resps.filter (fun r => !hit r.hdr.reqPkg r.hdr.reqDie)
    recips := f.recips.filter (fun r => !hit r.hdr.reqPkg r.hdr.reqDie)
    ords := f.ords.filter (fun r => !hit r.hdr.reqPkg r.hdr.reqDie)
    applied := f.applied.filter (fun e => !key e.1)
    unacked := f.unacked.filter (fun e => !(die.isNone && e.1 == pkg))
    owed := f.owed.filter (fun p => !(die.isNone && p.dst == pkg)) }
def losePeer (s : State) (pkg : Nat) (die : Option Nat) : State :=
  let fab := forgetPeer s.fab pkg die
  let s1 : State := { s with fab := { fab with cmds := s.fab.cmds.map (loseParty pkg die) } }
  returnLent (fabAll s1) pkg

/-- Packets of slices, barriers, weights, spawns and resets have no command that a ninth drop would complete (R207): they
are re-sent until they are delivered, which R77 and R79 say of slice reports and decisions alone (for the others DESIGN
CHOICE, assumption 106). -/
def resent (m : FMsg) : Bool :=
  match m with
  | .ready _ _ => true
  | .go _ => true
  | .abandon _ => true
  | .fail _ => true
  | .barArrive _ _ => true
  | .barDone _ _ => true
  | .weight _ _ _ => true
  | .spawn _ _ _ => true
  | .resetNotice _ _ => true
  | _ => false
/-- What the requester is told of a packet of an owner, target or recipient that was dropped for the ninth time. -/
def timeoutReply (m : FMsg) : Option FMsg :=
  match m with
  | .unit _ off _ => some (.nak nTimeout off true)
  | .endUnits e => some (.nak nTimeout e true)
  | .nak _ off owner => some (.nak nTimeout off owner)
  | .ack off => some (.nak nTimeout off false)
  | .landed b => some (.nak nTimeout b false)
  | .committed => some (.nak nTimeout 0 false)
  | _ => none
/-- The destinations of a packet of a command. -/
def FabCmd.modDst (c : FabCmd) (dst : Nat) (f : Peer → Peer) : FabCmd :=
  if dst < 4096 then c.modPeer dst f else { c with peers := c.peers.map f }
/-- A packet dropped for the ninth time (R207): its command ends with TIMEOUT, a responder stops. What it is answered with
keeps to the port of an ORD command's first packet (R190). -/
def timedOut (s : State) (o : OutPkt) : State :=
  let p := o.pkt
  if resent p.msg then s.queuePkt { o with drops := 0 }
  else match timeoutReply p.msg with
    | some m =>
      let s1 : State := match p.msg with
        | .unit _ _ _ => { s with fab := { s.fab with resps := s.fab.resps.filter (fun r => !sameReq r.hdr p.hdr) } }
        | _ => s
      s1.queuePkt ⟨⟨p.hdr.reqPkg, s1.answerHdr o.gate p.hdr, m⟩, o.gate, 16, o.port, 0, 0⟩
    | none => match if p.hdr.reqPkg = s.pkg then s.fabCmd? p.hdr.cmd else none with
      | none => s
      | some c =>
        let c1 := { c with nak := some (c.nak.getD nTimeout) }
        let c2 := match p.msg with
          | .write _ u _ _ => c1.modDst p.dst (fun x => { x with naked := x.naked ++ [u] })
          | .add _ u _ _ _ => c1.modDst p.dst (fun x => { x with naked := x.naked ++ [u] })
          | .order _ => { c1 with endOff := some (c1.endOff.getD 0), peers := c1.peers.map (fun x => { x with landed := some (x.landed.getD 0) }) }
          | .stop => c
          | _ => c1.modDst p.dst (fun x => { x with refused := true, landed := some (x.landed.getD 0) })
        fabAll (s.setFab c2)
/-- A dropped packet is sent again at once, up to eight times, while its gateway is still the one that sent it (R14,
R207). -/
def resend (s : State) (o : OutPkt) : State :=
  if o.pkt.hdr.srcDie < 12 && o.pkt.hdr.inc != (s.die o.pkt.hdr.srcDie).inc then s
  else if o.drops < 8 then s.queuePkt { o with drops := o.drops + 1 }
  else timedOut s o
/-- A buffer's timer reaches 100 µs (R206): of a port, which restarts when a flit leaves, where the drop is counted
(R249); or of a switch, which may hold any packet that left its port 100 µs ago and has not been delivered. -/
def execNoProgressTimeout (buf : FabBuffer) (s : State) : Out :=
  .next (match buf with
    | .port die p => match (s.port die p).head? s with
      | none => s
      | some o =>
        if s.now < (s.port die p).at' + 100 * ticksPerUs then s
        else resend ((s.count (fun e => { e with timeout := satInc e.timeout })).modPort die p (fun x => x.pop s)) o
    | .switch idx => match s.fab.out[idx]? with
      | none => s
      | some o =>
        if s.now < o.since + 100 * ticksPerUs then s
        else resend { s with fab := { s.fab with out := s.fab.out.eraseIdx idx } } o)

/- Fabric time (R208) -/

/-- Synchronisation: the first one makes VALID; fabric time never decreases. The register of a die in reset stays as its
reset left it (R5, R14). -/
def execFabricTime (ns : Nat) (s : State) : Out :=
  .next (if !s.fab.portsUp then s
  else { s with fab := { s.fab with
      valid := true, ns := if s.fab.valid then max ns s.ftimeNs else ns, nsAt := s.now
      untimed := s.fab.untimed.filter (fun d => (s.die d).resetAt.isSome) } })

end Sys2Proof.Machine
end

