-- ==== Sys2Proof/Machine/Grid.lean ====
section
/-! DEFINITION. The spatial grid: elements and their cycle (R132 to R134), grid images (R135 to R137), GCFG, GSTART,
GSTOP and GSPILL (R138, R141, R305), streams at ports (R139, R140, R333), the spill engine (R108, R141). -/
namespace Sys2Proof.Machine

def State.grid (s : State) (seq : Nat) : Grid := (s.frag seq).grid
def State.modGrid (s : State) (seq : Nat) (g : Grid → Grid) : State := s.modFrag seq (fun f => { f with grid := g f.grid })
def Grid.elem (g : Grid) (e : Nat) : Elem := Store.get Elem.reset g.elems e
def Grid.port (g : Grid) (p : Nat) : GPort := Store.get GPort.reset g.ports p
def Grid.modPort (g : Grid) (p : Nat) (f : GPort → GPort) : Grid :=
  { g with ports := Store.put GPort.reset g.ports p (f (g.port p)) }
def Grid.cols (g : Grid) : Nat := 8 * g.w
def Grid.count (g : Grid) : Nat := 64 * g.h * g.w

/-- Ports of an element: input and output (R132). -/
def inPort (w e : Nat) : Option Nat :=
  let i := e / (8 * w); let j := e % (8 * w)
  if j % 8 = 0 && i % 8 < 4 then some (32 * (i / 8 * w + j / 8) + i % 8) else none
def outPort (w e : Nat) : Option Nat :=
  let i := e / (8 * w); let j := e % (8 * w)
  if j % 8 = 7 && i % 8 < 4 then some (32 * (i / 8 * w + j / 8) + 16 + i % 8) else none
/-- The neighbour on side 0 north, 1 east, 2 south, 3 west. -/
def neighbour (h w e side : Nat) : Option Nat :=
  let c := 8 * w
  let i := e / c; let j := e % c
  match side with
  | 0 => if i = 0 then none else some (e - c)
  | 1 => if j + 1 = c then none else some (e + 1)
  | 2 => if i + 1 = 8 * h then none else some (e + c)
  | _ => if j = 0 then none else some (e - 1)

def emptySlot : W32 := 0xF8000000
def Elem.slot (e : Elem) (i : Nat) : W32 := Store.get emptySlot e.slots i
def Elem.inQ (e : Elem) : Nat → List GTok
  | 0 => e.inN
  | 1 => e.inE
  | 2 => e.inS
  | _ => e.inW
def Elem.setIn (e : Elem) (side : Nat) (l : List GTok) : Elem :=
  match side with
  | 0 => { e with inN := l }
  | 1 => { e with inE := l }
  | 2 => { e with inS := l }
  | _ => { e with inW := l }
def Elem.outQ (e : Elem) : Nat → List GTok
  | 0 => e.outN
  | 1 => e.outE
  | 2 => e.outS
  | _ => e.outW
def Elem.setOut (e : Elem) (side : Nat) (l : List GTok) : Elem :=
  match side with
  | 0 => { e with outN := l }
  | 1 => { e with outE := l }
  | 2 => { e with outS := l }
  | _ => { e with outW := l }

/- Operations (R133) -/

def fpOp (v : Val × BitVec 8) : W32 := u32 (roundResult .fp32 .rne false v false).1
def aluOp (op : Nat) (a t : W32) : W32 :=
  let b (c : Bool) : W32 := if c then 1 else 0
  match op with
  | 0 => a + t
  | 1 => a - t
  | 2 => a &&& t
  | 3 => a ||| t
  | 4 => a ^^^ t
  | 5 => a <<< (t.toNat % 32)
  | 6 => a >>> (t.toNat % 32)
  | 7 => if a.slt t then a else t
  | 8 => if a.slt t then t else a
  | 9 => b (a == t)
  | 10 => b (a.slt t)
  | 11 => b (a.ult t)
  | 12 => fpOp (addVal false (bits32 a) (bits32 t))
  | 13 => fpOp (mulVal (bits32 a) (bits32 t))
  | 14 => fpOp (pickNum true (bits32 a) (bits32 t))
  | _ => t

/-- Results that appear at the start of a cycle; whether anything was in flight. -/
def appear (e : Elem) : Elem × Bool :=
  let e1 := match e.aluF with
    | some (op, a, t) =>
      let r := aluOp op a.v t.v
      { e with aluF := none, aluR := some ⟨r, t.t⟩, flag := if 9 ≤ op && op ≤ 11 then r != 0 else e.flag }
    | none => e
  let e2 := match e1.cmpF with
    | some (x, t) =>
      if x.v.toNat ≤ t.v.toNat then { e1 with cmpF := none, cmpLo := some x, cmpHi := some t }
      else { e1 with cmpF := none, cmpLo := some t, cmpHi := some x }
    | none => e1
  let e3 := match e2.lutF with
    | some (n, t) => if n ≤ 1 then { e2 with lutF := none, lutR := some t } else { e2 with lutF := some (n - 1, t) }
    | none => e2
  (e3, e.aluF.isSome || e.cmpF.isSome || e.lutF.isSome)

/-- An element during its scan: the element, its input and output port queues, sources taken, destinations used,
moves fired, what takes effect at the end of the cycle. -/
structure Scan where
  e     : Elem
  inp   : List GTok
  outp  : GPort
  took  : List Nat
  used  : List Nat
  fired : Nat
  late  : List (Nat × GTok)

/-- Whether a port takes one more token (R132, R141). -/
def GPort.room (p : GPort) : Bool :=
  (p.q.length < 16 && match p.ring with
    | some r => r.toks.isEmpty
    | none => true) ||
  match p.ring with
  | some r => r.toks.length < r.bytes / 8
  | none => false
def GPort.push (p : GPort) (t : GTok) : GPort :=
  match p.ring with
  | some r =>
    if p.q.length < 16 && r.toks.isEmpty then { p with q := p.q ++ [t] }
    else { p with ring := some { r with toks := r.toks ++ [t], tail := r.tail + 1 } }
  | none => { p with q := p.q ++ [t] }
/-- The eight bytes in which a ring stores a token, value first, then the tag (R141; the layout is assumption 19), at
its place of the ring. -/
def storeTok (s : State) (seq : Nat) (r : GRing) : State :=
  match r.toks.getLast? with
  | none => s
  | some t =>
    padBytesAt s seq (r.base + 8 * ((r.tail - 1) % max 1 (r.bytes / 8))) (leList 4 t.v.toNat ++ leList 4 t.t.toNat)
/-- Tokens that went to a ring in a cycle are stored in it. -/
def storeToks (s : State) (seq : Nat) (g : Grid) : List (Nat × GPort) → State
  | [] => s
  | (i, p) :: t =>
    storeToks (match p.ring with
      | some r => if ((g.port i).ring.map (·.tail)).getD 0 = r.tail then s else storeTok s seq r
      | none => s) seq g t

def Scan.source (c : Scan) (src : Nat) (imm : W32) : Option GTok :=
  match src with
  | 4 => c.e.aluR
  | 5 => c.e.cmpLo
  | 6 => c.e.cmpHi
  | 7 => c.e.lutR
  | 8 => some ⟨c.e.cnt, false⟩
  | 9 => some ⟨imm, false⟩
  | 10 => some c.e.reg0
  | 11 => some c.e.reg1
  | 12 => c.inp.head?
  | n => (c.e.inQ n).head?
def Scan.accepts (c : Scan) (dst : Nat) : Bool :=
  match dst with
  | 5 => c.e.aluR.isNone && c.e.aluF.isNone
  | 7 => c.e.cmpLo.isNone && c.e.cmpHi.isNone && c.e.cmpF.isNone
  | 8 => c.e.lutR.isNone && c.e.lutF.isNone
  | 14 => c.outp.room
  | n => if n < 4 then (c.e.outQ n).length < 4 else true
def Scan.consume (c : Scan) (src : Nat) : Scan :=
  match src with
  | 4 => { c with e := { c.e with aluR := none } }
  | 5 => { c with e := { c.e with cmpLo := none } }
  | 6 => { c with e := { c.e with cmpHi := none } }
  | 7 => { c with e := { c.e with lutR := none } }
  | 12 => { c with inp := c.inp.drop 1 }
  | n => if n < 4 then { c with e := c.e.setIn n ((c.e.inQ n).drop 1) } else c
def Scan.place (c : Scan) (dst op : Nat) (t : GTok) : Scan :=
  match dst with
  | 5 => { c with e := { c.e with aluF := some (op, c.e.aluA, t) } }
  | 7 => { c with e := { c.e with cmpF := some (c.e.cmpX, t) } }
  | 8 => { c with e := { c.e with lutF := some (2, ⟨Store.get 0 c.e.lut (t.v.toNat % 256), t.t⟩) } }
  | 14 => { c with outp := c.outp.push t }
  | 15 => c
  | n => if n < 4 then { c with e := c.e.setOut n (c.e.outQ n ++ [t]) } else { c with late := c.late ++ [(n, t)] }

/-- One slot of the scan (R134); `flag` is the flag at the start of the cycle. Room at the destination counts as the
earlier slots left it. `drop` too takes one token a cycle: R134's bound on every destination is read to cover the one
that always accepts (DESIGN CHOICE, assumption 81). -/
def Scan.slot (flag : Bool) (c : Scan) (w : W32) : Scan :=
  let x := w.toNat
  let src := x / 2 ^ 27
  let dst := x / 2 ^ 22 % 32
  let cond := x / 2 ^ 16 % 4
  if src = 31 || 4 ≤ c.fired || c.took.contains src || c.used.contains dst then c
  else match c.source src ((BitVec.ofNat 15 x).signExtend 32) with
    | none => c
    | some t =>
      let held := (cond = 1 && !flag) || (cond = 2 && flag) || (cond = 3 && !t.t)
      if held then c
      else
        let takes := src < 8 || src = 12
        if !c.accepts dst then c
        else
          let c1 := if takes && x / 2 ^ 15 % 2 = 0 then c.consume src else c
          let c2 := c1.place dst (x / 2 ^ 18 % 16) t
          { c2 with took := if takes then src :: c2.took else c2.took, used := dst :: c2.used, fired := c2.fired + 1 }
/-- What moves of the cycle leave in latches, registers, tables, counter and flag. A latch that one move sets is seen by
another move from the next cycle on: alu.t, cmp.t and lut.w of the same cycle use the old A, X and write index
(R133 leaves it open: assumption 40). -/
def lateEffect (li : Nat) (e : Elem) (m : Nat × GTok) : Elem :=
  match m.1 with
  | 4 => { e with aluA := m.2 }
  | 6 => { e with cmpX := m.2 }
  | 9 => { e with lut := Store.put 0 e.lut li m.2.v }
  | 10 => { e with lutI := m.2.v.toNat % 256 }
  | 11 => { e with cnt := e.cnt + m.2.v }
  | 12 => { e with reg0 := m.2 }
  | 13 => { e with reg1 := m.2 }
  | 16 => { e with flag := m.2.v != 0 }
  | _ => e

/-- Results appear, then the 16 slots are scanned in order; whether anything happened. -/
def Grid.scanElem (acc : Grid × Bool) (i : Nat) : Grid × Bool :=
  let g := acc.1
  let (e, fly) := appear (g.elem i)
  let pin := inPort g.w i
  let pout := outPort g.w i
  let c0 : Scan := ⟨e, (pin.map (fun p => (g.port p).q)).getD [], (pout.map g.port).getD GPort.reset, [], [], 0, []⟩
  let c := ((List.range 16).map e.slot).foldl (Scan.slot e.flag) c0
  let e2 := c.late.foldl (lateEffect e.lutI) c.e
  let g1 : Grid := { g with elems := Store.put Elem.reset g.elems i e2 }
  let g2 := match pin with
    | some p => g1.modPort p (fun x => { x with q := c.inp })
    | none => g1
  let g3 := match pout with
    | some p => g2.modPort p (fun _ => c.outp)
    | none => g2
  (g3, acc.2 || fly || c.fired != 0)

/-- One token crosses each link with room (R132). -/
def Grid.cross (acc : Grid × Bool) (l : Nat) : Grid × Bool :=
  let g := acc.1
  let i := l / 4
  let side := l % 4
  match neighbour g.h g.w i side, (g.elem i).outQ side with
  | some j, t :: rest =>
    let back := (side + 2) % 4
    let q := (g.elem j).inQ back
    if q.length < 4 then
      let g1 : Grid := { g with elems := Store.put Elem.reset g.elems i ((g.elem i).setOut side rest) }
      ({ g1 with elems := Store.put Elem.reset g1.elems j ((g1.elem j).setIn back (q ++ [t])) }, true)
    else acc
  | _, _ => acc

def Elem.quiet (e : Elem) : Bool :=
  e.aluR.isNone && e.aluF.isNone && e.cmpLo.isNone && e.cmpHi.isNone && e.cmpF.isNone && e.lutR.isNone && e.lutF.isNone
    && (List.range 4).all (fun n => (e.inQ n).isEmpty && (e.outQ n).isEmpty)
/-- R138's quiescence, for a cycle in which no slot fired. -/
def Grid.quiet (g : Grid) : Bool :=
  g.elems.all (fun e => e.2.quiet) && g.ports.all (fun p =>
    p.2.q.isEmpty && (p.1 % 32 ≥ 16 || p.2.streams.isEmpty) && match p.2.ring with
      | some r => r.toks.isEmpty
      | none => true)

def startToken (s : State) (seq : Nat) (st : W32) : State :=
  match (s.grid seq).start with
  | none => s
  | some id =>
    let s1 := s.modGrid seq (fun g => { g with start := none })
    match s1.cmd? seq 4 id with
    | none => s1
    | some k => completeCmd s1 k st 0
/-- A cycle of a running grid (R134); quiescence completes GSTART's token (R138). -/
def execGridCycle (seq : Nat) (s : State) : Out :=
  let g := s.grid seq
  .next (if g.st != .running || s.stopping (Store.get 0 s.occ seq) then s
  else
    let a1 := (List.range g.count).foldl Grid.scanElem (g, false)
    let a2 := (List.range (4 * g.count)).foldl Grid.cross a1
    let s1 := storeToks (s.modGrid seq (fun _ => a2.1)) seq g a2.1.ports
    if !a2.2 && a2.1.quiet then startToken (s1.modGrid seq (fun g => { g with st := .configured })) seq 1 else s1)

/- Grid images (R136, R137) -/

/-- Whether a move word is one that R137 turns away at an element. -/
def badMove (h w e x : Nat) : Bool :=
  let src := x / 2 ^ 27
  let dst := x / 2 ^ 22 % 32
  if src = 31 then x != 0xF8000000
  else
    12 < src || 16 < dst || (x / 2 ^ 18 % 16 != 0 && dst != 5) || (x % 2 ^ 15 != 0 && src != 9)
      || (src < 4 && (neighbour h w e src).isNone) || (dst < 4 && (neighbour h w e dst).isNone)
      || (src = 12 && (inPort w e).isNone) || (dst = 14 && (outPort w e).isNone)
def badBlock (h w e : Nat) (bs : List Nat) : Bool :=
  (List.range 16).any (fun i => badMove h w e (fld bs (4 * i) 4)) || 2 ≤ fld bs 0x48 4 || !zeroFrom bs 0x4C 52
def storeOf (d : W32) (f : Nat → W32) (n : Nat) : Store W32 :=
  (List.range n).filterMap (fun i => if f i = d then none else some (i, f i))
/-- An element after GCFG (R138). The write index of lut.i is 0 then; R138 does not name it (DESIGN CHOICE, assumption
81). -/
def elemOf (bs lut : List Nat) : Elem :=
  { Elem.reset with
    slots := storeOf emptySlot (fun i => u32 (fld bs (4 * i) 4)) 16
    reg0 := ⟨u32 (fld bs 0x40 4), false⟩
    reg1 := ⟨u32 (fld bs 0x44 4), false⟩
    flag := fld bs 0x48 4 = 1
    lut := storeOf 0 (fun i => u32 (fld lut (4 * i) 4)) 256 }
def pieces (n : Nat) : Nat → List Nat → List (List Nat)
  | 0, _ => []
  | c + 1, l => l.take n :: pieces n c (l.drop n)

/-- Elements of a fragment's grid. -/
def Cmd.elems (k : Cmd) : Nat := 64 * k.h * k.w
/-- The image that a GCFG names, read at its start (R114, R305). -/
def gcfgImage (s : State) (k : Cmd) : Res (List Nat) := k.blocks s 128 (9 * k.elems) k.ga
/-- GCFG starts: the image is read in full and checked; what it says is loaded at the command's completion (R305). -/
def startGcfg (fw : Bool) (s : State) (home q : Nat) (k : Cmd) : State :=
  if (s.grid home).st = .running then cmdFault fw s home q k cMode 0 0
  else if k.ga.toNat % 128 != 0 then cmdFault fw s home q k cAlign k.ga 0
  else
    let k1 := k.keeps s 128 (9 * k.elems) k.ga
    let s1 := s.modCmd home q k.id (fun _ => k1)
    match gcfgImage s k1 with
    | .fail c a _ => cmdFault fw s1 home q k1 c a 0
    | .hold => s1
    | .ok bs =>
      if ((pieces 128 k.elems bs).zipIdx).any (fun e => badBlock k.h k.w e.2 e.1) then cmdFault fw s1 home q k1 cDesc 0 0
      else s1.modCmd home q k.id (fun k => { k with st := .started })
/-- GCFG loads the grid (R138). -/
def loadGrid (s : State) (home : Nat) (k : Cmd) (bs : List Nat) : State :=
  let blocks := pieces 128 k.elems bs
  let luts := pieces 1024 k.elems (bs.drop (128 * k.elems))
  let es : Store Elem := ((List.zip blocks luts).zipIdx).filterMap (fun e =>
    let x := elemOf e.1.1 e.1.2
    if x = Elem.reset then none else some (e.2, x))
  s.modGrid home (fun g => { g with
    h := k.h, w := k.w, st := .configured, image := k.ga, elems := es,
    ports := (g.ports.map (fun p => (p.1, { p.2 with q := [] }))).filter (fun p => decide (p.2 ≠ GPort.reset)) })
/-- A started GCFG completes. -/
def runGcfg (s : State) (home : Nat) (k : Cmd) : State :=
  match gcfgImage s k with
  | .ok bs => completeCmd (loadGrid s home k bs) k 1 0
  | _ => s

/-- GSTART (R138, R305): its token completes at quiescence. -/
def runGstart (s : State) (home q : Nat) (k : Cmd) : State :=
  if (s.grid home).st != .configured then cmdFault false s home q k cMode 0 0
  else (s.modCmd home q k.id (fun k => { k with st := .started })).modGrid home (fun g =>
    { g with st := .running, start := some k.id })

def cancelStream (seq : Nat) (s : State) (id : Nat) : State :=
  match s.cmd? seq 4 id with
  | none => s
  | some k => completeCmd s k (statusWord nCancelled k.prog) 0
/-- GSTOP (R305): streams and a pending GSTART end CANCELLED, an orderly end (R50). -/
def runGstop (s : State) (home : Nat) (k : Cmd) : State :=
  let g := s.grid home
  let ids := (g.ports.map (fun p => p.2.streams)).flatten
  let s1 := s.modUnit k.uid (fun u => { u with orderly := u.orderly ++ ids ++ g.start.toList })
  let s2 := s1.modGrid home (fun g => { Grid.reset with start := g.start })
  completeCmd (startToken (ids.foldl (cancelStream home) s2) home (statusWord nCancelled 0)) k 1 0

/-- GSPILL (R141, R305): it stays at the head where it waits for the first ring to empty; its block is read once
(R114). -/
def runGspill (fw : Bool) (s0 : State) (home q : Nat) (k0 : Cmd) : State :=
  let k := if k0.ga.toNat % 16 != 0 then k0 else k0.keep s0 k0.ga 16
  let s := s0.modCmd home q k.id (fun _ => k)
  if k.ga.toNat % 16 != 0 then cmdFault fw s home q k cAlign k.ga 0
  else match k.block s k.ga 16 with
    | .fail c a _ => cmdFault fw s home q k c a 0
    | .hold => s
    | .ok b =>
      let port := fld b 0 1
      let pane := fld b 1 1
      let base := fld b 4 4
      let n := fld b 8 4
      if port < 0x10 || 0x13 < port || k.h * k.w ≤ pane || fld b 2 2 != 0 || fld b 12 4 != 0 || base % 64 != 0
          || n % 64 != 0 || n < 64 || 2 ^ 24 * (k.h * k.w) < base + n then cmdFault fw s home q k cDesc 0 0
      else
        let key := 32 * pane + port
        let full := match ((s.grid home).port key).ring with
          | some r => !r.toks.isEmpty
          | none => false
        if full then s
        else completeCmd (s.modGrid home (fun g => g.modPort key (fun p => { p with ring := some ⟨base, n, [], 0⟩ }))) k 1 0

/- Streams (R139, R140, R333) -/

def strmIn (t : Tag) : Bool :=
  t == .fp32 || t == .i32 || t == .w32 || t == .bf16 || t == .fp16 || t == .e4m3 || t == .e5m2 || t == .ob8
def strmOut (t : Tag) : Bool := t == .fp32 || t == .i32 || t == .w32
/-- An input element as a token's value (R139). -/
def widen (t : Tag) (v : Nat) : W32 :=
  match t with
  | .bf16 => u32 (convert .fp32 .rne false (decodeFloat t v)).1
  | .fp16 => u32 (convert .fp32 .rne false (decodeFloat t v)).1
  | .e4m3 => u32 (convert .fp32 .rne false (decodeFloat t v)).1
  | .e5m2 => u32 (convert .fp32 .rne false (decodeFloat t v)).1
  | _ => u32 v

/-- A stream ends: the port's next stream attaches. -/
def endStream (s : State) (home : Nat) (k : Cmd) (st : W32) : State :=
  let key := k.cast.1
  completeCmd (s.modGrid home (fun g => g.modPort key (fun p => { p with streams := p.streams.filter (· != k.id) }))) k st 0

/-- A stream that has passed its checks is queued at its port, or waits at the head of GRD while that holds four. -/
def attach (s : State) (home q : Nat) (k : Cmd) : State :=
  let key := k.cast.1
  if 4 ≤ ((s.grid home).port key).streams.length then s.modCmd home q k.id (fun _ => k)
  else
    let k1 : Cmd := { k with st := .started }
    let s1 := (s.modCmd home q k.id (fun _ => k1)).modGrid home (fun g => g.modPort key (fun p =>
      { p with streams := p.streams ++ [k.id] }))
    if k.cast.2.2 = 1 && ((k.src.map Sd.count').getD 0) = 0 then endStream s1 home k1 (statusWord 0 0) else s1
/-- STRM starts: checks, then it is queued at its port, unless the port holds four streams. Its descriptor is read and
its pages are translated once (R114, R171). -/
def startStrm (fw : Bool) (s0 : State) (home q : Nat) (k0 : Cmd) : State :=
  let k := keepSd s0 k0 k0.ga
  let s := s0.modCmd home q k.id (fun _ => k)
  let sel := k.gb.toNat
  let port := sel % 256
  let pane := sel / 256 % 16
  let cont := sel / 4096 % 2 = 1
  let out := 16 ≤ port
  let key := 32 * pane + port
  if k.src.isSome then attach s home q k
  else if 8192 ≤ sel || !(port < 4 || (16 ≤ port && port < 20)) || k.h * k.w ≤ pane || (cont && out)
    then cmdFault fw s home q k cDesc 0 0
  else match (if out then readDst s k k.ga else readSd s k k.ga) with
    | .hold => s
    | .fail c a _ => cmdFault fw s home q k c a 0
    | .ok d =>
      if !(if out then strmOut d.fmt else strmIn d.fmt) then cmdFault fw s home q k cDesc 0 0
      else
        let p := passAll s k.who (fun j => [(if out then .engWrite else .engRead, (d.elem j).1, d.size)]) d.count' 0
          Pass.start
        let k1 : Cmd := { k with
          src := some d, xl := p.xl, bad := p.bad, blk := [],
          cast := (key, if cont then 1 else 0, if out then 1 else 0) }
        let inBank (j : Nat) : Bool := winOfRange s k.who (d.elem j).1 d.size == .acc
        if p.held then s
        else match p.mtype, p.bad with
          | some (_, a), _ => cmdFault false s home q k cMtype a 0
          | none, none => attach s home q k1
          | none, some (_, c, a) =>
            if out && (List.range d.count').any inBank then cmdFault false s home q k cPerm a 0
            else if fw && toFirmware s k c then cmdFault true s home q k c a 0
            else attach s home q k1

/-- Element at which the pass found a fault, with its cause. -/
def badAt (k : Cmd) : Option (Nat × Nat) := k.bad.map (fun b => (b.1, b.2.1))
/-- An uncorrectable error that ends a stream is counted (R249). -/
def countEcc (s : State) (c : Nat) : State := if c = cEcc then s.count (fun e => { e with uncorr := satInc e.uncorr }) else s
def bumpProg (s : State) (home q : Nat) (k : Cmd) : State := s.modCmd home q k.id (fun k => { k with prog := k.prog + 1 })
/-- An input stream delivers what its queue has room for, up to element `upto`. -/
def feedPort (home q id upto : Nat) : Nat → State → State
  | 0, s => s
  | n + 1, s =>
    match s.cmd? home q id with
    | none => s
    | some k => match k.src with
      | none => s
      | some d =>
        let key := k.cast.1
        let push (t : GTok) (s : State) : State := s.modGrid home (fun g => g.modPort key (fun p => { p with q := p.q ++ [t] }))
        let full := 16 ≤ ((s.grid home).port key).q.length
        if d.count' ≤ k.prog then
          if k.cast.2.1 = 1 then endStream s home k (statusWord 0 k.prog)
          else if full then s
          else endStream (push ⟨0, true⟩ s) home k (statusWord 0 k.prog)
        else if full || upto ≤ k.prog then s
        else match (match badAt k with
          | some (j, c) => if j = k.prog then Res.fail c 0 0 else readElem s k d k.prog
          | none => readElem s k d k.prog) with
          | .hold => s
          | .fail c _ _ => endStream (countEcc s c) home k (statusWord c k.prog)
          | .ok v => feedPort home q id upto n (bumpProg (push ⟨widen d.fmt v, false⟩ s) home q k)
/-- An output stream writes its port's tokens up to element `upto`, and on to the end of the aligned 8-byte granule where
they are there (R181); it ends when full or at a tag-1 token. -/
def drainPort (home q id upto : Nat) : Nat → State → State
  | 0, s => s
  | n + 1, s =>
    match s.cmd? home q id with
    | none => s
    | some k => match k.src with
      | none => s
      | some d =>
        let key := k.cast.1
        if d.count' ≤ k.prog then endStream s home k (statusWord 0 k.prog)
        else match ((s.grid home).port key).q with
          | [] => s
          | t :: rest =>
            let s1 := s.modGrid home (fun g => g.modPort key (fun p => { p with q := rest }))
            if t.t then endStream s1 home k (statusWord 0 k.prog)
            else if upto ≤ k.prog && granuleCut d k.prog then s
            else
              let (drop, s2) := if !d.dense && overlapsEarlier d k.prog then s1.pick 2 else (1, s1)
              match (match badAt k with
                | some (j, c) => if j = k.prog then Res.fail c 0 0
                    else if drop = 0 then .ok s2 else writeElem s2 k d k.prog t.v.toNat
                | none => if drop = 0 then .ok s2 else writeElem s2 k d k.prog t.v.toNat) with
              | .hold => s
              | .fail c _ _ => endStream (countEcc s2 c) home k (statusWord c k.prog)
              | .ok s3 => drainPort home q id upto n (bumpProg s3 home q k)
/-- The stream at the head of its port moves tokens (R139, R140). -/
def moveStrm (s : State) (home q : Nat) (k : Cmd) (upto : Nat) : State :=
  let p := (s.grid home).port k.cast.1
  if p.streams.head? != some k.id || s.stopping k.uid then s
  else if k.cast.2.2 = 1 then drainPort home q k.id upto (p.q.length + 1) s
  else feedPort home q k.id upto 18 s

/-- The spill engine moves one ring token to a free queue entry, or one chain row to a free FIFO entry. -/
def execSpillEngineMove (seq : Nat) (port : Option Nat) (s : State) : Out :=
  .next (match port with
    | some p => if s.stopping (Store.get 0 s.occ seq) then s else s.modGrid seq (fun g => g.modPort p (fun x => match x.ring with
      | some r => match r.toks with
        | t :: rest => if x.q.length < 16 then { x with q := x.q ++ [t], ring := some { r with toks := rest } } else x
        | [] => x
      | none => x))
    | none =>
      let t := s.land
      { t with chains := t.chains.map (fun c =>
        if c.src != seq then c
        else match c.rrows with
          | r :: rest => if c.fifo.length < 256 then { c with fifo := c.fifo ++ [r], rrows := rest } else c
          | [] => c) })

end Sys2Proof.Machine
end

