-- ==== Sys2Proof/Machine/Commands.lean ====
section
/-! DEFINITION. Starts and completions of queued commands (R80, R113, R116, R117, R127) and the end of a page
service by control-die firmware (R120, R221). -/
namespace Sys2Proof.Machine

/-- A command at the head of a queue other than the array queues starts. -/
def startOther (fw : Bool) (s : State) (home q : Nat) (k : Cmd) : State :=
  match k.op with
  | .arrive _ _ _ _ _ _ _ => runArrive fw s home q k
  | .xsend _ _ _ _ _ _ _ _ _ => startXsend fw s home q k
  | .xfetch _ _ _ _ _ _ => startXfetch fw s home q k
  | .strm _ _ _ _ _ _ _ => startStrm fw s home q k
  | .gcfg _ _ _ _ _ _ => startGcfg fw s home q k
  | .gstart _ _ _ _ _ => runGstart s home q k
  | .gstop _ _ _ _ _ => runGstop s home k
  | .gspill _ _ _ _ _ _ => runGspill fw s home q k
  | .kwatch _ _ _ _ _ _ _ => runKwatch fw s home q k
  | _ => startCpy fw s home q k

/-- The next command of a queue starts, or one that a faulted input ends completes (R117). -/
def startNext (s : State) (seq q : Nat) : State :=
  if q < 2 then
    let s1 := due s seq
    match inputBad (s1.queue seq q) with
    | some (k, d) => if s1.stops k then s1 else inheritFault s1 k d
    | none => startNextArray s1 seq
  else match inputBad (s.queue seq q) with
    | some (k, d) => if s.stopping k.uid then s else inheritFault s k d
    | none => match nextStart q (s.queue seq q) with
      | none => s
      | some k => if s.stopping k.uid then s else startOther true s seq q k
def execCommandStart (seq q : Nat) (s : State) : Out := .next (startNext s seq q)

/-- A stopping copy or send goes no further than its next 64 KiB boundary (R224). -/
def stopPoint (s : State) (k : Cmd) (upto : Nat) : Nat :=
  if s.stopping k.uid then min upto ((k.prog + 65535) / 65536 * 65536) else upto

/-- A started command goes on to `upto`, and completes when it is done. -/
def goOn (s : State) (seq q : Nat) (k : Cmd) (upto : Nat) : State :=
  if q < 2 then arrayCompletion s seq q k upto
  else if k.st != .started || k.page.isSome then s
  else match k.op with
    | .xsend _ _ _ _ _ _ _ _ _ => moveXsend s seq q k (stopPoint s k upto)
    | .xfetch _ _ _ _ _ _ => fabGoOn s k.id
    | .arrive _ _ _ _ _ _ _ => runArrive true s seq q k
    | .strm _ _ _ _ _ _ _ => moveStrm s seq q k upto
    | .gcfg _ _ _ _ _ _ => runGcfg s seq k
    | .kwatch _ _ _ _ _ _ _ => runKwatch true s seq q k
    | .gstart _ _ _ _ _ => s
    | _ => moveCpy s seq q k (stopPoint s k upto)
def execCommandCompletion (seq q id : Nat) (upto : Nat) (s : State) : Out :=
  .next (match s.cmd? seq q id with
    | none => s
    | some k => goOn s seq q k upto)

/- Page service -/

/-- Where a command stands. -/
def whereIs (s : State) (id : Nat) : Option (Nat × Nat × Cmd) :=
  s.frags.findSome? (fun e => e.2.q.findSome? (fun q =>
    (q.2.find? (fun k => k.id == id)).map (fun k => (e.1, q.1, k))))

/-- Firmware writes entries of the page tables: die, die-local address, the two words (R168, R221). -/
def writeEntries (s : State) : List (Nat × Nat × W64 × W64) → State
  | [] => s
  | (d, a, w0, w1) :: t =>
    writeEntries (if 12 ≤ d || a % 16 != 0 || dieBytes < a + 16 then s
      else eccFix (setBytes s (dramKey d a) (leList 8 w0.toNat ++ leList 8 w1.toNat)) (dramKey d a) 16) t

/-- Entries that the control die cannot write now: their die is in reset, or its link retrains (R14, R22). -/
def entriesHeld (s : State) (maps : Option (List (Nat × Nat × W64 × W64))) : Bool :=
  maps.any (fun es => es.any (fun e => heldBy s 15 e.1))
/-- The service ends: firmware maps the page by the entries it writes and the access is made again, or it declines and
the fault is taken (R120, R221). -/
def execFirmwarePageServiceDone (cid : Nat) (cmd : Option Nat) (maps : Option (List (Nat × Nat × W64 × W64))) (s : State) :
    Out :=
  .next (if entriesHeld s maps then s else match cmd with
    | none => match s.ctx? cid with
      | none => s
      | some c => match c.pfault with
        | none => s
        | some (cause, a, td, word) =>
          match maps with
          | some es => (writeEntries s es).modCtx cid (fun c => { c with pfault := none, wait := .none })
          | none => trap ((s.modCtx cid (fun c => { c with pfault := none })).switchTo cid) word cause a td
    | some id => match whereIs s id with
      | none => s
      | some (home, q, k) =>
        if k.page.isNone || (if q < 2 then s.stops k else s.stopping k.uid) then s
        else
          let s1 := s.modCmd home q id (fun k => { k with page := none })
          let k1 : Cmd := { k with page := none }
          match maps with
          | some es => writeEntries s1 es
          | none => if q < 2 then startArray false s1 home q k1 else startOther false s1 home q k1)

end Sys2Proof.Machine
end

