-- ==== Sys2Proof/Machine/Launches.lean ====
section
/-! DEFINITION. Launch parameter blocks and their checks (R16, R32, R33, R38), creation of entities (R25, R26,
R41), LAUNCH_ACCEPT (R309), graph nodes (R45 to R48), returned parts (R42, R209), freed fragments and counted
units (R49, R57). -/
namespace Sys2Proof.Machine

/- Checks of R33 -/

/-- Subcodes of the cause LAUNCH (R33). -/
abbrev sRange : Nat := 1
abbrev sFit : Nat := 2
abbrev sShape : Nat := 3
def rejected (sub : Nat) : W32 := statusWord cLaunch sub

def parseLpb (a : W64) (bs : List Nat) : Lpb :=
  let fl := fld bs 0x0F 1
  let bit (i : Nat) : Bool := fl / 2 ^ i % 2 = 1
  { addr := a, prog := u64 (fld bs 0 8), nunits := fld bs 8 4, shape := fld bs 0x0C 1, prio := fld bs 0x0D 1,
    pclass := fld bs 0x0E 1, gang := bit 0, replica := bit 1, resume := bit 2, shared := bit 3,
    diemask := fld bs 0x10 2, spbytes := fld bs 0x14 4, image := u64 (fld bs 0x18 8),
    lparam := (List.range 16).filterMap (fun i =>
      let v := u64 (fld bs (0x40 + 8 * i) 8)
      if v = 0 then none else some (i, v)) }

/-- Panes of a launch's shape. -/
def Lpb.hw (l : Lpb) : Nat × Nat := (shapeHW l.shape).getD (1, 1)
def Lpb.panes (l : Lpb) : Nat := l.hw.1 * l.hw.2
def Lpb.dies (l : Lpb) : List Nat := (List.range 12).filter (fun d => l.diemask / 2 ^ d % 2 = 1)
def Lpb.heat (l : Lpb) : Nat := heatPer l.pclass * l.panes

/-- Checks 2 to 6 of R33. The reserved bits [15:12] of DIEMASK (R16, R32) fail at check 4, with the field they stand in
(DESIGN CHOICE, assumption 102). -/
def checkLpb (l : Lpb) (bs : List Nat) : Option W32 :=
  if 16 ≤ fld bs 0x0F 1 || fld bs 0x12 2 != 0 || !zeroFrom bs 0x20 32 || !zeroFrom bs 0xC0 64 then some (rejected sRange)
  else if 8 < l.shape then some (rejected sShape)
  else if 7 < l.prio || 2 < l.pclass || l.prog.toNat % 8 != 0 || l.diemask = 0 || 4096 ≤ l.diemask
    then some (rejected sRange)
  else if 2 ^ 24 < l.nunits then some (rejected sRange)
  else if (l.gang && l.shared) || (l.replica && (l.resume || l.shared))
      || (l.resume && (l.nunits != 1 || l.image = 0 || l.image.toNat % 256 != 0)) || (l.image != 0 && !l.resume)
    then some (rejected sRange)
  else none

/-- NFRAG (R38) under the allowances in force. -/
def nfragOf (s : State) (l : Lpb) : Nat :=
  if l.shared then 1
  else
    let n := (l.dies.map (fun d =>
      if l.heat = 0 then 16 / l.panes else min (16 / l.panes) ((s.die d).heat / l.heat))).foldl (· + ·) 0
    if l.replica then n / 2 else n
/-- Checks 8 to 12 of R33; NUNITS = 0 is accepted before them. -/
def checkFit (s : State) (l : Lpb) : Option W32 :=
  if l.nunits = 0 then none
  else if 2 ^ 24 * l.panes < l.spbytes || (l.shared && 2 ^ 24 < l.spbytes) || (l.shared && l.panes < l.nunits)
      || (l.replica && l.dies.length < 2) || (l.gang && nfragOf s l < l.nunits)
      || l.dies.all (fun d => (s.die d).heat < l.heat) then some (rejected sFit)
  else none

/-- The LPB read once, with checks 1 to 6 of R33: the block, or what the launch is rejected with. -/
def readLpb (s : State) (w : Who) (a : W64) : Res (Except W32 Lpb) :=
  if a.toNat % 256 != 0 || globalSize ≤ a.toNat then .ok (.error (rejected sRange))
  else match readBlock s w .engRead a 256 with
    | .hold => .hold
    | .fail c _ _ => .ok (.error (statusWord c 0))
    | .ok bs => .ok (match checkLpb (parseLpb a bs) bs with
      | some st => .error st
      | none => .ok (parseLpb a bs))

/- Entities -/

/-- An entity whose ancestors are cancelled is cancelled from its creation (R232 step 1). -/
def cancelledUnder (s : State) : Nat → Nat → Bool
  | 0, _ => false
  | fuel + 1, e => match s.ent? e with
    | none => false
    | some x => x.cancelled || match x.parent with
      | none => false
      | some p => cancelledUnder s fuel p
def isCancelled (s : State) (e : Nat) : Bool := cancelledUnder s (s.ents.length + 1) e

/-- A new entity with a part of exponent `carried` (R40). -/
def newEnt (s : State) (lv : Level) (handle : W64) (job : W16) (parent : Option Nat) (carried queue : Nat)
    (record : Option (Nat × Nat × Bool)) : Nat × State :=
  let (id, s1) := s.fresh
  let c := (parent.map (isCancelled s)).getD false
  let e : Ent := ⟨lv, handle, job, parent, none, carried, 0, 0, false, false, if c then statusWord nCancelled 0 else 1, c,
    queue, record, [], []⟩
  (id, { s1 with ents := Tab.set s1.ents id e })

/-- An accepted launch (R60): ready at once; with NUNITS = 0 it completes at once. -/
def newLaunch (s : State) (lpb : Lpb) (handle : W64) (job : W16) (parent carried queue : Nat)
    (record : Option (Nat × Nat × Bool)) (slice : Option Slice) (token : Option Nat) : Nat × State :=
  let (lid, s1) := newEnt s .launch handle job (some parent) carried queue record
  let l : Launch := ⟨lpb, nfragOf s1 lpb, lid, 0, 0, none, s1.now, 0, 0, none, 0, [], [], slice, token, lpb.prio⟩
  let s2 := { s1 with launches := Tab.set s1.launches lid l }
  (lid, s2)
/-- A launch that is rejected keeps its handle (R25): its fault record is empty (R218). -/
def State.reject (s : State) (job : W16) (handle : W64) : State := { s with rejects := s.rejects ++ [(job, handle)] }
/-- A new launch has its own effective priority (R61): no other one changes (R62). One of no units is complete. -/
def settleLaunch (s : State) (lid : Nat) : State :=
  checkLaunch (s.modLaunch lid (fun l => { l with eff := priorityOf s lid l })) lid

/-- LAUNCH_ACCEPT (R309). A parent that has returned its reserve has no part left to lend (assumption 53). -/
def acceptLaunch (s : State) (p : PendLaunch) : State :=
  let fin (s : State) (st : W32) : State :=
    (({ s with pend := s.pend.filter (fun x => x.id != p.id) } : State).complete p.id ⟨st, p.pc, p.word⟩).reprioritise
  match readLpb s (Who.ctl p.ctxid (p.seq / 16)) p.lpb with
  | .hold => s
  | .fail c _ _ => fin s (statusWord c 0)
  | .ok r =>
    let (handle, s1) := newHandle s p.ctxid .launch
    match r with
    | .error st => fin ((s1.reject p.ctxid handle).countEcc st) st
    | .ok l => match checkFit s1 l with
      | some st => fin (s1.reject p.ctxid handle) st
      | none => match (if (s1.ent? p.lid).any (·.closed) then none else spawn? s1 p.lid) with
        | none => fin (s1.reject p.ctxid handle) (statusWord cWeight 0)
        | some (part, s2) =>
          let q := ((s2.ent? p.lid).map (·.queue)).getD 0
          let (lid, s3) := newLaunch s2 l handle p.ctxid p.lid part q none none (some p.id)
          settleLaunch { s3 with pend := s3.pend.map (fun x => if x.id = p.id then { x with child := some lid } else x) } lid
def execLaunchAccept (cid id : Nat) (s : State) : Out :=
  .next (match s.pend.find? (fun p => p.id == id && p.cid == cid) with
    | none => s
    | some p => if p.child.isSome || !inputsDone p.ins || isCancelled s p.lid then s else acceptLaunch s p)

/- Graphs -/

/-- Nodes that failed take their successors with them; the graph closes once nothing waits (R43, R48). -/
def settleGraph (s : State) (g : Nat) : State :=
  match Tab.get? s.graphs g with
  | none => s
  | some ns =>
    let ns1 := skipFrom ns.length ns
    let s1 := { s with graphs := Tab.set s.graphs g ns1 }
    if ns1.all (fun n => n.st != .waiting) then closeEnt s1 g else s1
def setNode (s : State) (g i : Nat) (st : NodeSt) : State :=
  match Tab.get? s.graphs g with
  | none => s
  | some ns => { s with graphs := Tab.set s.graphs g (ns.modify i (fun n => { n with st := st })) }
/-- The first failure that a graph's or phase's home receives (R48). -/
def noteFailure (s : State) (e : Nat) (st : W32) : State :=
  s.modEnt e (fun x => match x.level with
    | .launch => x
    | _ => if statusCode x.status = 0 then { x with status := st } else x)

/-- The entity's home has received a cancel that is still to be applied: what it does or receives later waits (R234). -/
def cancelPending (s : State) (ent : Nat) : Bool := s.cancels.any (fun c => c.ent == ent)
/-- A node whose predecessors are complete is checked and spawned; with no part to lend it waits (R41, R46). -/
def execGraphNodeSpawn (ent node : Nat) (s : State) : Out :=
  .next (match s.ent? ent, (Tab.get? s.graphs ent).bind (fun ns => (ns[node]?).map (fun n => (ns, n))) with
    | some g, some (ns, n) =>
      let ok := n.st == .waiting && !isCancelled s ent &&
        n.preds.all (fun p => (ns[p]?).any (fun m => m.st == .done))
      if !ok || cancelPending s ent then s
      else match spawn? s ent with
        | none => s
        | some (part, sp) =>
          let (handle, s1) := newHandle s g.job .launch
          match checkFit s1 n.lpb with
          | some st => (settleGraph (noteFailure (setNode s1 ent node .skipped) ent st) ent).reprioritise
          | none =>
            let (_, sp1) := newHandle sp g.job .launch
            let (lid, s2) := newLaunch sp1 n.lpb handle g.job ent part g.queue none none none
            let s3 := setNode s2 ent node (.live lid)
            settleGraph (settleLaunch s3 lid) ent
    | _, _ => s)

/- Weights -/

/-- A return of a part of exponent `c` (R42), a failure recorded, completion. -/
def returnPart (s : State) (ent c : Nat) (failed : Option W32) : State :=
  let s1 := match failed with
    | some st => noteFailure s ent st
    | none => s
  let s2 := s1.modEnt ent (fun x =>
    let (e, h) := lowerReserve x.e (x.h + partWorth c)
    { x with e := e, h := h })
  updateGraph (checkEnt s2 ent) ent
/-- A part comes home: inside the package from the list of returns, from another package once under its sequence
number, which the acknowledgement names, and only where no loss has ended its loan (R207, R209; its header's command field
holds the loan's number, assumption 84). -/
def execWeightReturn (src : PartSrc) (s : State) : Out :=
  .next (match src with
    | .here idx => match s.returns[idx]? with
      | none => s
      | some r =>
        if cancelPending s r.ent then s
        else returnPart { s with returns := s.returns.eraseIdx idx } r.ent r.exp r.failed
    | .away h ent exp failed => match s.intake 15 h (.weight ent exp failed) with
      | none => s
      | some (true, s1) => s1
      | some (false, s1) =>
        if cancelPending s ent then s
        else if appliedBefore s1 h then s1.reply 15 h (.ack h.seq)
        else
          let n := ((s1.ent? ent).map (fun e => Store.get 0 e.lent h.srcPkg)).getD 0
          let loan := ((s1.ent? ent).map (fun e => Store.get 0 e.losses h.srcPkg)).getD 0
          let s2 := (noteApplied s1 15 h).reply 15 h (.ack h.seq)
          if n < partWorth exp || h.cmd != loan then s2.count (fun e => { e with weight := satInc e.weight })
          else returnPart (s2.modEnt ent (fun e => { e with lent := Store.put 0 e.lent h.srcPkg (n - partWorth exp) }))
            ent exp (failed.map (fun c => statusWord c 0)))

/-- A phase of this package spawns a launch in another one: the packet carries the part's exponent (R209; what makes a
phase do so the spec does not say, assumption 84). -/
def lendPart (s : State) (ent pkg : Nat) (lpb : W64) : State :=
  match s.ent? ent with
  | none => s
  | some e =>
    if e.level != .phase || e.closed || e.complete || isCancelled s ent || pkg = s.pkg then s
    else match spawn? s ent with
      | none => s
      | some (part, s1) =>
        let s2 := s1.modEnt ent (fun e => { e with lent := Store.put 0 e.lent pkg (Store.get 0 e.lent pkg + partWorth part) })
        s2.sendSeq ⟨pkg, s2.hdr 15 e.job (Store.get 0 e.losses pkg) 0, .spawn ent part lpb⟩
/-- A launch that a phase of another package spawns here, of queue 0 (DESIGN CHOICE, assumption 84); one that is not
accepted returns its part at once. -/
def childHere (s : State) (h : FHdr) (ent exp : Nat) (lpb : W64) : State :=
  if h.srcPkg = s.pkg then s
  else match s.intake 15 h (.spawn ent exp lpb) with
  | none => s
  | some (true, s1) => s1
  | some (false, s1) =>
    if appliedBefore s1 h then s1
    else
      let back (s : State) (st : W32) : State :=
        s.sendReturn ⟨h.srcPkg, s.hdr 15 h.reqCtx h.cmd 0, .weight ent exp (some (statusCode st))⟩
      match s1.job? h.reqCtx with
      | none => back (noteApplied s1 15 h) (statusWord nCancelled 0)
      | some j => match readLpb s1 (Who.ctl h.reqCtx 15) lpb with
        | .hold => s
        | .fail c _ _ => back (noteApplied s1 15 h) (statusWord c 0)
        | .ok (.error st) => back ((noteApplied s1 15 h).countEcc st) st
        | .ok (.ok l) => match checkFit s1 l with
          | some st => back (noteApplied s1 15 h) st
          | none =>
            let (handle, s2) := newHandle (noteApplied s1 15 h) h.reqCtx .launch
            let (lid, s3) := newLaunch s2 l handle h.reqCtx j.ent exp 0 none none none
            settleLaunch (s3.modEnt lid (fun e => { e with away := some (h.srcPkg, ent, h.cmd) })) lid

/- Ends of units -/

/-- The panes that a unit occupies: in a shared launch those of the whole fragment with its slot-0 unit. -/
def occupied (s : State) (uid : Nat) : List Nat := (s.occ.filter (fun e => e.2 == uid)).map (·.1)
def vacate (s : State) (panes : List Nat) : State :=
  { s with occ := panes.foldl (fun o p => Store.put 0 o p 0) s.occ }
/-- A unit's fragment is free for the next unit (R49 step 4); its trailing commands keep their entries, and a chain that it
has closed is the source's no longer. -/
def freeFragment (s : State) (uid : Nat) : State :=
  let panes := occupied s uid
  let s1 := (vacate s panes).renameEnds (fun x => if panes.contains x then park 0 x else x)
  let keep (e : Nat × Frag) : Nat × Frag := if panes.contains e.1 then (e.1, { Frag.reset with q := e.2.q }) else e
  let s2 := { s1 with frags := (s1.frags.map keep).filter (fun e => decide (e.2 ≠ Frag.reset)) }
  s2.modUnit uid (fun u => { u with freed := true })

def unitsOf (s : State) (lid : Nat) : List (Nat × UnitRec) := s.units.filter (fun u => u.2.lid == lid)
def launchShared (s : State) (lid : Nat) : Bool := ((s.launch? lid).map (·.lpb.shared)).getD false
/-- The queues of a mask that an exited unit's fragment must drain; in a shared fragment only of its own commands. -/
def queuesDone (s : State) (uid : Nat) (u : UnitRec) (mask : BitVec 6) (own : Bool) : Bool :=
  (List.range 6).all (fun q => !mask.getLsbD q ||
    let home := if q < 2 then u.arr else u.seq
    if own then (s.queue home q).all (fun k => k.uid != uid) else (s.queue home q).isEmpty)

/-- FRAGMENT_FREE (R35, R49): every queue of the effective mask has drained, of earlier units' commands too. A unit
that is counted already leaves with its fragment. -/
def execFragmentFree (seq : Nat) (s : State) : Out :=
  let uid := Store.get 0 s.occ seq
  .next (match s.unit? uid with
    | none => s
    | some u =>
      if launchShared s u.lid then
        let us := unitsOf s u.lid
        if us.all (fun x => x.2.phase == .counted) then
          us.foldl (fun s x =>
            let s' := freeFragment s x.1
            { s' with units := Tab.erase s'.units x.1 }) s
        else s
      else if (u.phase = .exited || u.phase = .counted) && !u.freed && queuesDone s uid u u.mask false then
        let s1 := freeFragment s uid
        if u.phase = .counted then { s1 with units := Tab.erase s1.units uid } else s1
      else s)

/-- Commands that an image's record holds. -/
def Image.cmds (m : Image) : List Cmd := (m.frags.map (fun e => (e.2.q.map (·.2)).flatten)).flatten
/-- Nothing of an exited unit runs any more (R49 step 6), nor is saved with its shared fragment (R36). -/
def unitOver (s : State) (uid : Nat) (u : UnitRec) : Bool :=
  u.phase == .exited && queuesDone s uid u 63 true
    && s.units.all (fun x => x.2.image.all (fun m => m.cmds.all (fun k => k.uid != uid)))

/-- The image space of a unit goes back to its job's save area (R233). -/
def freeSpace (s : State) (lid uid : Nat) : State :=
  match (s.unit? uid).bind (·.space) with
  | some (a, _) => freeImage s (((s.ent? lid).map (·.job)).getD 0) a
  | none => s
/-- A unit that is counted: its record stays while it holds its fragment, since earlier units' commands may still
stand in a queue of its mask, or as long as its shared fragment does. -/
def retire (s : State) (lid uid : Nat) : State :=
  let s1 := freeSpace s lid uid
  if launchShared s lid || (s1.unit? uid).any (fun u => !u.freed && !(occupied s1 uid).isEmpty) then
    s1.modUnit uid (fun u => { u with phase := .counted, space := none })
  else { s1 with units := Tab.erase s1.units uid }
/-- One completion of a launch's unit is counted. -/
def countUnit (s : State) (lid : Nat) (uids : List Nat) : State :=
  let s1 := uids.foldl (fun s uid => retire s lid uid) s
  checkLaunch (s1.modLaunch lid (fun l => { l with done := l.done + 1 })) lid
/-- The other instance of a replica's unit, while it is to be counted (R57). -/
def otherInstance (s : State) (lid uid : Nat) : Bool :=
  match s.unit? uid with
  | none => false
  | some u => (unitsOf s lid).any (fun x => x.1 != uid && x.2.unit == u.unit && x.2.phase != .counted)
/-- A unit that ends without EXIT is counted; of two instances the one that ends last, since a unit is counted once
(R57, R222, R232). -/
def countGone (s : State) (lid uid : Nat) : State :=
  if otherInstance s lid uid then retire s lid uid else countUnit s lid [uid]

/-- UNIT_COMPLETION (R49 step 6); both instances of a replica, with the comparison of R57. -/
def execUnitCompletion (lid unit : Nat) (s : State) : Out :=
  let us := (unitsOf s lid).filter (fun u => u.2.unit == unit && u.2.phase != .counted)
  let replica := ((s.launch? lid).map (·.lpb.replica)).getD false
  .next (if us.isEmpty || !us.all (fun u => unitOver s u.1 u.2) || (replica && us.any (fun u => u.2.twin.isNone))
      || cancelPending s lid then s
  else
    let sigs := us.map (fun u => u.2.sig)
    let differ := replica && us.length = 2 && !us.any (fun u => u.2.killed) && !(sigs.all (fun x => some x == sigs.head?))
    let s1 := if differ then failLaunch s lid (statusWord cReplica 0) else s
    countUnit s1 lid (us.map (·.1)))

end Sys2Proof.Machine
end

