-- ==== Sys2Proof/Machine/Split.lean ====
section
/-! DEFINITION. Splitting and joining the array (R102 to R104, R303), chains between fragments (R105, R293,
R340), and EXIT (R49, R300). -/
namespace Sys2Proof.Machine

/-- A chain from or to a fragment is open (R340). -/
def chainAt (s : State) (seq : Nat) : Bool := s.chains.any (fun c => c.src == seq || c.dst == seq)

/- FSPLIT and FFUSE -/

/-- What a split or a join leaves of a fragment's array state and grid (R103, R104). -/
def Frag.resized (f : Frag) (h w : Nat) : Frag :=
  { f with
    h := h, w := w, plane0 := Plane.reset, plane1 := Plane.reset, active := false, edge0 := EdgeCfg.reset,
    edge1 := EdgeCfg.reset, lastQ := none, int0 := false, int1 := false, grid := Grid.reset }

/-- Pane rows and columns of each half, and the pane offset of the half split off (R102). -/
def halfOf (col : Bool) (c : Ctx) : Nat × Nat × Nat :=
  if col then (c.h, c.w / 2, c.w / 2) else (c.h / 2, c.w, 4 * (c.h / 2))

/-- The context that a split creates, in the state of R31. -/
def companionOf (s : State) (c : Ctx) (col : Bool) (entry param : W64) (cid id start : Nat) : Ctx :=
  let (h, w, off) := halfOf col c
  let j := s.job? c.ctxid
  { Ctx.reset with
    cid := cid, phase := .running, uid := c.uid, lid := c.lid, compid := id, unit := c.unit, sec := c.sec,
    seq := c.seq + off, arr := c.seq + off, h := h, w := w, pc := entry,
    g := Store.put 0 (Store.put 0 [] 1 (u64 c.unit)) 2 param,
    nunits := c.nunits, lhandle := c.lhandle, nfrag := c.nfrag, lparam := c.lparam,
    tvec := (j.map (·.tvec)).getD 0, pfh := (j.map (·.pfh)).getD false, sscr := (j.map (·.sscr)).getD 0,
    ctxid := c.ctxid, notBefore := start }

/-- The split takes effect (R103). -/
def splitNow (s : State) (col : Bool) (entry param : W64) : State :=
  let c := s.cur
  let (h, w, off) := halfOf col c
  let start := s.now + 64 * (s.die (c.seq / 16)).tpc
  let id := ((s.unit? c.uid).map (·.ncomp)).getD 0 + 1
  let (cid, s1) := s.fresh
  let d := companionOf s1 c col entry param cid id start
  let s2 := s1.modUnit c.uid (fun u => { u with ncomp := id, cids := u.cids ++ [cid] })
  let s3 := (s2.modFrag c.seq (fun f => f.resized h w)).modFrag (c.seq + off) (fun f =>
    { Frag.reset with h := h, w := w, q := f.q })
  let s4 := s3.setCur (fun c => { c with h := h, w := w, splits := (cid, col) :: c.splits, notBefore := start })
  advance { s4 with others := insertCtx d s4.others }

/-- R102, R303: the checks are made once the six queues have drained. -/
def execFsplit (gd : Guard) (d a : GReg) (col : Bool) (s : State) : Out :=
  issue gd s (fun s =>
    let c := s.cur
    let w := wordOf (.fsplit gd d a col)
    let e := c.rg a
    if !allDrained s c then stall s .stall
    else if (if col then c.w else c.h) < 2 || isShared s || chainAt s c.seq
        || 15 ≤ ((s.unit? c.uid).map (·.ncomp)).getD 0 then trap0 s w cShape
    else if e.toNat % 8 != 0 then trap s w cAlign e 3
    else if !isGlobal e then trap s w cWindow e 3
    else splitNow s col e (c.rg d))

/-- Banks that become inner when two halves join are set to +0 (R104). -/
def clearInner (s : State) (seq h w : Nat) : State := clearBanks s (panesOf seq (h - 1) w)

/-- The join takes effect (R104): `d` is the companion whose half comes back. -/
def joinNow (s : State) (d : Ctx) (col : Bool) : State :=
  let c := s.cur
  let h := if col then c.h else 2 * c.h
  let w := if col then 2 * c.w else c.w
  let s1 := clearInner s c.seq h w
  let s2 := (s1.modFrag c.seq (fun f => f.resized h w)).modFrag d.seq (fun f => { Frag.reset with q := f.q })
  let s3 := s2.modUnit c.uid (fun u => { u with cids := u.cids.filter (· != d.cid) })
  let s4 := { s3 with others := s3.others.filter (fun x => x.cid != d.cid) }
  s4.setCur (fun c => { c with h := h, w := w, splits := c.splits.drop 1, aflags := c.aflags ||| d.aflags })

/-- The companion has executed EXIT, and its queues and those of the context that moves have drained. -/
def joinReady (s : State) (d : Ctx) : Bool := d.phase == .exited && allDrained s d && allDrained s s.cur

def execFfuse (gd : Guard) (s : State) : Out :=
  issue gd s (fun s =>
    let c := s.cur
    let w := wordOf (.ffuse gd)
    match c.splits with
    | [] => trap0 s w cShape
    | (cid, col) :: _ => match s.ctx? cid with
      | none => trap0 s w cShape
      | some d =>
        if c.wait != .begun && (chainAt s c.seq || chainAt s d.seq) then trap0 s w cShape
        else if joinReady s d && !chainAt s c.seq then advance (joinNow s d col)
        else stall s .begun)

/- Chains -/

/-- Whether the chains that go on from a fragment lead to another. -/
def leadsTo (s : State) (goal : Nat) : Nat → Nat → Bool
  | 0, _ => false
  | fuel + 1, at' =>
    at' == goal || match s.chains.find? (fun c => c.src == at') with
      | none => false
      | some c => leadsTo s goal fuel c.dst

/-- A context of the launch whose fragment has a pane as its origin. -/
def heldOrigin (s : State) (c : Ctx) (seq : Nat) : Bool :=
  s.ctxs.any (fun d => d.seq == seq && d.lid == c.lid && (d.phase == .running || (d.phase == .stopped &&
    !((s.unit? d.uid).map (·.killed)).getD true)))

/-- Bytes of the chain rows that a fragment's valid planes would send now, rounded up to 64 (R106). R106 does not say which
row size counts at CHAIN: that of the active plane, in dual-queue mode of both, is taken, and none where no such plane is
valid (DESIGN CHOICE, assumption 80). -/
def rowSizes (f : Frag) : List Nat :=
  let size (p : Plane) (e : EdgeCfg) : List Nat := if p.valid then [(p.n * elemBytes e.ofmt + 63) / 64 * 64] else []
  if f.dual then size f.plane0 f.edge0 ++ size f.plane1 f.edge1
  else size (if f.active then f.plane1 else f.plane0) f.edge0
/-- The spill block of a CHAIN (R106): ring offset and bytes. No ECC fault is among CHAIN's (R274, R293). -/
def spillBlock (s : State) (off : Nat) : Res (Nat × Nat) :=
  let c := s.cur
  let a := u64 (spBase + off)
  if off % 16 != 0 then .fail cAlign a 0
  else (readBlock { s with ecc := [] } c.who .load a 16).bind (fun b =>
    let base := fld b 0 4
    let n := fld b 4 4
    if base % 64 != 0 || n % 64 != 0 || n = 0 || !zeroFrom b 8 8 || 2 ^ 24 * (c.h * c.w) < base + n
        || (rowSizes (s.frag c.arr)).any (fun r => n < r) then .fail cDesc 0 0
    else .ok (base, n))

def openChain (s : State) (dst : Nat) (ring : Option (Nat × Nat)) : State :=
  advance { s with chains := s.chains ++ [⟨s.cur.seq, dst, [], false, [], ring, [], 0, none⟩] }

/-- CHAIN (R293): the checks follow the stall. -/
def execChain (gd : Guard) (a : GReg) (spill : Bool) (off : BitVec 28) (s : State) : Out :=
  issue gd s (fun s =>
    let c := s.cur
    let w := wordOf (.chain gd a spill off)
    let d := (c.rg a).toNat
    let dst := 16 * (c.seq / 16) + d
    if s.chains.any (fun x => x.src == c.seq || (d < 16 && x.dst == dst)) then stall s .stall
    else if 15 < d || !heldOrigin s c dst || dst = c.seq || leadsTo s c.seq (s.chains.length + 1) dst || isShared s
      then trap0 s w cShape
    else if spill then
      match spillBlock s off.toNat with
      | .ok r => openChain s dst (some r)
      | .fail cause x td => if cause = cDesc then trap0 s w cDesc else accessFault s w cause x td
      | .hold => stall s .stall
    else openChain s dst none)

def execUnchain (gd : Guard) (s : State) : Out :=
  issue gd s (fun s => advance (s.unchain s.cur.seq))

/- EXIT -/

/-- Active watches of a fragment complete nothing and leave their queue (R300). -/
def withdrawWatches (s : State) (seq : Nat) : State :=
  ((s.queue seq 5).filter (fun k => k.st == .started)).foldl (fun s k => s.dropCmd k.id) s

/-- What an EXIT does to the context that moves before it ends: barriers, chains, watches, WC stores (R300). -/
def leaveAll (s : State) : State :=
  let c := s.cur
  let s1 := (s.leaveBarriers c).unchain c.seq
  withdrawWatches ((s1.cutInput c.seq).flush c.cid) c.seq

/-- A companion ends; FFUSE still reads its AFLAGS (R104). -/
def exitCompanion (s : State) : State := (leaveAll s).setCur (fun c => { c with phase := .exited, wait := .none })

/-- A unit ends: its trailing commands run on under the mask of R49. -/
def exitUnit (s : State) (mask : BitVec 6) : State :=
  let c := s.cur
  let s1 := leaveAll s
  let s2 := if isShared s then releaseLease s1 c else s1
  (s2.modUnit c.uid (fun u => { u with
    phase := .exited, mask := mask ||| 0x13, cids := [], rmodes := Store.put 0 u.rmodes c.cid c.rmode })).dropCtxs [c.cid]

def execExit (gd : Guard) (mask : BitVec 6) (s : State) : Out :=
  issue gd s (fun s =>
    let c := s.cur
    match c.splits with
    | (cid, col) :: _ => match s.ctx? cid with
      | none => stall s .stall
      | some d => if joinReady s d then stall (joinNow s d col) .stall else stall s .stall
    | [] =>
      if !(s.flush c.cid).cur.wc.isEmpty then stall (s.flush c.cid) .stall
      else if c.compid = 0 then exitUnit s mask else exitCompanion s)

end Sys2Proof.Machine
end

