-- ==== Sys2Proof/Machine/Images.lean ====
section
/-! DEFINITION. Fragments taken by a unit (R29, R30), save areas and image sizes (R222, R228), the stop of a unit
(R224), YIELD (R223, R362). -/
namespace Sys2Proof.Machine

/- A fragment for a unit -/

def setPanes (m : Store Nat) (ps : List Nat) (v : Nat) : Store Nat := ps.foldl (fun m p => Store.put 0 m p v) m
/-- Zero in a pane's scratchpad. -/
def clearPad (s : State) (p : Nat) : State :=
  eccFix { s with mem := Store.clear s.mem (spKey p 0) (spKey p 0 + 2 ^ 24) } (spKey p 0) (2 ^ 24)
/-- Panes taken for a job: scratchpads that another job ran on are cleared (R30), banks hold +0, array, grid and edge
units stand as in R29; trailing commands keep their entries. Where only some panes of a fragment last ran the job, those
keep their bytes and the others are cleared, pane by pane (DESIGN CHOICE, assumption 101). -/
def takePanes (s : State) (job : W16) (uid : Nat) (ps : List Nat) (keepPad : Bool) : State :=
  let owner := job.toNat + 1
  let s1 := ps.foldl (fun s p => if keepPad && Store.get 0 s.spOwner p = owner then s else clearPad s p) s
  let s2 := clearBanks s1 ps
  ps.foldl (fun s p => s.modFrag p (fun f => { Frag.reset with q := f.q }))
    { s2 with occ := setPanes s2.occ ps uid, spOwner := setPanes s2.spOwner ps owner, accVis := setPanes s2.accVis ps 0 }

/-- A unit's context in the state of R29. -/
def unitCtx (s : State) (lid uid cid unit : Nat) (sec : Bool) (seq arr h w slot : Nat) : Ctx :=
  match s.launch? lid, s.ent? lid with
  | some l, some e =>
    let j := s.job? e.job
    { Ctx.reset with
      cid := cid, phase := .running, uid := uid, lid := lid, unit := unit, sec := sec, seq := seq, arr := arr, h := h,
      w := w, slot := slot, notBefore := s.now, pc := l.lpb.prog,
      g := Store.put 0 (Store.put 0 [] 1 (u64 unit)) 2 l.lpb.addr, nunits := l.lpb.nunits, lhandle := e.handle,
      nfrag := l.nfrag, lparam := l.lpb.lparam, tvec := (j.map (·.tvec)).getD 0, pfh := (j.map (·.pfh)).getD false,
      sscr := (j.map (·.sscr)).getD 0, ctxid := e.job }
  | _, _ => Ctx.reset

/- Save area and sizes -/

def pad4k (n : Nat) : Nat := (n + 4095) / 4096 * 4096
/-- A unit's contexts in COMPID order; a companion that has exited still holds its half. -/
def ctxsOf (s : State) (u : UnitRec) : List Ctx :=
  u.cids.filterMap (fun i => s.ctx? i)

/-- The slot whose image carries the state of a shared fragment: 0 (R36), or the lowest of the units that have not exited
(DESIGN CHOICE, assumption 96). -/
def leadSlot (s : State) (lid : Nat) : Nat :=
  (((unitsOf s lid).filter (fun u => !(u.2.phase == .exited || u.2.phase == .counted))).map (·.2.unit)).min?.getD 0
/-- Bytes of a context's accumulator section: in a shared launch only one unit's image carries the bank (R36). -/
def accBytes (s : State) (shared : Bool) (c : Ctx) : Nat :=
  let f := s.frag c.arr
  if shared && c.slot != leadSlot s c.lid then 0 else 2 * min c.acclive.toNat f.arows * (4 * f.nmax)
def padBytes (c : Ctx) : Nat := c.h * c.w * c.splive.toNat
/-- Weight-plane bytes: 2 planes of 2 bytes for each PE of the placed fragment (R225). -/
def planeBytes (s : State) (u : UnitRec) (shared : Bool) (cs : List Ctx) : Nat :=
  if shared then
    (if cs.any (fun c => c.slot = leadSlot s u.lid) then 65536 * ((s.launch? u.lid).map (·.lpb.panes)).getD 0 else 0)
  else 65536 * (u.h * u.w)
/-- BYTES of a full image (R228). -/
def imageBytes (s : State) (u : UnitRec) : Nat :=
  let cs := ctxsOf s u
  let sh := launchShared s u.lid
  cs.length * 65536 + planeBytes s u sh cs + ((cs.map (fun c => pad4k (accBytes s sh c))).foldl (· + ·) 0)
    + ((cs.map (fun c => pad4k (padBytes c))).foldl (· + ·) 0) + 256 * 64 * (u.h * u.w)

def apartFrom (a n : Nat) (x : Nat × Nat) : Bool := a + n ≤ x.1 || x.1 + x.2 ≤ a
/-- The lowest 4 KiB boundary of a job's save area with room for an image (assumption 21). -/
def findRoom (j : Job) (n : Nat) : Option Nat :=
  let starts := (j.saveAddr :: j.allocs.map (fun a => a.1 + a.2)).map pad4k
  let ok := starts.filter (fun a => a + n ≤ j.saveAddr + j.saveLen && j.allocs.all (apartFrom a n))
  ok.foldl (fun m a => match m with
    | none => some a
    | some b => some (min a b)) none
/-- Space for an image of a unit: what it holds, if that is enough, else new space (R222, R233). -/
def takeSpace (s : State) (uid n : Nat) : Option State :=
  match s.unit? uid with
  | none => none
  | some u => match u.space with
    | some (_, len) => if n ≤ len then some s else none
    | none =>
      let job := ((s.ent? u.lid).map (·.job)).getD 0
      match (s.job? job).bind (fun j => findRoom j n) with
      | none => none
      | some a => some ((s.modJob job (fun j => { j with allocs := j.allocs ++ [(a, pad4k n)] })).modUnit uid
          (fun u => { u with space := some (a, pad4k n) }))
/-- As `takeSpace`; space that is too small is given back first. -/
def takeRoom (s : State) (uid n : Nat) : Option State :=
  match takeSpace s uid n with
  | some t => some t
  | none => match (s.unit? uid).bind (·.space), s.unit? uid with
    | some (a, _), some u =>
      takeSpace ((freeImage s (((s.ent? u.lid).map (·.job)).getD 0) a).modUnit uid (fun u => { u with space := none })) uid n
    | _, _ => none

/- Stops -/

/-- Units whose fragments a unit's chains reach (R109). -/
def chainMates (s : State) (us : List Nat) : List Nat :=
  let unitAt (p : Nat) : Nat := Store.get 0 s.occ p
  (s.chains.map (fun c => (unitAt c.src, unitAt c.dst))).foldl (fun acc e =>
    let add (x : Nat) (l : List Nat) : List Nat := if x = 0 || l.contains x then l else l ++ [x]
    if acc.contains e.1 then add e.2 acc else if acc.contains e.2 then add e.1 acc else acc) us
def chainClosure (s : State) : Nat → List Nat → List Nat
  | 0, us => us
  | n + 1, us => chainClosure s n (chainMates s us)
def chainGroup (s : State) (uid : Nat) : List Nat := chainClosure s (s.chains.length + 1) [uid]
/-- Everything that stops with a unit (R69): its whole gang or shared launch, the units joined to it by chains. -/
def victimGroup (s : State) (uid : Nat) : List Nat :=
  match s.unit? uid with
  | none => []
  | some u =>
    let l := s.launch? u.lid
    if (l.map (fun l => l.lpb.gang || l.lpb.shared)).getD false then
      ((unitsOf s u.lid).filter (fun x => !(x.2.phase == .exited || x.2.phase == .counted))).map (·.1)
    else chainGroup s uid

/-- Full pre-emption of units begins at their instruction boundaries (R224), or none where an image does not fit. -/
def stopEach (s0 s : State) : List Nat → Option State
  | [] => some s
  | uid :: t => match s.unit? uid with
    | none => stopEach s0 s t
    | some u =>
      if !(u.phase == .running || u.phase == .window) then stopEach s0 s t
      else match takeRoom s uid (imageBytes s u) with
        | none => none
        | some s1 =>
          stopEach s0 ((stopContexts s1 u).modUnit uid (fun u => { u with
            phase := .quiescing, deadline := s.now, stop := s.now, mates := chainGroup s0 uid })) t
def stopAll (s : State) (us : List Nat) : Option State := stopEach s s us

/-- A YIELD that has begun its drain ends as a yield pre-emption (R362). -/
def yielding (s : State) (u : UnitRec) : Bool :=
  u.cids.any (fun i => (s.ctx? i).any (fun c => c.compid = 0 && c.splits.isEmpty && c.wait == .begun))

/-- The window ends (R70); what is pre-empted as a whole stops together (R69, R74, R109), but for a unit whose YIELD has
begun. -/
def execYieldWindowExpiry (cid : Nat) (s : State) : Out :=
  .next (match (s.ctx? cid).bind (fun c => (s.unit? c.uid).map (fun u => (c.uid, u))) with
    | none => s
    | some (uid, u) =>
      if u.phase != .window || s.now < u.deadline || yielding s u then s
      else (stopAll s ((victimGroup s uid).filter (fun x => !(s.unit? x).any (yielding s)))).getD s)

/-- YIELD (R362): without a decision for the context, or where it may not act, it only goes on. -/
def execYield (gd : Guard) (n : BitVec 6) (s : State) : Out :=
  issue gd s (fun s =>
    let c := s.cur
    match s.unit? c.uid with
    | none => advance s
    | some u =>
      let named := u.phase == .window && (s.now < u.deadline || c.wait == .begun)
      if !named || c.compid != 0 || !c.splits.isEmpty || chainAt s c.seq || isShared s then advance s
      else if !allDrained s c then stall s .begun
      else
        let bytes := 64 + 8 * n.toNat
        match takeRoom s c.uid bytes with
        | none => stall s .begun
        | some s1 =>
          let a := (((s1.unit? c.uid).bind (·.space)).map (·.1)).getD 0
          (stopContexts s1 u).modUnit c.uid (fun u => { u with
            phase := .writing, deadline := s.now, stop := s.now
            image := some ⟨a, bytes, some n.toNat, shapeCode u.h u.w, true, c.uid, u.seq, [], [], []⟩ }))

/-- Rows of a running MMA that have entered at the stop, and the next one (R224): of a chain input's the row after those
taken, named when the stop is first seen to (`ragN`). -/
def cutRows (s : State) (arr : Nat) (k : Cmd) (stop : Nat) : Nat :=
  if (mmaFlags k).2.2.1 then (if k.ragN = 0 then min k.cast.2.1 (k.prog + 1) else k.ragN)
  else min k.cast.2.1 (k.cast.2.1 - (k.ready - stop + tickOf s arr - 1) / tickOf s arr + 1)
/-- Rows of a running ADRAIN that have entered the edge unit at the stop, and the next one (R224). -/
def drainRows (s : State) (arr : Nat) (k : Cmd) (stop : Nat) : Nat := min k.cast.2.2 (rowsDrained s arr k stop + 1)
/-- A started command goes on to its stop point (R224). 2 µs after the stop every marker returns (R229). -/
def toStopPoint (s : State) (home q stop : Nat) (k : Cmd) : State :=
  let last := decide (stop + 2 * ticksPerUs ≤ s.now)
  if k.page.isSome then s
  else if k.st = .passed then (if last && inFlight s k.id == 0 then finishPassed s home k else s)
  else if k.st != .started then s
  else match k.op with
    | .mma _ _ _ _ _ _ _ _ _ _ _ _ =>
      let hi := cutRows s home k stop
      let s0 := if (mmaFlags k).2.2.1 then s.modCmd home q k.id (fun k => { k with ragN := hi }) else s
      let s1 := runRows home q k.id hi (hi - k.prog + 1) s0
      match s1.cmd? home q k.id with
      | none => s1
      | some k1 => if mmaOver k1 then passMma s1 home q k1 else s1
    | .adrain _ _ _ _ _ _ _ _ => moveAdrain true s home q k (drainRows s home k stop * k.rowBytes)
    | .wload _ _ _ _ _ _ _ _ => if last then finishPassed (freeArray s home) home { k with fin := some Done.ok } else s
    | .gcfg _ _ _ _ _ _ => runGcfg s home k
    | .xcopy _ _ _ _ _ _ _ _ => moveCpy s home q k (stopPoint s k (2 ^ 31))
    | .xcast _ _ _ _ _ _ _ _ => moveCpy s home q k (stopPoint s k (2 ^ 31))
    | .xred _ _ _ _ _ _ _ _ => moveCpy s home q k (stopPoint s k (2 ^ 31))
    | .xsend _ _ _ _ _ _ _ _ _ => moveXsend s home q k (stopPoint s k (2 ^ 64))
    | _ => if last && isBrief k then briefEffect s home k else s
/-- A command of a queue that stops with a unit: its own, and with the one whose image carries a shared fragment every array
command of the launch, also of units that have exited (R36). -/
def stopsWith (s : State) (uid : Nat) (u : UnitRec) (q : Nat) (k : Cmd) : Bool :=
  k.uid == uid || (q < 2 && k.lid == u.lid && !u.killed && launchShared s u.lid && u.unit == leadSlot s u.lid)
/-- Where each of some commands stands. -/
def placesOf (s : State) (p : Nat → Cmd → Bool) : List (Nat × Nat × Cmd) :=
  (s.frags.map (fun e => (e.2.q.map (fun q => (q.2.filter (p q.1)).map (fun k => (e.1, q.1, k)))).flatten)).flatten
def toStopPoints (s : State) (stop : Nat) : List (Nat × Nat × Cmd) → State
  | [] => s
  | (home, q, c) :: t => match s.cmd? home q c.id with
    | none => toStopPoints s stop t
    | some k => toStopPoints (toStopPoint s home q stop k) stop t

/-- A command whose marker cannot return yet. Rows that find FIFO and ring full wait at the edge unit (R108), and are saved
with the chain. -/
def unstopped (s : State) (stop : Nat) (k : Cmd) : Bool :=
  (k.st == .passed && inFlight s k.id == 0) || (k.st == .started && match k.op with
    | .mma _ _ _ _ _ _ _ _ _ _ _ _ => false
    | .adrain _ _ _ _ _ _ _ _ => decide (k.prog < drainRows s k.arr k stop * k.rowBytes)
    | .xcopy _ _ _ _ _ _ _ _ => k.prog % 65536 != 0
    | .xcast _ _ _ _ _ _ _ _ => k.prog % 65536 != 0
    | .xred _ _ _ _ _ _ _ _ => k.prog % 65536 != 0
    | .xsend _ _ _ _ _ _ _ _ _ =>
      !((s.fabCmd? k.id).map (fun f => f.answered && k.prog % 65536 = 0)).getD true
    | .xfetch _ _ _ _ _ _ => false
    | .strm _ _ _ _ _ _ _ => false
    | .gstart _ _ _ _ _ => false
    | .kwatch _ _ _ _ _ _ _ => false
    | _ => k.page.isNone)
/-- Rows that are still on their way to an edge unit of a unit's fragments, bytes of stores still held (R174), or a
vector store that a held home keeps from its end (R14, R22, R180). -/
def unsettled (s : State) (u : UnitRec) : Bool :=
  (ctxsOf s u).any (fun c => !c.wc.isEmpty || c.vec.isSome || s.chains.any (fun x => x.src == c.seq && !x.flight.isEmpty && !x.stuck))
/-- A command as it starts again from its progress (R230). -/
def Cmd.requeue (k : Cmd) : Cmd :=
  { k with
    st := .queued, src := none, dsts := [], blk := [], cast := (0, 0, 0), tgt := none, order := none, xl := [],
    bad := none, ragN := 0, ragC := false, fin := none, ready := 0, page := none }
/-- A command stopped at its progress, that of an ADRAIN in rows (R224). -/
def Cmd.saved (k : Cmd) : Cmd :=
  if k.st = .passed then k
  else match k.op with
  | .xfetch _ _ _ _ _ _ => k
  | .strm _ _ _ _ _ _ _ => k
  | .gstart _ _ _ _ _ => k
  | .kwatch _ _ _ _ _ _ _ => { k with page := none }
  | .adrain _ _ _ _ _ _ _ _ =>
    if k.st = .started then { k.requeue with prog := k.prog / max 1 k.rowBytes } else k.requeue
  | _ => k.requeue
/-- Some commands of a fragment's queues changed; none of them occupies the array any more. -/
def Frag.mapWhere (p : Nat → Cmd → Bool) (g : Cmd → Cmd) (f : Frag) : Frag :=
  let ids := (f.q.map (fun e => e.2.filter (p e.1))).flatten.map (·.id)
  { f with
    q := f.q.map (fun e => (e.1, e.2.map (fun k => if p e.1 k then g k else k)))
    cur := match f.cur with
      | some i => if ids.contains i then none else some i
      | none => none }

/-- A unit that was stopped without an image ends: no context, command or fabric command of it is left. -/
def endKilled (s : State) (uid : Nat) (u : UnitRec) : State :=
  let s1 := (dropFab s ((unitCmds s uid).map (·.id))).dropWhere (Cmd.ofUnit uid)
  let s2 := (u.cids.filterMap (fun i => s.ctx? i)).foldl (fun s c => { s with
    chains := s.chains.filter (fun x => x.src != c.seq || x.marker.isSome) }) s1
  (s2.dropCtxs u.cids).modUnit uid (fun u => { u with phase := .exited, mask := 63, cids := [], image := none })

/-- The units whose images are written together: a shared launch, or units joined by chains (R74, R109). -/
def together (s : State) (uid : Nat) (u : UnitRec) (ph : UPhase) : List Nat :=
  let all := uid :: (if launchShared s u.lid then (unitsOf s u.lid).map (·.1) else u.mates).filter (· != uid)
  all.filter (fun x => (s.unit? x).any (fun r => r.phase == ph && !r.killed && r.image.isNone))
/-- The commands of a unit go to their stop points; every token that is due completes; held stores become visible. -/
def settleStop (s : State) (uid : Nat) : State :=
  match s.unit? uid with
  | none => s
  | some u =>
    let arrs := (u.arr :: (ctxsOf s u).map (·.arr)).eraseDups
    let s1 := toStopPoints (arrs.foldl due s) u.stop (placesOf s (stopsWith s uid u))
    u.cids.foldl (fun s cid => (s.endPart cid).flush cid) (arrs.foldl due s1)
/-- Markers of a unit that cannot return yet (R224). -/
def stillStopping (s : State) (uid : Nat) : Bool :=
  (s.unit? uid).any (fun u => (placesOf s (stopsWith s uid u)).any (fun x => unstopped s u.stop x.2.2) || unsettled s u)
/-- A unit whose markers have all returned: its image is to be written. -/
def markStopped (s : State) (uid : Nat) : State :=
  let p (q : Nat) (k : Cmd) : Bool := (s.unit? uid).any (fun u => stopsWith s uid u q k)
  let sends := ((unitCmds s uid).filter (fun k => match k.op with
    | .xsend _ _ _ _ _ _ _ _ _ => true
    | _ => false)).map (·.id)
  let s1 : State := { s with
    frags := s.frags.map (fun e => (e.1, e.2.mapWhere p Cmd.saved))
    fab := { s.fab with cmds := s.fab.cmds.filter (fun f => !sends.contains f.id) } }
  s1.modUnit uid (fun u => { u with phase := .writing, deadline := s.now })

/-- QUIESCE_COMPLETE (R224): the commands are at their stop points and every marker returns. -/
def execQuiesceComplete (cid : Nat) (s : State) : Out :=
  .next (match (s.ctx? cid).bind (fun c => (s.unit? c.uid).map (fun u => (c.uid, u))) with
    | none => s
    | some (uid, u) =>
      if u.phase != .quiescing then s
      else
        let us := if u.killed then [uid] else together s uid u .quiescing
        let s1 := us.foldl settleStop s
        if us.any (stillStopping s1) then s1
        else if u.killed then endKilled s1 uid u
        else us.foldl markStopped s1)

end Sys2Proof.Machine
end

