-- ==== Sys2Proof/Machine/ImageWrite.lean ====
section
/-! DEFINITION. Images written (R142, R222, R223, R225 to R229). Where R226 and R225 name a content without its layout,
the layout is the model's (assumption 17). -/
namespace Sys2Proof.Machine

/- Headers and register sections -/

/-- An image's header (R227). -/
def headerBytes (kind st shape nctx bytes : Nat) (pc : W64) (ctxid : W16) (n gst unit : Nat) (lhandle gimg : W64) : List Nat :=
  leList 4 1 ++ [kind, st, shape, nctx] ++ leList 8 bytes ++ leList 8 pc.toNat ++ leList 2 ctxid.toNat ++ [n, gst]
    ++ leList 4 unit ++ leList 8 lhandle.toNat ++ leList 8 gimg.toNat ++ leList 16 0
def gridCode : GState → Nat
  | .idle => 0
  | .configured => 1
  | .running => 2

/-- A command that the image of a context carries: its own, and in a shared launch every array command (R36). -/
def carried (sh : Bool) (c : Ctx) (q : Nat) (k : Cmd) : Bool := k.uid == c.uid || (sh && q < 2 && k.lid == c.lid)
def carriedQ (s : State) (sh : Bool) (c : Ctx) (q : Nat) : List Cmd := (s.queue (queueHome c q) q).filter (carried sh c q)
/-- The entries of a queue in a context's engine section; the array commands of a shared launch stand in that of the
slot that carries its fragment. -/
def entriesOf (s : State) (sh : Bool) (c : Ctx) (q : Nat) : List Cmd :=
  if sh && q < 2 && c.slot != leadSlot s c.lid then [] else carriedQ s sh c q

/-- Queue index and position of a pending token's command, or all-ones (R226). -/
def entryIndex (s : State) (sh : Bool) (c : Ctx) (id : Nat) : Nat :=
  ((List.range 6).findSome? (fun q => ((carriedQ s sh c q).findIdx? (fun k => k.id == id)).map (16 * q + ·))).getD (2 ^ 64 - 1)
def tokenBytes (s : State) (sh : Bool) (c : Ctx) (t : Token) : List Nat :=
  leList 8 (if t.pend = 0 then t.done.status.toNat else 0) ++ leList 8 t.done.opc.toNat ++ leList 8 t.done.oword.toNat
    ++ leList 8 (if t.pend = 0 then 2 ^ 64 - 1 else entryIndex s sh c t.pend)
def vregBytes (r : VReg) : List Nat :=
  ((List.range 128).map (fun i => leList 4 (Store.get 0 r.lanes i).toNat)).flatten ++ leList 4 r.sup.toNat
    ++ leList 2 r.side0.toNat ++ leList 2 r.side1.toNat ++ leList 8 r.tag.bits.toNat
/-- Control-register slot of a context: the barrier bytes at 0x028 to 0x02D (R287). -/
def ctrlSlot (s : State) (c : Ctx) (n : Nat) : List Nat :=
  if 0x028 ≤ n && n ≤ 0x02D then (List.range 8).map (fun i => (Store.get 0 c.bars (8 * (n - 0x028) + i)).toNat)
  else leList 8 (ctrlRead { s with cur := c } n).toNat
/-- Lease state: 0 none, 1 requesting, 2 holding. -/
def leaseState (f : Frag) (c : Ctx) : Nat := if f.holder = some c.cid then 2 else if f.reqs.contains c.cid then 1 else 0
/-- Mode, COMPID, lease state, tenure count, and in ticks the time of the tenure up to the stop (R74, R226). -/
def leaseBytes (s : State) (c : Ctx) (stop : Nat) : List Nat :=
  let f := s.frag c.arr
  let mine := leaseState f c = 2
  [(if c.sm then 1 else 0) + (if c.pfh then 2 else 0), c.compid, leaseState f c, if mine then min 255 f.tcount else 0]
    ++ leList 4 (if mine then min (2 ^ 32 - 1) (stop - f.tstart) else 0)
/-- A pane of a chain record: its index plus 1, 17 for a source that has gone. -/
def chainPane (p : Nat) : Nat := if p < 192 then p % 16 + 1 else 17
/-- Chain records: destination of the output, source of the input, spill ring. -/
def chainBytes (s : State) (c : Ctx) : List Nat :=
  let out := s.chains.find? (fun x => x.src == c.seq)
  let inp := s.chains.find? (fun x => x.dst == c.seq)
  let ring := (out.bind (·.ring)).getD (0, 0)
  leList 8 ((out.map (fun x => chainPane x.dst)).getD 0) ++ leList 8 ((inp.map (fun x => chainPane x.src)).getD 0)
    ++ leList 8 ring.1 ++ leList 8 ring.2

/-- A register section (R226), its header in front. -/
def regSection (s : State) (sh : Bool) (stop : Nat) (c : Ctx) (hdr : List Nat) : List Nat :=
  hdr ++ ((List.range 64).map (fun i => leList 8 (Store.get 0 c.g i).toNat)).flatten
    ++ (List.range 8).map (fun i => if i = 0 || c.p.getLsbD i then 1 else 0)
    ++ ((List.range 8).map (fun i => leList 16 (Store.get 0 c.m i).toNat)).flatten ++ leList 312 0
    ++ ((List.range 32).map (fun i => vregBytes (Store.get VReg.reset c.v i))).flatten
    ++ ((List.range 32).map (fun i => tokenBytes s sh c (Store.get Token.reset c.k i))).flatten
    ++ ((List.range 64).map (ctrlSlot s c)).flatten ++ ((List.range 16).map (fun i => ctrlSlot s c (0x100 + i))).flatten
    ++ leList 8 c.pc.toNat ++ leaseBytes s c stop ++ chainBytes s c ++ leList (0x8000 - 0x4CB0) 0

/- Engine sections -/

/-- State byte of an entry: 0 empty. -/
def stateCode : CmdSt → Nat
  | .queued => 1
  | .started => 2
  | .passed => 3
/-- An entry: word, PC, GA, GB, progress, state byte, and the resume offset captured at issue. -/
def entryBytes (k : Cmd) : List Nat :=
  leList 8 k.word.toNat ++ leList 8 k.pc.toNat ++ leList 8 k.ga.toNat ++ leList 8 k.gb.toNat ++ leList 8 k.prog
    ++ leList 8 (stateCode k.st) ++ leList 8 k.res.toNat ++ leList 8 0
def queueBytes (l : List Cmd) : List Nat :=
  ((List.range 16).map (fun i => ((l[i]?).map entryBytes).getD (leList 64 0))).flatten
/-- Records of 8 bytes, at most 16. -/
def records (l : List (List Nat)) : List Nat := ((List.range 16).map (fun i => (l[i]?).getD (leList 8 0))).flatten
/-- Grid stream records: port code, pane, and the entry of GRD plus 1, in the order of each port. -/
def streamRecords (g : Grid) (grd : List Cmd) : List (List Nat) :=
  g.ports.flatMap (fun p => p.2.streams.filterMap (fun id =>
    (grd.findIdx? (fun k => k.id == id)).map (fun i => [p.1 % 32, p.1 / 32, i + 1] ++ leList 5 0)))
/-- What the control die holds of a started XFETCH: its entry of FAB plus 1, the first negative reply, whether COMMIT and
REPORT were sent, destinations that have landed. -/
def replyRecords (s : State) (fab : List Cmd) : List (List Nat) :=
  fab.zipIdx.filterMap (fun e => (s.fab.cmds.find? (fun f => f.id == e.1.id)).map (fun f =>
    [e.2 + 1, (f.nak.getD 0) % 256, (if f.commit then 1 else 0) + (if f.report then 2 else 0),
      (f.peers.filter (fun p => p.landed.isSome)).length % 256] ++ leList 4 0))
def engineSection (s : State) (sh : Bool) (c : Ctx) : List Nat :=
  ((List.range 6).map (fun q => queueBytes (entriesOf s sh c q))).flatten
    ++ records (streamRecords (s.frag c.seq).grid (entriesOf s sh c 4)) ++ records (replyRecords s (entriesOf s sh c 3))
    ++ leList (0x8000 - 0x1900) 0
/-- Commands by their entries, for the record of the image. -/
def entryTable (s : State) (sh : Bool) (cs : List Ctx) : Tab Nat :=
  cs.zipIdx.flatMap (fun e => (List.range 6).flatMap (fun q =>
    (entriesOf s sh e.1 q).zipIdx.map (fun k => (96 * e.2 + 16 * q + k.2, k.1.id))))

/- Planes, banks, scratchpads, grids -/

/-- Fragments of a unit's contexts: origin, pane rows and columns. -/
def subFrags (cs : List Ctx) : List (Nat × Nat × Nat) := cs.map (fun c => (c.seq, c.h, c.w))
/-- Fragments whose planes stand in a unit's image (R225): its own; of a shared launch the shared one, in one image. -/
def planeFrags (s : State) (sh : Bool) (cs : List Ctx) : List (Nat × Nat × Nat) :=
  if sh then (cs.filter (fun c => c.slot = leadSlot s c.lid)).map (fun c => (c.arr, (s.frag c.arr).h, (s.frag c.arr).w)) else subFrags cs
/-- Panes of the placed fragment in pane-index order, for the planes. -/
def planePanes (s : State) (sh : Bool) (u : UnitRec) (cs : List Ctx) : List Nat :=
  if sh then (planeFrags s sh cs).flatMap (fun f => panesOf f.1 f.2.1 f.2.2) else panesOf u.seq u.h u.w
/-- The fragment that holds a pane, and the pane's row and column in it. -/
def subOf (fs : List (Nat × Nat × Nat)) (p : Nat) : Option (Nat × Nat × Nat × Nat × Nat) :=
  (fs.find? (fun f => (panesOf f.1 f.2.1 f.2.2).contains p)).map (fun f => (f.1, f.2.1, f.2.2, (p - f.1) / 4, (p - f.1) % 4))
/-- The 16-bit register of PE (r, c) of pane (i, j): the codes of its 2^GEOM columns, the lowest in the low bits (R83). -/
def peWord (p : Plane) (geom i r c j : Nat) : Nat :=
  let m := 2 ^ geom
  let b := 16 / m
  ((List.range m).map (fun t => p.code (128 * i + r) ((128 * j + c) * m + t) % 2 ^ b * 2 ^ (b * t))).foldl (· + ·) 0
def planeSection (s : State) (sh : Bool) (u : UnitRec) (cs : List Ctx) : List Nat :=
  let fs := planeFrags s sh cs
  (List.range 2).flatMap (fun x => (planePanes s sh u cs).flatMap (fun p => match subOf fs p with
    | none => leList 32768 0
    | some (q, _, _, i, j) =>
      let f := s.frag q
      (List.range 128).flatMap (fun r => (List.range 128).flatMap (fun c => leList 2 (peWord (f.plane x) f.geom i r c j)))))

/-- Rows that the accumulator section of a context holds: in a shared launch only one image carries the bank (R36). -/
def liveRows (s : State) (sh : Bool) (c : Ctx) : Nat :=
  if sh && c.slot != leadSlot s c.lid then 0 else min c.acclive.toNat (s.frag c.arr).arows
/-- Words of the accumulator section of a context: working half, then visible half. -/
def accSection (s : State) (rows : Nat) (c : Ctx) : List Nat :=
  let n := (s.frag c.arr).nmax
  let half (v : Bool) : List Nat := ((List.range (rows * n)).map (fun i =>
    leList 4 (Store.get 0 s.accs (accKey s c.arr v (i / n) (i % n))).toNat)).flatten
  half false ++ half true
def padSection (s : State) (c : Ctx) : List Nat :=
  ((panesOf c.seq c.h c.w).map (fun p => (List.range c.splive.toNat).map (fun i => (memByte s (spKey p i)).toNat))).flatten

/-- Element e of a placed fragment of w pane columns: the fragment that its pane belongs to, that one's pane columns, and the
element's index there. -/
def elemPlace (fs : List (Nat × Nat × Nat)) (seq w e : Nat) : Option (Nat × Nat × Nat) :=
  let i := e / (8 * w)
  let j := e % (8 * w)
  (subOf fs (seq + 4 * (i / 8) + j / 8)).map (fun x =>
    let (q, _, wq, r, c) := x
    (q, wq, (8 * r + i % 8) * (8 * wq) + 8 * c + j % 8))
def bitsOf (l : List Bool) : Nat := l.foldr (fun b n => (if b then 1 else 0) + 2 * n) 0
def optTok (t : Option GTok) : GTok := t.getD ⟨0, false⟩
/-- The port at an element: input or output queue (R132). -/
def portAt (w e : Nat) : Option Nat := match inPort w e with
  | some p => some p
  | none => outPort w e
/-- The 256 bytes of an element: port queue, words, tags and counts, link FIFOs. Results and operations in flight share
their words: alu.r or T, A; cmp.lo or X, cmp.hi or T. -/
def elemBytesOf (g : Grid) (w i : Nat) : List Nat :=
  let e := g.elem i
  let pq := ((portAt w i).map (fun p => (g.port p).q)).getD []
  let (op, a, t) := e.aluF.getD (0, ⟨0, false⟩, optTok e.aluR)
  let (x, y) := e.cmpF.getD (optTok e.cmpLo, optTok e.cmpHi)
  let l := (e.lutF.map (·.2)).getD (optTok e.lutR)
  let fifos := [e.inN, e.inE, e.inS, e.inW, e.outN, e.outE, e.outS, e.outW]
  ((List.range 16).map (fun n => leList 4 (optTok pq[n]?).v.toNat)).flatten
    ++ ([e.reg0.v, e.reg1.v, e.aluA.v, e.cmpX.v, e.cnt, t.v, a.v, x.v, y.v, l.v].map (fun v => leList 4 v.toNat)).flatten
    ++ [bitsOf [e.flag, e.reg0.t, e.reg1.t, e.aluA.t, e.cmpX.t],
      if e.aluF.isSome then 2 else if e.aluR.isSome then 1 else 0, op, bitsOf [t.t, a.t],
      bitsOf [e.cmpLo.isSome, e.cmpHi.isSome, e.cmpF.isSome], bitsOf [x.t, y.t],
      match e.lutF with
        | some (n, _) => 2 + n
        | none => if e.lutR.isSome then 1 else 0,
      bitsOf [l.t], e.lutI, pq.length] ++ leList 2 (bitsOf (pq.map (·.t)))
    ++ fifos.map (·.length) ++ leList 4 (bitsOf (fifos.flatMap (fun f =>
      (List.range 4).map (fun n => (optTok f[n]?).t))))
    ++ (fifos.map (fun f => ((List.range 4).map (fun n => leList 4 (optTok f[n]?).v.toNat)).flatten)).flatten
def gridSection (s : State) (u : UnitRec) (cs : List Ctx) : List Nat :=
  (List.range (64 * (u.h * u.w))).flatMap (fun e => match elemPlace (subFrags cs) u.seq u.w e with
    | none => leList 256 0
    | some (q, w, i) => elemBytesOf (s.frag q).grid w i)

/- The image -/

def unitJob (s : State) (u : UnitRec) : W16 := ((s.ent? u.lid).map (·.job)).getD 0
def unitHandle (s : State) (u : UnitRec) : W64 := ((s.ent? u.lid).map (·.handle)).getD 0
/-- A list of sections one after the other, each with its offset at a multiple of 4 KiB. -/
def layOut : Nat → List (List Nat) → List (Nat × List Nat)
  | _, [] => []
  | o, b :: t => (o, b) :: layOut (o + pad4k b.length) t
/-- The sections of a full image, each with its offset (R225). -/
def sections (s : State) (u : UnitRec) : List (Nat × List Nat) :=
  let cs := ctxsOf s u
  let sh := launchShared s u.lid
  let g := (s.frag u.seq).grid
  let hdr := headerBytes 0 0 (shapeCode u.h u.w) cs.length (imageBytes s u) 0 (unitJob s u) 0 (gridCode g.st) u.unit
    (unitHandle s u) g.image
  layOut 0 (cs.zipIdx.map (fun e => regSection s sh u.stop e.1 (if e.2 = 0 then hdr else leList 64 0))
    ++ cs.map (engineSection s sh) ++ [planeSection s sh u cs] ++ cs.map (fun c => accSection s (liveRows s sh c) c)
    ++ cs.map (padSection s) ++ [gridSection s u cs])
/-- The yield image (R223): header, then g1 to gn. -/
def yieldBytes (s : State) (u : UnitRec) (c : Ctx) (n bytes : Nat) : List Nat :=
  let g := (s.frag u.seq).grid
  headerBytes 1 0 (shapeCode u.h u.w) 1 bytes (c.pc + 8) c.ctxid n (gridCode g.st) u.unit c.lhandle g.image
    ++ ((List.range n).map (fun i => leList 8 (Store.get 0 c.g (i + 1)).toNat)).flatten

/- Writes -/

/-- Bytes written from an address, 8 at a time, as pieces of one writer (R178). -/
def putRun (w : Who) : Nat → State → W64 → List Nat → Res State
  | 0, s, _, _ => .ok s
  | n + 1, s, a, bs =>
    if bs.isEmpty then .ok s
    else
      let here := bs.take 8
      (access s w .engWrite a here.length).bind (fun r =>
        putRun w n (writePiece s 0 r.1 (here.foldr (fun b x => b + 256 * x) 0)) (a + 8) (bs.drop 8))
def put (w : Who) (s : State) (a : Nat) (bs : List Nat) : Res State := putRun w (bs.length + 1) s (u64 a) bs
def putAll (w : Who) (base : Nat) (s : State) : List (Nat × List Nat) → Res State
  | [] => .ok s
  | (o, bs) :: t => (put w s (base + o) bs).bind (fun s1 => putAll w base s1 t)

/-- The Mordant's accesses to a unit's images: of the control die, in the job's context. -/
def mordant (s : State) (u : UnitRec) : Who := Who.ctl (unitJob s u) 15
/-- Engine accesses of the job on the fragment of a context (R142). -/
def Ctx.engWho (c : Ctx) : Who := { c.who with cid := 0 }

/-- Tables of a grid's LUTs in its image (R137). -/
def lutBytes (g : Grid) : List (Nat × List Nat) :=
  (List.range g.count).map (fun e => (g.count * 128 + e * 1024, ((List.range 256).map (fun i =>
    leList 4 (Store.get 0 (g.elem e).lut i).toNat)).flatten))
/-- The write-back of R142: engine writes of the job, before anything else of the image, since a table may stand in the
scratchpad. -/
def writeLuts (s : State) : List Ctx → Res State
  | [] => .ok s
  | c :: t =>
    let g := (s.frag c.seq).grid
    if g.st = .idle then writeLuts s t
    else (putAll c.engWho g.image.toNat s (lutBytes g)).bind (fun s1 => writeLuts s1 t)
/-- Bytes of the write-back, which count with the image's (R142, R229). -/
def lutSize (s : State) (u : UnitRec) : Nat :=
  ((ctxsOf s u).map (fun c => let g := (s.frag c.seq).grid
    if g.st = .idle then 0 else 1024 * g.count)).foldl (· + ·) 0
/-- Whether what an image carries of scratchpads, banks and planes holds an uncorrectable error (R178, R222). -/
def savedBad (s : State) (u : UnitRec) : Bool :=
  let cs := ctxsOf s u
  let sh := launchShared s u.lid
  let hit (lo n : Nat) : Bool := s.ecc.any (fun e => decide (e <<< Config.eccLog2 < lo + n) && decide (lo < (e + 1) <<< Config.eccLog2))
  let bank (c : Ctx) (r : Nat) (v : Bool) : Bool :=
    (List.range (s.frag c.arr).nmax).any (fun i => eccBad s [Loc.acc (accKey s c.arr v r i) 0])
  (!s.ecc.isEmpty && cs.any (fun c =>
    (decide (0 < c.splive.toNat) && (panesOf c.seq c.h c.w).any (fun p => hit (spKey p 0) c.splive.toNat))
      || (List.range (liveRows s sh c)).any (fun r => bank c r false || bank c r true)))
    || (planeFrags s sh cs).any (fun f => (s.frag f.1).plane0.bad || (s.frag f.1).plane1.bad)
/-- A unit's image written at the start of its space. -/
def writeImage (s : State) (u : UnitRec) : Res State :=
  if savedBad s u then .fail cEcc 0 0
  else (writeLuts s (ctxsOf s u)).bind (fun s1 =>
    (putAll (mordant s u) ((u.space.map (·.1)).getD 0) s1 (sections s1 u)).bind (fun s2 => .ok (s2.eccDone 0)))

/-- A unit whose image cannot be written or read ends: its completion is counted at once and its launch fails with
the cause (R142, R222). -/
def imageFailed (s : State) (uid cause : Nat) : State :=
  match s.unit? uid with
  | none => s
  | some u =>
    let ps := occupied s uid
    let s1 := (dropFab s ((unitCmds s uid ++ (u.image.map Image.cmds).getD []).map (·.id))).dropWhere (Cmd.ofUnit uid)
    let old := ((u.image.map (·.uid)).getD uid)
    let s2 := closeEnds s1 (fun x => ps.contains x || parkedBy old x)
    let s3 := (s2.dropCtxs u.cids).modUnit uid (fun u => { u with phase := .exited, killed := true, cids := [], image := none })
    let s4 := if launchShared s3 u.lid then vacate s3 ps else freeFragment s3 uid
    countGone (failLaunch (s4.countEcc (statusWord cause 0)) u.lid (statusWord cause 0)) u.lid uid

/-- What a fragment record leaves behind and what the image takes. -/
def takenCmd (u : UnitRec) (uid : Nat) (lead : Bool) (q : Nat) (k : Cmd) : Bool :=
  k.uid == uid || (lead && q < 2 && k.lid == u.lid)
/-- The tenure's progress is kept as the time it has had (R74). -/
def Frag.taken (p : Nat → Cmd → Bool) (stop : Nat) (f : Frag) : Frag :=
  { f with
    q := (f.q.map (fun e => (e.1, e.2.filter (p e.1)))).filter (fun e => !e.2.isEmpty)
    cur := none, tstart := stop - f.tstart }
def Frag.left (p : Nat → Cmd → Bool) (f : Frag) : Frag :=
  { Frag.reset with q := (f.q.map (fun e => (e.1, e.2.filter (fun k => !p e.1 k)))).filter (fun e => !e.2.isEmpty) }

/-- A launch that becomes ready again starts its wait of R61 anew. -/
def readyAgain (s : State) (lid : Nat) : State :=
  let busy := (unitsOf s lid).any (fun u => u.2.phase == .saved)
  s.modLaunch lid (fun l => if l.next < l.lpb.nunits || busy then l else { l with wbase := s.now, wsteps := 0 })

/-- Panes of a shared launch's units that have exited: they are free with the fragment. -/
def exitedPanes (s : State) (lid : Nat) : List Nat :=
  ((unitsOf s lid).filter (fun x => x.2.phase == .exited || x.2.phase == .counted)).flatMap (fun x => occupied s x.1)
/-- The image is complete: contexts and fragments go into its record, its chains take the unit's number, and the panes
are free (R229). -/
def capture (s0 : State) (uid : Nat) : State :=
  match s0.unit? uid with
  | none => s0
  | some u =>
    let s := readyAgain s0 u.lid
    let sh := launchShared s u.lid
    let lead := sh && u.unit = leadSlot s u.lid
    let own := occupied s uid
    let out := if lead then exitedPanes s u.lid else []
    let ps := own ++ out
    let cs := ctxsOf s u
    let p := takenCmd u uid lead
    let inPs (x : Nat) : Bool := own.contains x || (lead && x == u.arr)
    let name (x : Nat) : Nat := if inPs x then park uid x else if out.contains x then park 0 x else x
    let img : Image := ⟨(u.space.map (·.1)).getD 0, imageBytes s u, none, shapeCode u.h u.w, true, uid, u.seq, cs,
      (s.frags.filter (fun e => inPs e.1)).map (fun e => (e.1, e.2.taken p u.stop)), entryTable s sh cs⟩
    let s1 : State := { s with
      frags := (s.frags.map (fun e => if inPs e.1 then (e.1, e.2.left p) else e)).filter (fun e => decide (e.2 ≠ Frag.reset)) }
    let s2 : State := { s1 with units := s1.units.map (fun x =>
      if out.isEmpty || x.2.lid != u.lid || x.2.phase != .exited then x else (x.1, { x.2 with freed := true })) }
    (((vacate s2 ps).renameEnds name).dropCtxs u.cids).modUnit uid (fun u => { u with phase := .saved, image := some img })

/-- The images of units that are written together: which failed, with the cause, or none while an access is held. -/
def writeImages : List Nat → State → Option (List (Nat × Nat) × State)
  | [], s => some ([], s)
  | uid :: t, s => match s.unit? uid with
    | none => writeImages t s
    | some u => match writeImage s u with
      | .hold => none
      | .fail c _ _ => (writeImages t s).map (fun r => ((uid, c) :: r.1, r.2))
      | .ok s1 => writeImages t s1

/-- IMAGE_WRITE_DONE (R229): the image is in memory and the fragment frees, or a fault discards it: a completion, which a
cancel that the launch's home received earlier precedes (R234). Stores that a YIELD's context still holds come first (R22,
R174). -/
def execImageWriteDone (cid : Nat) (s : State) : Out :=
  .next (match (s.ctx? cid).bind (fun c => (s.unit? c.uid).map (fun u => (c, u))) with
    | none => s
    | some (c, u) =>
      if u.phase != .writing then s
      else match u.image with
        | some img =>
          let t := s.flush cid
          if !((t.ctx? cid).any (fun c => c.wc.isEmpty)) then t
          else match put (mordant t u) t img.addr (yieldBytes t u c (img.yieldN.getD 0) img.bytes) with
          | .hold => t
          | .fail cause _ _ => if cancelPending s u.lid then t else imageFailed t c.uid cause
          | .ok s1 =>
            ((freeFragment (readyAgain (s1.eccDone 0) u.lid) c.uid).dropCtxs u.cids).modUnit c.uid (fun u =>
              { u with phase := .saved, freed := false })
        | none =>
          let us := together s c.uid u .writing
          if !(together s c.uid u .quiescing).isEmpty then s
          else match writeImages us s with
            | none => s
            | some (bad, s1) =>
              if !bad.isEmpty && cancelPending s u.lid then s
              else
                let s2 := (us.filter (fun x => bad.all (fun b => b.1 != x))).foldl capture s1
                bad.foldl (fun s b => imageFailed s b.1 b.2) s2)

end Sys2Proof.Machine
end

