-- ==== Sys2Proof/Machine/ImageRead.lean ====
section
/-! DEFINITION. Images read (R142, R223, R230, R231): the record that the package keeps of the unit is taken back, and
what the bytes of the image say replaces it. A value that a register or field cannot hold is cut to what it can (R1,
R2; assumption 17). -/
namespace Sys2Proof.Machine

/- Places -/

/-- A saved pane or fragment number moved with its unit from `old` to `new`. -/
def moved (old new x : Nat) : Nat := x + new - old
def Cmd.relocate (old new uid lid : Nat) (k : Cmd) : Cmd :=
  { k with seq := moved old new k.seq, arr := moved old new k.arr, uid := uid, lid := lid }
/-- A saved context at its new place; the instruction cache is as after FENCE.ifetch (R230). -/
def Ctx.relocate (old new uid lid now : Nat) (c : Ctx) : Ctx :=
  { c with
    seq := moved old new c.seq, arr := moved old new c.arr, uid := uid, lid := lid, icache := [], since := now
    phase := if c.phase = .exited then .exited else .running, notBefore := now }
/-- The fragment of a context of an image without a record, as SHAPE and PANE of its section name it, cut to the placed
fragment; `p0` is PANE of context 0 (assumption 55). -/
def Ctx.fromRegs (u : UnitRec) (p0 : Nat) (rb : List Nat) (c : Ctx) : Ctx :=
  let hw := (shapeHW (fld rb 0x4A18 8)).getD (1, 1)
  let p := fld rb 0x4A20 8 % 16
  let i := p / 4 - p0 / 4
  let j := p % 4 - p0 % 4
  let fits := p0 / 4 ≤ p / 4 && p0 % 4 ≤ p % 4 && i + hw.1 ≤ u.h && j + hw.2 ≤ u.w
  let seq := if fits then u.seq + 4 * i + j else u.seq
  { c with seq := seq, arr := seq, h := if fits then hw.1 else u.h, w := if fits then hw.2 else u.w }

/- Registers (R226) -/

/-- A token: complete as written, or pending under the command of the entry named; one that was pending and names no
entry is as its record says, which has what came for it while the unit was stopped (R230, R309). -/
def Token.back (bs : List Nat) (o : Nat) (id : Nat → Option Nat) (old : Token) : Token :=
  if fld bs o 8 % 2 = 1 then ⟨0, ⟨u32 (fld bs o 4), u64 (fld bs (o + 8) 8), u64 (fld bs (o + 16) 8)⟩⟩
  else match id (fld bs (o + 24) 8) with
    | some i => ⟨i, Done.ok⟩
    | none => old
def vregBack (bs : List Nat) (o : Nat) : VReg :=
  let t := (tagOf (fld bs (o + 520) 1)).getD .invalid
  ⟨(List.range 128).filterMap (fun j =>
      let x := fld bs (o + 4 * j) 4 % 2 ^ elemBits t
      if x = 0 then none else some (j, u32 x)),
    t, BitVec.ofNat 16 (fld bs (o + 516) 2), BitVec.ofNat 16 (fld bs (o + 518) 2), u32 (fld bs (o + 512) 4)⟩
/-- SPLIVE and ACCLIVE within their limits (R220). -/
def spLiveBack (v : Nat) : W64 := u64 (min (v % 2 ^ 25) 16777216 / 64 * 64)
def accLiveBack (v : Nat) : W64 := u64 (min (v % 2 ^ 13) 4096)
/-- A register section read back into a context (R226); reserved bits read as zero (R2). -/
def readRegs (bs : List Nat) (id : Nat → Option Nat) (c : Ctx) : Ctx :=
  let w64 (o : Nat) : W64 := u64 (fld bs o 8)
  let ctl (n : Nat) : Nat := fld bs (0x4A00 + 8 * n) 8
  let sup (n : Nat) : W64 := w64 (0x4C00 + 8 * n)
  let tok (i : Nat) : Token := Token.back bs (0x4600 + 32 * i) id (Store.get Token.reset c.k i)
  { c with
    g := (List.range 64).filterMap (fun i => if i = 0 || w64 (0x40 + 8 * i) = 0 then none else some (i, w64 (0x40 + 8 * i)))
    p := BitVec.ofNat 8 (1 + ((List.range 7).map (fun i => if fld bs (0x241 + i) 1 % 2 = 1 then 2 ^ (i + 1) else 0)).foldl (· + ·) 0)
    m := (List.range 8).filterMap (fun i => let x := fld bs (0x248 + 16 * i) 16; if x = 0 then none else some (i, BitVec.ofNat 128 x))
    v := (List.range 32).filterMap (fun i =>
      let r := vregBack bs (0x400 + 528 * i)
      if r = VReg.reset then none else some (i, r))
    k := (List.range 31).filterMap (fun i => if tok (i + 1) = Token.reset then none else some (i + 1, tok (i + 1)))
    aflags := u64 (ctl 0x20 % 256), amask := u64 (ctl 0x21 % 256)
    rmode := u64 (if ctl 0x22 % 8 < 5 then ctl 0x22 % 8 else 0)
    splive := spLiveBack (ctl 0x24), acclive := accLiveBack (ctl 0x25)
    bars := (List.range 48).filterMap (fun i =>
      let x := fld bs (0x4A00 + 8 * 0x28 + i) 1; if x = 0 then none else some (i, BitVec.ofNat 8 x))
    tcause := u64 ((sup 0).toNat % 128), tpc := sup 1, tword := sup 2, taddr := sup 3, tdata := sup 4
    tvec := u64 ((sup 5).toNat / 8 * 8), sm := (sup 6).getLsbD 0, sscr := sup 7
    compid := if c.compid = 0 || fld bs 0x4C89 1 = 0 || 16 ≤ fld bs 0x4C89 1 then c.compid else fld bs 0x4C89 1
    pc := w64 0x4C80 }
/-- AMODE of a section, where it is a legal value (R84). -/
def Frag.amodeBack (bs : List Nat) (f : Frag) : Frag :=
  let v := fld bs (0x4A00 + 8 * 0x23) 8
  if v < 6 then { f with geom := v / 2, dual := v % 2 = 1 } else f
/-- The lease as a section has it (R74). -/
def leaseBack (s : State) (bs : List Nat) (c : Ctx) : State :=
  let st := fld bs 0x4C8A 1
  s.modFrag c.arr (fun f =>
    if st = 2 then { f with
      holder := some c.cid, reqs := f.reqs.filter (· != c.cid), tcount := fld bs 0x4C8B 1, tstart := s.now - fld bs 0x4C8C 4 }
    else
      let f1 := if f.holder = some c.cid || st = 0 then f.withoutCtxs [c.cid] s.now else f
      if st = 1 && !f1.reqs.contains c.cid then { f1 with reqs := f1.reqs ++ [c.cid] } else f1)

/- Engine sections -/

/-- The queue of an engine command. -/
def engineQueue : Instr → Option Nat
  | .wload _ _ _ _ _ _ _ bg => some (if bg then 1 else 0)
  | .wswap _ _ _ _ _ bg => some (if bg then 1 else 0)
  | .mma _ _ _ _ _ _ _ bg _ _ _ _ => some (if bg then 1 else 0)
  | .aswap _ _ _ _ _ bg => some (if bg then 1 else 0)
  | .aclr _ _ _ _ _ _ bg => some (if bg then 1 else 0)
  | .adrain _ _ _ _ _ _ _ bg => some (if bg then 1 else 0)
  | .edge _ _ _ _ _ _ bg => some (if bg then 1 else 0)
  | .xcopy _ _ _ _ _ _ _ _ => some 2
  | .xcast _ _ _ _ _ _ _ _ => some 2
  | .xred _ _ _ _ _ _ _ _ => some 2
  | .xsend _ _ _ _ _ _ _ _ _ => some 3
  | .xfetch _ _ _ _ _ _ => some 3
  | .arrive _ _ _ _ _ _ _ => some 3
  | .strm _ _ _ _ _ _ _ => some 4
  | .gcfg _ _ _ _ _ _ => some 4
  | .gstart _ _ _ _ _ => some 4
  | .gstop _ _ _ _ _ => some 4
  | .gspill _ _ _ _ _ _ => some 4
  | .kwatch _ _ _ _ _ _ _ => some 5
  | _ => none
/-- The command of a word, if it belongs to a queue. -/
def engineOp (q : Nat) (word : W64) : Option Instr :=
  match decode word with
  | .ok i => if engineQueue i = some q then some i else none
  | .error _ => none
/-- An entry read back: as its record where nothing of it changed; else a command that starts from the progress named.
An entry whose word is no command of its queue is empty. -/
def entryBack (c : Ctx) (q id : Nat) (old : Option Cmd) (e : List Nat) : Option Cmd :=
  let w64 (o : Nat) : W64 := u64 (fld e o 8)
  let prog := fld e 32 8
  if fld e 40 1 = 0 then none
  else match old with
    | some k =>
      if w64 0 = k.word && w64 16 = k.ga && w64 24 = k.gb && w64 48 = k.res then
        let k1 : Cmd := { k with pc := w64 8, prog := prog }
        some (if fld e 40 1 = 1 then k1.requeue else k1)
      else (engineOp q (w64 0)).map (fun i =>
        { k.requeue with op := i, word := w64 0, pc := w64 8, ga := w64 16, gb := w64 24, res := w64 48, prog := prog })
    | none => (engineOp q (w64 0)).map (fun i =>
      ⟨id, i, w64 0, w64 8, c.cid, c.uid, c.lid, c.ctxid, c.sec, c.seq, c.arr, c.h, c.w, w64 16, w64 24, w64 48, [], .queued,
        prog, none, [], [], (0, 0, 0), none, none, [], none, 0, false, none, 0, 0, none⟩)
def Image.cmd? (m : Image) (id : Nat) : Option Cmd := m.cmds.find? (fun k => k.id == id)
/-- The entries of context `i` by entry number. A command that ended while the unit was stopped is gone. -/
def entriesBack (m : Image) (c : Ctx) (i fresh : Nat) (eb : List Nat) : Tab Cmd :=
  (List.range 96).filterMap (fun n =>
    let e := (eb.drop (64 * n)).take 64
    let k := match Tab.get? m.entries (96 * i + n) with
      | some id => (m.cmd? id).bind (fun k => entryBack c (n / 16) id (some k) e)
      | none => entryBack c (n / 16) (fresh + 96 * i + n) none e
    k.map (fun k => (n, k)))
/-- Commands of the record whose entries were emptied: they count as complete. -/
def emptied (m : Image) (i : Nat) (back : Tab Cmd) : List Nat :=
  (m.entries.filter (fun e => e.1 / 96 == i && (m.cmd? e.2).isSome && (Tab.get? back (e.1 % 96)).isNone)).map (·.2)
/-- The queues of a context: trailing commands that stand there already, then its entries. -/
def queuesBack (s : State) (sh : Bool) (c : Ctx) (back : Tab Cmd) : State :=
  (List.range 6).foldl (fun s q =>
    if sh && q < 2 && c.slot != leadSlot s c.lid then s
    else
      let home := queueHome c q
      s.setQueue home q (s.queue home q ++ (back.filter (fun e => e.1 / 16 == q)).map (·.2))) s

/- Planes, banks, scratchpads -/

/-- Two bytes of a section. -/
def half (bs : Array Nat) (o : Nat) : Nat := bs.getD o 0 + 256 * bs.getD (o + 1) 0
/-- A code of plane `x` of fragment `q` in the weight-plane section. -/
def codeBack (bs : Array Nat) (panes : List Nat) (q geom x k n : Nat) : Nat :=
  let m := 2 ^ geom
  let b := 16 / m
  let cc := n / m
  match panes.findIdx? (· == q + 4 * (k / 128) + cc / 128) with
  | none => 0
  | some idx =>
    half bs (32768 * (panes.length * x + idx) + 2 * (128 * (k % 128) + cc % 128)) / 2 ^ (b * (n % m)) % 2 ^ b
def codesBack (bs : Array Nat) (panes : List Nat) (q geom x h w : Nat) : Store Nat :=
  (List.range (128 * h)).flatMap (fun k => (List.range (colsPer geom * w)).filterMap (fun n =>
    let v := codeBack bs panes q geom x k n
    if v = 0 then none else some (k * 2048 + n, v)))
def planesBack (s : State) (bs : List Nat) (panes : List Nat) (fs : List (Nat × Nat × Nat)) : State :=
  fs.foldl (fun s e => s.modFrag e.1 (fun f => { f with
    plane0 := { f.plane0 with w := codesBack bs.toArray panes e.1 f.geom 0 e.2.1 e.2.2 }
    plane1 := { f.plane1 with w := codesBack bs.toArray panes e.1 f.geom 1 e.2.1 e.2.2 } })) s

/-- Words of an accumulator section read back into a bank. -/
def restoreAcc (s : State) (c : Ctx) (rows : Nat) (bs : List Nat) : State :=
  let n := (s.frag c.arr).nmax
  let a := bs.toArray
  (List.range (2 * rows * n)).foldl (fun s i =>
    let r := i % (rows * n)
    { s with accs := Store.put 0 s.accs (accKey s c.arr (decide (rows * n ≤ i)) (r / n) (r % n)) (u32 (half a (4 * i) + 65536 * half a (4 * i + 2))) }) s
def restorePad (s : State) (c : Ctx) (live : Nat) (bs : List Nat) : State :=
  ((panesOf c.seq c.h c.w).zipIdx).foldl (fun s e => setBytes s (spKey e.1 0) ((bs.drop (e.2 * live)).take live)) s
/-- The accumulator sections, then the scratchpad sections, from an offset on; the offset behind them. -/
def accsBack (w : Who) (sh : Bool) (base : Nat) : List Ctx → Nat → State → Res (Nat × State)
  | [], o, s => .ok (o, s)
  | c :: t, o, s =>
    let na := accBytes s sh c
    (readRun s w .engRead 4 (na / 4) (u64 (base + o))).bind (fun bs =>
      accsBack w sh base t (o + pad4k na) (restoreAcc s c (liveRows s sh c) bs))
def padsBack (w : Who) (base : Nat) : List Ctx → Nat → State → Res (Nat × State)
  | [], o, s => .ok (o, s)
  | c :: t, o, s =>
    (readRun s w .engRead 64 (padBytes c / 64) (u64 (base + o))).bind (fun bs =>
      padsBack w base t (o + pad4k (padBytes c)) (restorePad s c c.splive.toNat bs))

/- Grids -/

/-- Queue of `n` tokens, values at an offset, tags from bit `t` of a field. -/
def toksBack (bs : List Nat) (o n tags t : Nat) : List GTok :=
  (List.range n).map (fun i => ⟨u32 (fld bs (o + 4 * i) 4), tags / 2 ^ (t + i) % 2 = 1⟩)
/-- An element's 256 bytes read back over its configuration. -/
def elemBack (bs : List Nat) (e : Elem) : Elem :=
  let bit (o i : Nat) : Bool := fld bs o 1 / 2 ^ i % 2 = 1
  let tok (o f i : Nat) : GTok := ⟨u32 (fld bs o 4), bit f i⟩
  let fifo (n : Nat) : List GTok := toksBack bs (0x80 + 16 * n) (min 4 (fld bs (0x74 + n) 1)) (fld bs 0x7C 4) (4 * n)
  let alu := fld bs 0x69 1
  let lut := fld bs 0x6E 1
  { e with
    reg0 := tok 0x40 0x68 1, reg1 := tok 0x44 0x68 2, aluA := tok 0x48 0x68 3, cmpX := tok 0x4C 0x68 4
    flag := bit 0x68 0, cnt := u32 (fld bs 0x50 4), lutI := fld bs 0x70 1
    aluR := if alu = 1 then some (tok 0x54 0x6B 0) else none
    aluF := if 2 ≤ alu then some (fld bs 0x6A 1 % 16, tok 0x58 0x6B 1, tok 0x54 0x6B 0) else none
    cmpLo := if bit 0x6C 0 && !bit 0x6C 2 then some (tok 0x5C 0x6D 0) else none
    cmpHi := if bit 0x6C 1 && !bit 0x6C 2 then some (tok 0x60 0x6D 1) else none
    cmpF := if bit 0x6C 2 then some (tok 0x5C 0x6D 0, tok 0x60 0x6D 1) else none
    lutR := if lut = 1 then some (tok 0x64 0x6F 0) else none
    lutF := if 2 ≤ lut then some (min 2 (lut - 2), tok 0x64 0x6F 0) else none
    inN := fifo 0, inE := fifo 1, inS := fifo 2, inW := fifo 3, outN := fifo 4, outE := fifo 5, outS := fifo 6, outW := fifo 7 }
/-- Offset in the grid section of element `i` of fragment `q` with `w` pane columns. -/
def elemOff (u : UnitRec) (q w i : Nat) : Nat :=
  let r := i / (8 * w)
  let c := i % (8 * w)
  let p := q - u.seq + 4 * (r / 8) + c / 8
  256 * ((8 * (p / 4) + r % 8) * (8 * u.w) + 8 * (p % 4) + c % 8)
/-- A context's grid with the port queues of the grid section, and its elements unless the grid is IDLE. -/
def gridBack (u : UnitRec) (bs : List Nat) (c : Ctx) (g : Grid) : Grid :=
  let n := 64 * (c.h * c.w)
  let sec (i : Nat) : List Nat := (bs.drop (elemOff u c.seq c.w i)).take 256
  let es : Store Elem := if g.st = .idle then [] else (List.range n).filterMap (fun i =>
    let e := elemBack (sec i) (g.elem i)
    if e = Elem.reset then none else some (i, e))
  (List.range n).foldl (fun g i => match portAt c.w i with
    | none => g
    | some p => g.modPort p (fun x => { x with
      q := toksBack (sec i) 0 (min 16 (fld (sec i) 0x71 1)) (fld (sec i) 0x72 2) 0 })) { g with elems := es }
/-- Streams at their ports as the stream records name them. -/
def streamsBack (eb : List Nat) (back : Tab Cmd) (g : Grid) : Grid :=
  let recs : List (Nat × Nat) := (List.range 16).filterMap (fun i =>
    let o := 0x1800 + 8 * i
    let n := fld eb (o + 2) 1
    if n = 0 then none
    else ((Tab.get? back (64 + (n - 1))).bind (fun k => if k.st = .started then some k.id else none)).map (fun id =>
      (32 * fld eb (o + 1) 1 + fld eb o 1, id)))
  let g1 : Grid := { g with
    ports := (g.ports.map (fun p => (p.1, { p.2 with streams := [] }))).filter (fun p => decide (p.2 ≠ GPort.reset)) }
  recs.foldl (fun g r => g.modPort r.1 (fun p => { p with streams := p.streams ++ [r.2] })) g1
/-- The grid before its section is read: what the record holds, of an IDLE one the ports with their streams and rings (R139,
R141), or the configuration blocks of GRIDIMG. -/
def gridBase (s : State) (who : Who) (c : Ctx) (st : GState) (image : W64) : Res Grid :=
  let g := (s.frag c.seq).grid
  if st = .idle then .ok { Grid.reset with ports := g.ports }
  else if g.st != .idle then .ok { g with st := st, image := image, start := if st = .running then g.start else none }
  else
    let n := 64 * c.h * c.w
    (readRun s who .engRead 128 n image).bind (fun bs =>
      .ok { Grid.reset with
        h := c.h, w := c.w, st := st, image := image
        elems := (pieces 128 n bs).zipIdx.filterMap (fun e =>
          let x := elemOf e.1 []
          if x = Elem.reset then none else some (e.2, x)) })
def readLuts (w : Who) (base n : Nat) (s : State) : List Nat → Res (Store (Store W32))
  | [] => .ok []
  | e :: t => (readRun s w .engRead 4 256 (u64 (base + n * 128 + e * 1024))).bind (fun bs =>
      (readLuts w base n s t).bind (fun r =>
        .ok ((e, (List.range 256).filterMap (fun i => let x := u32 (fld bs (4 * i) 4); if x = 0 then none else some (i, x))) :: r)))
/-- LUTs reloaded from the image's tables, with engine reads of the job (R142). -/
def reloadLuts (s : State) (who : Who) (g : Grid) : Res Grid :=
  if g.st = .idle then .ok g
  else (readLuts who g.image.toNat g.count s (List.range g.count)).bind (fun ls =>
    .ok { g with elems := (List.range g.count).filterMap (fun e =>
      let x := { g.elem e with lut := Store.get [] ls e }
      if x = Elem.reset then none else some (e, x)) })
/-- A command of GRD that its grid no longer knows as running starts again. -/
def Cmd.regrid (g : Grid) (k : Cmd) : Cmd :=
  match k.op with
  | .strm _ _ _ _ _ _ _ => if k.st = .started && !g.ports.any (fun p => p.2.streams.contains k.id) then k.requeue else k
  | .gstart _ _ _ _ _ => if k.st = .started && g.start != some k.id then k.requeue else k
  | _ => k
/-- The grids of a unit's contexts. The header's GRIDSTATE and GRIDIMG are those of context 0. -/
def gridsBack (u : UnitRec) (hdr gb : List Nat) : List (Ctx × List Nat × Tab Cmd) → Nat → State → Res State
  | [], _, s => .ok s
  | (c, eb, back) :: t, i, s =>
    let g := (s.frag c.seq).grid
    let st := if i != 0 then g.st else match fld hdr 0x1B 1 with
      | 0 => .idle
      | 1 => .configured
      | 2 => .running
      | _ => g.st
    let image := if i = 0 then u64 (fld hdr 0x28 8) else g.image
    (gridBase s c.engWho c st image).bind (fun g1 =>
      let g2 := streamsBack eb back (gridBack u gb c g1)
      (reloadLuts s c.engWho g2).bind (fun g3 =>
        gridsBack u hdr gb t (i + 1) (s.modFrag c.seq (fun f =>
          { f with grid := g3 }.setQueue 4 ((f.queue 4).map (Cmd.regrid g3))))))

/- Chains -/

/-- The chains of a unit at its new place (R109): the record of a section may name none any more, or another ring. -/
def chainsBack (old new : Nat) (m : Image) (cs : List (Ctx × List Nat)) (s : State) : State :=
  let s1 := s.renameEnds (fun x => if parkedBy old x then moved m.seq new ((x - 4096) % 256) else x)
  let s2 : State := { s1 with chains := s1.chains.map (fun c =>
    if cs.any (fun e => e.1.seq == c.src) then { c with stuck := false, flight := c.flight.map (fun f => { f with due := s.now }) }
    else c) }
  cs.foldl (fun s e =>
    let dst := fld e.2 0x4C90 8
    let src := fld e.2 0x4C98 8
    let base := fld e.2 0x4CA0 8
    let n := fld e.2 0x4CA8 8
    let ok := base % 64 = 0 && n % 64 = 0 && 0 < n && base + n ≤ 2 ^ 24 * (e.1.h * e.1.w)
    let s1 := if src = 0 then s.cutInput e.1.seq else s
    { s1 with chains := (s1.chains.filter (fun c => c.src != e.1.seq || dst != 0)).map (fun c =>
      if c.src != e.1.seq then c
      else { c with ring := if n = 0 && c.rrows.isEmpty then none else if ok then some (base, n) else c.ring }) }) s2

/- The unit -/

/-- The fragments of an image's record at a new origin; trailing commands that stand there stay. -/
def placeFrags (m : Image) (new : Nat) (s : State) : State :=
  m.frags.foldl (fun s e => s.modFrag (moved m.seq new e.1) (fun g =>
    { e.2 with q := g.q, tstart := s.now - e.2.tstart })) s
/-- Fragments of contexts without a record. -/
def newFrags (cs : List Ctx) (s : State) : State :=
  cs.foldl (fun s c => s.modFrag c.seq (fun f => { Frag.reset with h := c.h, w := c.w, q := f.q })) s
/-- Companions of an image without a record, as split from context 0, the last first (assumption 55). -/
def rejoin (cs : List Ctx) : List Ctx :=
  match cs with
  | [] => []
  | c :: t => { c with splits := t.reverse.map (fun d => (d.cid, decide (d.seq / 4 = c.seq / 4))) } :: t
def secOf (bs : List Nat) (i : Nat) : List Nat := (bs.drop (32768 * i)).take 32768

/-- A unit's image read back on the fragment that it now holds (R230, R231). -/
def restoreFull (s : State) (uid : Nat) (u : UnitRec) (m : Image) : Res State :=
  let w := mordant s u
  let sh := launchShared s u.lid
  let n := m.ctxs.length
  (readRun s w .engRead 64 (1024 * n) (u64 m.addr)).bind (fun bs =>
    let rb (i : Nat) : List Nat := secOf bs i
    let eb (i : Nat) : List Nat := secOf bs (n + i)
    let cs0 := if m.kept then m.ctxs.map (Ctx.relocate m.seq u.seq uid u.lid s.now)
      else rejoin (m.ctxs.zipIdx.map (fun e =>
        (e.1.relocate 0 0 uid u.lid s.now).fromRegs u (fld (rb 0) 0x4A20 8 % 16) (rb e.2)))
    let m1 : Image := { m with
      frags := m.frags.map (fun e => (e.1, { e.2 with q := e.2.q.map (fun q => (q.1, q.2.map (fun k =>
        k.relocate m.seq u.seq (if k.uid = m.uid || u.lid != k.lid then uid else k.uid) u.lid))) })) }
    let s1 := if m.kept then placeFrags m1 u.seq s else newFrags cs0 s
    let s2 := cs0.zipIdx.foldl (fun s e =>
      if sh && e.1.slot != leadSlot s u.lid then s else s.modFrag e.1.arr (Frag.amodeBack (rb e.2))) s1
    let backs := cs0.zipIdx.map (fun e => entriesBack m1 e.1 e.2 s.nextId (eb e.2))
    let cs := (cs0.zip backs).zipIdx.map (fun e =>
      readRegs (rb e.2) (fun x => (Tab.get? e.1.2 x).map (·.id)) e.1.1)
    let s3 := (cs.zip backs).foldl (fun s e => queuesBack s sh e.1 e.2) { s2 with nextId := s.nextId + 96 * n }
    let o := 65536 * n
    let np := planeBytes s3 u sh cs
    (readRun s3 w .engRead 64 (np / 64) (u64 (m.addr + o))).bind (fun pb =>
      let s4 := planesBack s3 pb (planePanes s3 sh u cs) (planeFrags s3 sh cs)
      (accsBack w sh m.addr cs (o + np) s4).bind (fun a => (padsBack w m.addr cs a.1 a.2).bind (fun p =>
        (readRun p.2 w .engRead 64 (256 * (u.h * u.w)) (u64 (m.addr + p.1))).bind (fun gb =>
          (gridsBack u bs gb (cs.zip ((List.range n).map eb |>.zip backs)) 0 p.2).bind (fun s5 =>
            let s6 := cs.foldl (fun s c => s.addCtx c) s5
            let s7 := cs.zipIdx.foldl (fun s e => if sh then leaseBack s (rb e.2) e.1 else s) s6
            let s8 := chainsBack m.uid u.seq m (cs.zipIdx.map (fun e => (e.1, rb e.2))) s7
            let gone := backs.zipIdx.flatMap (fun e => emptied m1 e.2 e.1)
            let redone := (m1.cmds.filter (fun k => k.st == .started)).filterMap (fun k =>
              if backs.any (fun b => b.any (fun x => x.2.id == k.id && x.2.st == .started)) then none else some k.id)
            .ok (gone.foldl (fun s id => s.complete id Done.ok) (dropFab s8 redone))))))))
/-- A yield image read back: PC and g1 to gn, else the state of R29 (R223). -/
def restoreYield (s : State) (uid cid : Nat) (u : UnitRec) (img : Image) : Res State :=
  let n := img.yieldN.getD 0
  (readRun s (mordant s u) .engRead 8 (8 + n) (u64 img.addr)).bind (fun bs =>
    let c := unitCtx s u.lid uid cid u.unit u.sec u.seq u.seq u.h u.w 0
    let g := (List.range n).foldl (fun g i => Store.put 0 g (i + 1) (u64 (fld bs (64 + 8 * i) 8))) c.g
    .ok ((s.modFrag u.seq (fun f => { f with h := u.h, w := u.w })).addCtx { c with pc := u64 (fld bs 0x10 8), g := g }))

/-- One unit's image is read, or its reading fails; none while an access is held, or a cancel that its home received
earlier is to be applied (R234). -/
def readImage (s : State) (uid cid : Nat) : Option State :=
  match s.unit? uid with
  | none => some s
  | some u => match u.image with
    | none => some s
    | some img =>
      match (if img.yieldN.isSome then restoreYield s uid cid u img else restoreFull s uid u img) with
      | .hold => none
      | .fail cause _ _ => if cancelPending s u.lid then none else some (imageFailed s uid cause)
      | .ok s1 => some (s1.modUnit uid (fun u => { u with phase := .running, image := none, deferred := none }))
def readImages (cid : Nat) : List Nat → State → Option State
  | [], s => some s
  | uid :: t, s => (readImage s uid cid).bind (readImages cid t)
/-- The units whose images are read together: a shared launch, the one that carries its fragment first (R36, R74). -/
def readGroup (s : State) (uid : Nat) (u : UnitRec) : List Nat :=
  if launchShared s u.lid then
    let us := (unitsOf s u.lid).filter (fun x => x.2.phase == .reading)
    let first (x : Nat × UnitRec) : Bool := x.2.unit == leadSlot s u.lid
    (us.filter first ++ us.filter (fun x => !first x)).map (·.1)
  else [uid]
/-- RESUMPTION_READ_DONE (R229, R230): the unit goes on. A resumed image belongs to its launch from now on. -/
def execResumptionReadDone (cid : Nat) (s : State) : Out :=
  .next (match s.units.find? (fun u => u.2.phase == .reading && u.2.cids.contains cid) with
    | none => s
    | some (uid, u) => (readImages cid (readGroup s uid u) s).getD s)

end Sys2Proof.Machine
end

