-- ==== Sys2Proof/Machine/Place.lean ====
section
/-! DEFINITION. The Mordant: readiness and placement sets (R60, R65, R68, R70), free placements and heat (R64,
R75), placement and resumption (R28 to R35, R55, R230, R231), selection with reservation, backfill and pre-emption
(R65 to R71), ageing (R61), the wait quantum (R54). -/
namespace Sys2Proof.Machine

/- Readiness -/

def launchJob (s : State) (lid : Nat) : W16 := ((s.ent? lid).map (·.job)).getD 0
/-- R60. -/
def isReady (s : State) (lid : Nat) (l : Launch) : Bool :=
  ((s.ent? lid).map (fun e => !e.complete)).getD false && !isCancelled s lid
    && (l.next < l.lpb.nunits || (unitsOf s lid).any (fun u => u.2.phase == .saved))
/-- Whether a deferred unit may be resumed again (R70). -/
def mayResume (s : State) (u : UnitRec) : Bool :=
  u.phase == .saved && match u.deferred with
    | none => true
    | some qs => ((s.launch? u.lid).map (fun l => l.next == l.lpb.nunits)).getD true
        && qs.all (fun q => match s.launch? q.1 with
          | none => true
          | some l => !isReady s q.1 l || q.2 < l.placed)

/-- One item of a placement set: a saved unit, or none where it is not placed yet, with its index, which instance of a
replica it is, dies that are ruled out. -/
structure PItem where
  uid  : Option Nat
  unit : Nat
  sec  : Bool
  not  : List Nat
deriving DecidableEq, Repr
/-- A placement set (R65). The items of a block go to one die (R109). -/
structure PlaceSet where
  blocks : List (List PItem)
deriving DecidableEq, Repr
def PlaceSet.items (p : PlaceSet) : List PItem := p.blocks.flatten
/-- A unit that is not placed yet: of a replica two instances (R55). -/
def freshItems (replica : Bool) (i : Nat) : List (List PItem) :=
  if replica then [[⟨none, i, false, []⟩], [⟨none, i, true, []⟩]] else [[⟨none, i, false, []⟩]]

/-- A gang slice's part that has not started (R77). -/
def isSlice (l : Launch) : Bool := (l.slice.map (fun x => !x.started)).getD false
/-- Saved units by index. -/
def lowestSaved (s : State) (lid : Nat) : Option (Nat × UnitRec) :=
  ((unitsOf s lid).filter (fun u => mayResume s u.2)).foldl (fun m u => match m with
    | none => some u
    | some v => if u.2.unit < v.2.unit then some u else some v) none
/-- The die of the other instance of a replica's unit. -/
def twinDie (s : State) (u : UnitRec) : List Nat :=
  match u.twin.bind s.unit? with
  | none => []
  | some t => if t.phase = .saved then [] else [t.seq / 16]

/-- A saved unit as an item: not on the die of its other instance (R55). -/
def savedItem (s : State) (uid : Nat) (u : UnitRec) : PItem := ⟨some uid, u.unit, u.sec, twinDie s u⟩
/-- Saved units, those that chains join in one block (R109). -/
def savedBlocks (s : State) (us : List (Nat × UnitRec)) : List (List PItem) :=
  (us.foldl (fun (acc : List Nat × List (List PItem)) u =>
    if acc.1.contains u.1 then acc
    else
      let b := us.filter (fun x => x.1 == u.1 || u.2.mates.contains x.1)
      (acc.1 ++ b.map (·.1), acc.2 ++ [b.map (fun x => savedItem s x.1 x.2)])) ([], [])).2
def placementSet (s : State) (lid : Nat) (l : Launch) : Option PlaceSet :=
  let us := unitsOf s lid
  let saved := us.filter (fun u => u.2.phase == .saved)
  if l.lpb.gang || l.lpb.shared then
    if l.next < l.lpb.nunits then
      let n := if l.lpb.shared then 1 else l.lpb.nunits
      some ⟨(List.range n).flatMap (freshItems l.lpb.replica)⟩
    else if saved.isEmpty || !saved.all (fun u => mayResume s u.2)
        || us.any (fun u => !(u.2.phase == .saved || u.2.phase == .exited || u.2.phase == .counted)) then none
    else if l.lpb.shared then some ⟨(saved.take 1).map (fun u => [savedItem s u.1 u.2])⟩
    else some ⟨savedBlocks s saved⟩
  else match lowestSaved s lid with
    | some (uid, u) =>
      let ms := if u.mates.isEmpty then [uid] else u.mates.filter (fun m => (s.unit? m).any (fun x => x.phase == .saved))
      if u.mates.all (fun m => (s.unit? m).all (fun x => mayResume s x || x.phase == .exited)) then
        some ⟨[ms.filterMap (fun m => (s.unit? m).map (savedItem s m))]⟩
      else none
    | none => if l.next < l.lpb.nunits then some ⟨freshItems l.lpb.replica l.next⟩ else none

/-- Units of a launch that hold a fragment. -/
def placedNow (s : State) (lid : Nat) : Nat :=
  ((unitsOf s lid).filter (fun u => !u.2.freed && !(u.2.phase == .saved || u.2.phase == .counted))).length
/-- A placement set that would take the launch beyond the fragments that it may use at once (R34, R38): two for a unit of
a replica. It is not placed before one of them is free (DEDUCED, assumption 84). -/
def overNfrag (s : State) (lid : Nat) (l : Launch) (p : PlaceSet) : Bool :=
  !l.lpb.shared && l.nfrag * (if l.lpb.replica then 2 else 1) < placedNow s lid + p.items.length
/-- Fragments of a launch that a die's allowance lets it hold at once. -/
def dieRoom (s : State) (l : Launch) (d : Nat) : Nat :=
  if l.lpb.heat = 0 then 16 / l.lpb.panes else min (16 / l.lpb.panes) ((s.die d).heat / l.lpb.heat)
/-- R68: not placeable even with every pane free: no die has room for a block, or all together not for the set. Of a
replica a die takes one instance of each unit (R55). -/
def unplaceable (s : State) (l : Launch) (p : PlaceSet) : Bool :=
  let units := (p.items.map (·.unit)).eraseDups.length
  let room (d : Nat) : Nat := if l.lpb.replica then min (dieRoom s l d) units else dieRoom s l d
  p.blocks.any (fun b => l.lpb.dies.all (fun d => b.any (fun i => i.not.contains d) || dieRoom s l d < b.length))
    || (l.lpb.dies.map room).foldl (· + ·) 0 < p.items.length

/- Free placements -/

/-- Trailing commands of a job drain on a pane (R51). -/
def drainsFor (s : State) (job : W16) (p : Nat) : Bool :=
  s.units.any (fun u => u.2.freed && launchJob s u.2.lid != job && (panesOf u.2.seq u.2.h u.2.w).contains p
    && !(unitCmds s u.1).isEmpty)
def reservedFor (s : State) (lid p : Nat) : Bool :=
  (s.resv.any (fun r => r.lid != lid && r.panes.contains p)) || s.holds.any (fun r => r.lid != lid && r.panes.contains p)
def paneFree (s : State) (lid p : Nat) : Bool :=
  Store.get 0 s.occ p == 0 && !reservedFor s lid p && !drainsFor s (launchJob s lid) p && s.dieOpen (p / 16)
/-- Heat in use on a die, without what is held for a launch itself (R66, R75). -/
def heatUse (s : State) (lid d : Nat) : Nat :=
  ((s.occ.filter (fun e => e.1 / 16 == d)).map (fun e =>
    ((s.unit? e.2).bind (fun u => (s.launch? u.lid).map (fun l => heatPer l.lpb.pclass))).getD 0)).foldl (· + ·) 0
  + (((s.resv.toList ++ s.holds).filter (fun r => r.lid != lid)).map (fun r => Store.get 0 r.heat d)).foldl (· + ·) 0

/-- Every origin of a shape on a list of dies, lowest first (R63, R64). -/
def origins (l : Launch) (dies : List Nat) : List Nat :=
  dies.flatMap (fun d => ((List.range 16).filter (fun p => originOk p l.lpb.hw.1 l.lpb.hw.2)).map (fun p => 16 * d + p))
def fragPanes (l : Launch) (seq : Nat) : List Nat := panesOf seq l.lpb.hw.1 l.lpb.hw.2
/-- Heat fits with `n` more fragments of the launch on a die already. -/
def heatFits (s : State) (lid : Nat) (l : Launch) (d n off : Nat) : Bool :=
  heatUse s lid d + l.lpb.heat * (n + 1) ≤ (s.die d).heat + off
def onDie (taken : List Nat) (d : Nat) : Nat := (taken.filter (fun t => t / 16 == d)).length
def clear' (l : Launch) (taken : List Nat) (seq : Nat) : Bool :=
  (fragPanes l seq).all (fun p => taken.all (fun t => !(fragPanes l t).contains p))

/-- Items with the origins that they take. -/
abbrev Spots := List (PItem × Nat)
def Spots.panes (t : Spots) : List Nat := t.map (·.2)
/-- Whether an item may go to a die: not where its other instance is or goes (R55). -/
def mayGo (l : Launch) (taken : Spots) (i : PItem) (d : Nat) : Bool :=
  !i.not.contains d && (!l.lpb.replica || taken.all (fun t => t.1.unit != i.unit || t.2 / 16 != d))
/-- Whether an origin is free for one more fragment of the launch (R64). -/
def spotFree (s : State) (lid : Nat) (l : Launch) (taken : Spots) (q : Nat) : Bool :=
  clear' l taken.panes q && (fragPanes l q).all (paneFree s lid)
    && heatFits s lid l (q / 16) (onDie taken.panes (q / 16)) 0
/-- The lowest free origins of a block on one die. -/
def freeOn (s : State) (lid : Nat) (l : Launch) (d : Nat) : List PItem → Spots → Option Spots
  | [], taken => some taken
  | i :: t, taken =>
    if !mayGo l taken i d then none
    else match (origins l [d]).find? (spotFree s lid l taken) with
      | none => none
      | some q => freeOn s lid l d t (taken ++ [(i, q)])
/-- The free placement of each block in turn: the lowest die that has one, on it the lowest origins (R64). -/
def chooseFree (s : State) (lid : Nat) (l : Launch) : List (List PItem) → Spots → Option Spots
  | [], taken => some taken
  | b :: t, taken => (l.lpb.dies.findSome? (fun d => freeOn s lid l d b taken)).bind (chooseFree s lid l t)
def freePlacement (s : State) (lid : Nat) (l : Launch) (p : PlaceSet) : Option (List Nat) :=
  if overNfrag s lid l p then none else (chooseFree s lid l p.blocks []).map Spots.panes

/- Placement -/

def placedUnit (lid unit : Nat) (sec : Bool) (seq arr h w : Nat) (ph : UPhase) (cids : List Nat) (twin : Option Nat) : UnitRec :=
  ⟨lid, unit, sec, seq, arr, h, w, ph, 0, none, [], cids, 0, 0, false, 0, twin, [], none, none, false, [], [], [], 0⟩

/-- A unit placed in the state of R29 (R28, R30, R34, R55). -/
def placeFresh (s : State) (lid : Nat) (l : Launch) (unit : Nat) (sec : Bool) (seq : Nat) (twin : Option Nat) : Nat × State :=
  let (h, w) := l.lpb.hw
  let (uid, s1) := s.fresh
  let (cid, s2) := s1.fresh
  let s3 := (takePanes s2 (launchJob s lid) uid (fragPanes l seq) true).modFrag seq (fun f => { f with h := h, w := w })
  let s4 := { s3 with units := Tab.set s3.units uid (placedUnit lid unit sec seq seq h w .running [cid] twin) }
  (uid, s4.addCtx (unitCtx s4 lid uid cid unit sec seq seq h w 0))
/-- Unit i of a shared launch on pane i of the fragment (R35, R36). -/
def placeSlot (s : State) (lid : Nat) (l : Launch) (seq i : Nat) : State :=
  let p := ((fragPanes l seq)[i]?).getD seq
  let (uid, s1) := s.fresh
  let (cid, s2) := s1.fresh
  let s3 := { s2 with occ := if i = 0 then setPanes s2.occ (fragPanes l seq) uid else Store.put 0 s2.occ p uid }
  let s4 := if i = 0 then s3 else s3.modFrag p (fun f => { f with h := 1, w := 1 })
  let s5 := { s4 with units := Tab.set s4.units uid (placedUnit lid i false p seq 1 1 .running [cid] none) }
  s5.addCtx (unitCtx s5 lid uid cid i false p seq 1 1 i)
def placeShared (s : State) (lid : Nat) (l : Launch) (seq : Nat) : State :=
  let (h, w) := l.lpb.hw
  let s1 := (takePanes s (launchJob s lid) 0 (fragPanes l seq) true).modFrag seq (fun f => { f with h := h, w := w })
  (List.range l.lpb.nunits).foldl (fun s i => placeSlot s lid l seq i) s1

/-- A saved unit takes its panes again; its image is read (R230). -/
def placeSaved (s : State) (uid seq arr : Nat) (ps : List Nat) : State :=
  match s.unit? uid with
  | none => s
  | some u =>
    let yield := (u.image.bind (·.yieldN)).isSome
    (takePanes s (launchJob s u.lid) uid ps yield).modUnit uid (fun u =>
      { u with phase := .reading, deadline := s.now, seq := seq, arr := arr })
/-- Every saved unit of a shared launch, on the pane of its slot; slot 0 takes the panes without a unit. The array commands
of units that have exited stand in the fragment's queues again (R36, R49). -/
def placeSharedSaved (s : State) (lid : Nat) (l : Launch) (seq : Nat) : State :=
  let us := (unitsOf s lid).filter (fun u => u.2.phase == .saved)
  let s1 := takePanes s (launchJob s lid) ((us.head?.map (·.1)).getD 0) (fragPanes l seq) false
  let out := ((unitsOf s lid).filter (fun u => u.2.phase == .exited)).map (·.1)
  let s2 := out.foldl (fun s x => s.modUnit x (fun u => { u with arr := seq })) s1
  us.foldl (fun s u =>
    let p := moved u.2.arr seq u.2.seq
    { s with occ := Store.put 0 s.occ p u.1 }.modUnit u.1 (fun u =>
      { u with phase := .reading, deadline := s.now, seq := p, arr := seq })) s2

/-- An image of which the package holds no record: as many contexts as its header names, at most 16 (R233). -/
def foundImage (s : State) (lid : Nat) (l : Launch) (bs : List Nat) : Image :=
  let c := unitCtx s lid 0 0 0 false 0 0 l.lpb.hw.1 l.lpb.hw.2 0
  ⟨l.lpb.image.toNat, fld bs 8 8, none, l.lpb.shape, false, 0, 0,
    (List.range (max 1 (min 16 (fld bs 7 1)))).map (fun i => { c with compid := i }), [], []⟩
/-- The image that a RESUME launch names (R231): its header checked, and what the package holds of it, unless software
has given the header another SHAPE or NCTX: then the bytes alone say what it is. -/
def resumeImage (s : State) (lid : Nat) (l : Launch) : Res (Except W32 (Image × Option Detached)) :=
  let job := launchJob s lid
  let a := l.lpb.image
  (readRun s (Who.ctl job 15) .engRead 8 8 a).bind (fun bs =>
    if fld bs 0 4 != 1 || fld bs 5 1 != 1 || fld bs 0x18 2 != job.toNat then .ok (.error (statusWord cDesc 0))
    else if fld bs 6 1 != l.lpb.shape then .ok (.error (rejected sShape))
    else
      let d := s.detached.find? (fun d => d.job == job && d.image.addr == a.toNat)
      let img := match d with
        | some d =>
          if fld bs 4 1 != 1 && (d.image.ctxs.length != fld bs 7 1 || d.image.shape != fld bs 6 1) then foundImage s lid l bs
          else d.image
        | none => foundImage s lid l bs
      let y := if fld bs 4 1 = 1 then some (min 63 (fld bs 0x1A 1)) else none
      .ok (.ok ({ img with yieldN := y }, d)))
/-- The detached image of a job at an address is discarded, and its space freed (R222, R233). -/
def discardImage (s : State) (job : W16) (addr : Nat) : State :=
  let hit (d : Detached) : Bool := d.job == job && d.image.addr == addr
  let spaces := (s.detached.filter hit).filterMap (·.space)
  spaces.foldl (fun s a => freeImage s job a.1) { s with detached := s.detached.filter (fun d => !hit d) }
/-- What a restored context takes from its new launch (R231). -/
def Ctx.adopt (c : Ctx) (n : Ctx) (cid uid lid : Nat) : Ctx :=
  { c with
    cid := cid, uid := uid, lid := lid, unit := 0, nunits := n.nunits, lhandle := n.lhandle, nfrag := n.nfrag,
    lparam := n.lparam, ctxid := n.ctxid, halted := false }
/-- A RESUME launch's unit: its image is read on the fragment, or the launch fails and no unit runs; a fault of the read
discards the image (R222). Not while a cancel that its home has received is to be applied (R234). -/
def placeResume (s : State) (lid : Nat) (l : Launch) (seq : Nat) : Option State :=
  match resumeImage s lid l with
  | .hold => none
  | .fail c _ _ => if cancelPending s lid then none
    else some (failLaunch (discardImage (s.countEcc (statusWord c 0)) (launchJob s lid) l.lpb.image.toNat) lid (statusWord c 0))
  | .ok (.error st) => if cancelPending s lid then none else some (failLaunch s lid st)
  | .ok (.ok (img, d)) =>
    let job := launchJob s lid
    let (uid, s1) := s.fresh
    let (h, w) := l.lpb.hw
    let base := s1.nextId
    let n := unitCtx s1 lid uid base 0 false seq seq h w 0
    let cs := img.ctxs.zipIdx.map (fun e => e.1.adopt n (if img.kept then e.1.cid else base + e.2) uid lid)
    let cids := if img.yieldN.isSome then [base] else cs.map (·.cid)
    let s2 : State := { s1 with
      nextId := base + 16
      detached := s1.detached.filter (fun x => !(x.job == job && x.image.addr == img.addr)) }
    let s3 := ctlWrite (takePanes s2 job uid (fragPanes l seq) img.yieldN.isSome) job (u64 (img.addr + 5)) 1 0
    let u : UnitRec := { placedUnit lid 0 false seq seq h w .reading cids none with
      deadline := s.now, image := some { img with ctxs := cs }
      bars := (d.map (·.bars)).getD [], ncomp := (d.map (·.ncomp)).getD (cs.length - 1), space := d.bind (·.space) }
    some { s3 with units := Tab.set s3.units uid u }

/-- One item of a placement set takes its fragment. -/
def placeItem (s : State) (lid : Nat) (l : Launch) (it : PItem) (seq : Nat) (twin : Option Nat) : Option Nat × State :=
  match it.uid with
  | some uid => (none, placeSaved s uid seq seq (fragPanes l seq))
  | none =>
    let (uid, s1) := placeFresh s lid l it.unit it.sec seq (if it.sec then twin else none)
    (some uid, if it.sec then s1.modUnit (twin.getD 0) (fun u => { u with twin := some uid }) else s1)
def placeItems (lid : Nat) (l : Launch) : Spots → Option Nat → State → State
  | [], _, s => s
  | (it, seq) :: t, prev, s =>
    let (uid, s1) := placeItem s lid l it seq prev
    placeItems lid l t uid s1

/-- A placement set is placed or resumed; LASTQ, the wait of R61 and the reservation follow (R61, R65, R66). -/
def placeAll (s : State) (lid : Nat) (l : Launch) (p : PlaceSet) (spots : List Nat) : State :=
  let q := ((s.ent? lid).map (·.queue)).getD 0
  let fresh := p.items.any (fun i => i.uid.isNone)
  let note (s : State) : State :=
    let s1 := s.modLaunch lid (fun l => { l with
      next := if fresh then (if l.lpb.gang || l.lpb.shared then l.lpb.nunits else l.next + 1) else l.next
      placed := l.placed + 1, wbase := s.now, wsteps := 0 })
    { s1 with lastq := q, resv := if s1.resv.any (fun r => r.lid == lid) then none else s1.resv }
  match spots with
  | [] => s
  | seq :: _ =>
    if l.lpb.resume && fresh then
      match placeResume s lid l seq with
      | none => s
      | some s1 => if (s1.launch? lid).any (fun l => l.failed.isSome) then s1 else note s1
    else if l.lpb.shared then note (if fresh then placeShared s lid l seq else placeSharedSaved s lid l seq)
    else note (placeItems lid l (p.items.zip spots) none s)

/- Reservation and pre-emption -/

def reserve (s : State) (lid : Nat) (l : Launch) (spots : List Nat) : State :=
  let heat : Store Nat := spots.foldl (fun m q => Store.put 0 m (q / 16) (Store.get 0 m (q / 16) + l.lpb.heat)) []
  { s with resv := some ⟨lid, spots.flatMap (fragPanes l), heat⟩ }
/-- The spots of a reservation. -/
def resvSpots (l : Launch) (r : Resv) : List Nat :=
  (r.panes.zipIdx).filterMap (fun e => if e.2 % l.lpb.panes = 0 then some e.1 else none)

def argmin {α : Type} (lt : α → α → Bool) : List α → Option α
  | [] => none
  | x :: t => match argmin lt t with
    | none => some x
    | some y => if lt y x then some y else some x

/-- Panes of a spot that are not free for placement (R66). -/
def occupancy (s : State) (lid : Nat) (l : Launch) (q : Nat) : Nat :=
  ((fragPanes l q).filter (fun x => !paneFree s lid x)).length
/-- For each item of a block in turn the origin on a die whose panes are least occupied, with the panes occupied in all. A
die whose allowance has no room for the candidate's heat is left out, since no placement there could follow; R66 names
the panes only (DESIGN CHOICE, assumption 84). -/
def leastOn (s : State) (lid : Nat) (l : Launch) (d : Nat) : List PItem → Nat → Spots → Option (Nat × Spots)
  | [], n, taken => some (n, taken)
  | i :: t, n, taken =>
    if !mayGo l taken i d || dieRoom s l d ≤ onDie taken.panes d then none
    else match argmin (fun a b => a.1 < b.1)
        (((origins l [d]).filter (clear' l taken.panes)).map (fun q => (occupancy s lid l q, q))) with
      | none => none
      | some (k, q) => leastOn s lid l d t (n + k) (taken ++ [(i, q)])
/-- R66: each block in turn on the die, and at the origins, whose panes are least occupied, the lowest on a tie. -/
def leastOccupied (s : State) (lid : Nat) (l : Launch) : List (List PItem) → Spots → Option Spots
  | [], taken => some taken
  | b :: t, taken =>
    (argmin (fun a b => a.1 < b.1) (l.lpb.dies.filterMap (fun d => leastOn s lid l d b 0 taken))).bind (fun x =>
      leastOccupied s lid l t x.2)
/-- The reservation's spots. -/
def reservation (s : State) (lid : Nat) (l : Launch) (p : PlaceSet) : Option (List Nat) :=
  (leastOccupied s lid l p.blocks []).map Spots.panes

def union (a b : List Nat) : List Nat := a ++ b.filter (fun x => !a.contains x)
def effOf (s : State) (uid : Nat) : Nat := ((s.unit? uid).bind (fun u => (s.launch? u.lid).map (·.eff))).getD 0
/-- Whether every image of a list of units would find room (R222). -/
def roomForAll (s : State) : List Nat → Bool
  | [] => true
  | uid :: t => match (s.unit? uid).bind (fun u => takeRoom s uid (imageBytes s u)) with
    | none => false
    | some s1 => roomForAll s1 t
/-- The victims of a spot, or none where it may not be taken. -/
def victimsOf (s : State) (lid : Nat) (l : Launch) (seq : Nat) : Option (List Nat) :=
  let ps := fragPanes l seq
  let busy := ps.filter (fun p => !paneFree s lid p)
  if busy.any (fun p => Store.get 0 s.occ p = 0 || reservedFor s lid p || !s.dieOpen (p / 16)) then none
  else
    let vs := busy.foldl (fun acc p => union acc (victimGroup s (Store.get 0 s.occ p))) []
    let ok := vs.all (fun v => (s.unit? v).any (fun u => u.phase == .running) && effOf s v + 2 ≤ l.eff) && roomForAll s vs
    if ok then some vs else none
/-- Heat that victims give back on a die. -/
def heatOf (s : State) (vs : List Nat) (d : Nat) : Nat :=
  ((s.occ.filter (fun e => e.1 / 16 == d && vs.contains e.2)).map (fun e =>
    ((s.unit? e.2).bind (fun u => (s.launch? u.lid).map (fun l => heatPer l.lpb.pclass))).getD 0)).foldl (· + ·) 0
/-- Order of R69: highest victim priority, image bytes, then lowest die and origin. -/
def costOf (s : State) (vs : List Nat) : Nat × Nat :=
  (vs.foldl (fun m v => max m (effOf s v)) 0,
   vs.foldl (fun n v => n + ((s.unit? v).map (imageBytes s)).getD 0) 0)
def cheaper (a b : (Nat × Nat) × List Nat × List Nat) : Bool := a.1.1 < b.1.1 || (a.1.1 == b.1.1 && a.1.2 < b.1.2)
/-- The placements of a block on a die whose occupied panes all belong to units that may be pre-empted, with their
victims, in order of origin (R69). -/
def preemptOn (s : State) (lid : Nat) (l : Launch) (d : Nat) : List PItem → Spots → List Nat → List (Spots × List Nat)
  | [], taken, vs => [(taken, vs)]
  | i :: t, taken, vs =>
    if !mayGo l taken i d then []
    else (origins l [d]).flatMap (fun q =>
      if !clear' l taken.panes q then []
      else match victimsOf s lid l q with
        | none => []
        | some v => preemptOn s lid l d t (taken ++ [(i, q)]) (union vs v))
/-- Those of a whole set, in order of die and origin. -/
def preemptible (s : State) (lid : Nat) (l : Launch) : List (List PItem) → Spots → List Nat → List (List Nat × List Nat)
  | [], taken, vs => [(taken.panes, vs)]
  | b :: t, taken, vs => l.lpb.dies.flatMap (fun d => (preemptOn s lid l d b taken vs).flatMap (fun x =>
      preemptible s lid l t x.1 x.2))
/-- The placement of R69 with its victims: highest victim priority, then image bytes, then die and origin. It must fit the
heat of its dies once the victims' heat is given back; R69 names the panes only, R75 and R76 the heat of every placement
(DESIGN CHOICE, assumption 84). -/
def choosePreempt (s : State) (lid : Nat) (l : Launch) (p : PlaceSet) : Option (List Nat × List Nat) :=
  let ok := if overNfrag s lid l p then [] else (preemptible s lid l p.blocks [] []).filter (fun e =>
    e.1.all (fun q => heatFits s lid l (q / 16) (onDie e.1 (q / 16) - 1) (heatOf s e.2 (q / 16))) && roomForAll s e.2)
  (argmin cheaper (ok.map (fun e => (costOf s e.2, e)))).map (·.2)

/-- The decision: yield windows open, the placement is reserved (R69, R70). -/
def preempt (s : State) (lid : Nat) (l : Launch) (spots vs : List Nat) : State :=
  vs.foldl (fun s v => s.modUnit v (fun u => { u with phase := .window, deadline := s.now + 10 * ticksPerUs })) (reserve s lid l spots)

/-- Some unit on the reserved panes is under pre-emption. -/
def underWay (s : State) (r : Resv) : Bool :=
  r.panes.any (fun p => (s.unit? (Store.get 0 s.occ p)).any (fun u =>
    u.phase == .window || u.phase == .quiescing || u.phase == .writing))

/- Selection -/

/-- Launches that can take part in a selection, with their placement sets; a slice held or turned down cannot. -/
def selectable (s : State) : List (Nat × Launch × PlaceSet) :=
  s.launches.filterMap (fun e =>
    if !isReady s e.1 e.2 || (isSlice e.2 && (s.holds.any (fun h => h.lid == e.1) || (e.2.slice.any (·.decided)))) then none
    else (placementSet s e.1 e.2).bind (fun p =>
      if unplaceable s e.2 p then none else some (e.1, e.2, p)))
/-- An unplaceable launch holds no reservation (R68). -/
def dropUnplaceable (s : State) : State :=
  { s with resv := s.resv.filter (fun r => match s.launch? r.lid with
    | none => false
    | some l => isReady s r.lid l && (placementSet s r.lid l).any (fun p => !unplaceable s l p)) }
/-- Order of R65: priority, then queue after LASTQ, then acceptance. -/
def before (s : State) (a b : Nat × Launch × PlaceSet) : Bool :=
  let q (x : Nat × Launch × PlaceSet) : Nat := (((s.ent? x.1).map (·.queue)).getD 0 + 31 - s.lastq) % 32
  b.2.1.eff < a.2.1.eff || (a.2.1.eff == b.2.1.eff && (q a < q b || (q a == q b && a.2.1.order < b.2.1.order)))
def insertBy {α : Type} (lt : α → α → Bool) (x : α) : List α → List α
  | [] => [x]
  | y :: t => if lt x y then x :: y :: t else y :: insertBy lt x t
def inOrder (s : State) (l : List (Nat × Launch × PlaceSet)) : List (Nat × Launch × PlaceSet) :=
  l.foldr (insertBy (before s)) []

/-- Each of the later launches that has a free placement takes it (R67). A gang slice's part that has not started is not
backfilled: its start is R77's, so that R67's trial of every later launch is read not to cover it (DESIGN CHOICE,
assumption 84). -/
def backfill (s : State) : List (Nat × Launch × PlaceSet) → State
  | [] => s
  | (lid, l, p) :: t =>
    backfill (if isSlice l then s else match freePlacement s lid l p with
      | some spots => placeAll s lid l p spots
      | none => s) t

/-- What is done for the candidate: whether it was placed, and the state. -/
def tryCandidate (s : State) (lid : Nat) (l : Launch) (p : PlaceSet) : Bool × State :=
  let own := s.resv.filter (fun r => r.lid == lid)
  let spots := (own.map (resvSpots l)).getD []
  let ready' := !overNfrag s lid l p && own.any (fun r => r.panes.all (paneFree s lid)) && spots.length = p.items.length
    && spots.all (fun q => heatFits s lid l (q / 16) (onDie spots (q / 16) - 1) 0)
  if ready' && !isSlice l then (true, placeAll s lid l p spots)
  else if ready' then (false, s)
  else match freePlacement s lid l p with
    | some q => if isSlice l then (false, reserve s lid l q) else (true, placeAll s lid l p q)
    | none =>
      if own.any (underWay s) then (false, s)
      else
        match choosePreempt s lid l p with
        | some (q, vs) => (false, preempt s lid l q vs)
        | none =>
          if own.isSome then (false, s)
          else match reservation s lid l p with
            | some q => (false, reserve s lid l q)
            | none => (false, s)

/-- SELECTION (R65 to R69). -/
def execSelection (s0 : State) : Out :=
  let s := dropUnplaceable s0
  .next (match inOrder s (selectable s) with
    | [] => s
    | (lid, l, p) :: rest =>
      let s0 := if s.resv.any (fun r => r.lid != lid) then { s with resv := none } else s
      let (done, s1) := tryCandidate s0 lid l p
      if done then s1 else backfill s1 (rest.map (fun e => (e.1, e.2.1, e.2.2))))

/-- PRIORITY_AGEING_STEP (R61, R62): one more 2 ms of a ready launch's wait. -/
def execPriorityAgeingStep (lid : Nat) (s : State) : Out :=
  .next (match s.launch? lid with
    | none => s
    | some l =>
      if isReady s lid l && l.wbase + (l.wsteps + 1) * (2000 * ticksPerUs) ≤ s.now then
        (s.modLaunch lid (fun l => { l with wsteps := l.wsteps + 1 })).reprioritise
      else s)

/- Wait quantum (R54) -/

/-- Every live context of a unit has waited longer than 50 µs. -/
def waitedLong (s : State) (u : UnitRec) : Bool :=
  let cs := (ctxsOf s u).filter (fun c => c.phase == .running)
  !cs.isEmpty && cs.all (fun c => c.wait == .quantum && c.since + 50 * ticksPerUs < s.now)
/-- Work queued for a die of equal or higher effective priority. -/
def queuedFor (s : State) (lid prio d : Nat) : List (Nat × Nat) :=
  ((selectable s).filter (fun e => e.1 != lid && prio ≤ e.2.1.eff && e.2.1.lpb.dies.contains d)).map (fun e => (e.1, e.2.1.placed))
def ownQueued (s : State) (lid : Nat) : Bool :=
  (selectable s).any (fun e => e.1 == lid && e.2.1.next < e.2.1.lpb.nunits)

/-- WAIT_QUANTUM_EXPIRY (R54, R70): full pre-emption at once, deferred. A gang or a shared launch stops as a whole, once
all its units have waited; a unit that chains join to others stops with them (R109). -/
def execWaitQuantumExpiry (cid : Nat) (s : State) : Out :=
  .next (match (s.ctx? cid).bind (fun c => (s.unit? c.uid).map (fun u => (c.uid, u))) with
    | none => s
    | some (uid, u) => match s.launch? u.lid with
      | none => s
      | some l =>
        let us := (victimGroup s uid).filterMap (fun x => (s.unit? x).map (fun r => (x, r)))
        let waiters := if l.lpb.gang || l.lpb.shared then us else [(uid, u)]
        let work := waiters.flatMap (fun x => queuedFor s u.lid l.eff (x.2.seq / 16))
        if us.any (fun x => x.2.phase != .running) || !waiters.all (fun x => waitedLong s x.2)
            || (work.isEmpty && !ownQueued s u.lid) then s
        else match stopAll s (us.map (·.1)) with
          | none => s
          | some s1 => us.foldl (fun s x => s.modUnit x.1 (fun r => { r with deferred := some work })) s1)

end Sys2Proof.Machine
end

