-- ==== Sys2Proof/Machine/Cancel.lean ====
section
/-! DEFINITION. A cancel at its home (R232 to R234). -/
namespace Sys2Proof.Machine

/-- Entities that a cancel of `x` ends, `x` included. -/
def beneath (s : State) (x : Nat) : List Nat :=
  (s.ents.filter (fun e => !e.2.complete && !e.2.cancelled && contains s x e.1)).map (·.1)

/-- Fetches of a detached image were stopped at their owners (R232): one that a RESUME restores begins again. -/
def Image.stopFetches (m : Image) (ids : List Nat) : Image :=
  { m with frags := m.frags.map (fun e => (e.1, { e.2 with q := e.2.q.map (fun q =>
    (q.1, q.2.map (fun k => if ids.contains k.id then k.requeue else k))) })) }
/-- A pre-empted unit is not resumed: its complete image is kept as detached (R232, R233). Its completion is counted; of
two instances of a unit with the last (R57). -/
def detach (s0 : State) (lid uid : Nat) (u : UnitRec) : State :=
  match u.image with
  | none => s0
  | some img0 =>
    let ids := (s0.fab.cmds.filter (fun f => (img0.cmd? f.id).isSome)).map (·.id)
    let s := dropFab s0 ids
    let img := img0.stopFetches ids
    let job := launchJob s lid
    let handle := ((s.ent? lid).map (·.handle)).getD 0
    let s1 := if u.phase = .reading then freeFragment s uid else s
    let c := (img.ctxs.find? (fun c => c.compid == 0)).getD { Ctx.reset with uid := uid, lid := lid, seq := u.seq, ctxid := job }
    let s2 := ctlWrite (s1.leaveBarriers { c with phase := .running }) job (u64 (img.addr + 5)) 1 1
    let d : Detached := ⟨job, handle, u.unit, img, u.bars, u.ncomp, u.space⟩
    let more := if otherInstance s lid uid then 0 else 1
    ({ s2 with units := Tab.erase s2.units uid, detached := s2.detached ++ [d] } : State).modLaunch lid
      (fun l => { l with done := l.done + more })

/-- A unit of a cancelled launch: it stops without an image, or what is saved of it is detached. -/
def cancelUnit (s : State) (lid uid : Nat) : State :=
  match s.unit? uid with
  | none => s
  | some u => match u.phase with
    | .saved => detach s lid uid u
    | .reading => detach s lid uid u
    | .exited => s
    | .counted => s
    | _ => if u.killed then s else killUnit s uid

/-- LAUNCHes of a launch's units that have no child yet end with CANCELLED. -/
def dropPend (s : State) (lid : Nat) : State :=
  (s.pend.filter (fun p => p.lid == lid && p.child.isNone)).foldl (fun s p =>
    ({ s with pend := s.pend.filter (fun x => x.id != p.id) } : State).complete p.id
      ⟨statusWord nCancelled 0, p.pc, p.word⟩) s

/-- No unit of the launch is placed any more, its units stop, those not placed count as complete; those of a slice's part
that holds GO leave its barriers (R287). -/
def cancelLaunch (s : State) (lid : Nat) : State :=
  let s0 := dropPend s lid
  let s1 : State := { s0 with
    resv := s0.resv.filter (fun r => r.lid != lid), holds := s.holds.filter (fun r => r.lid != lid) }
  let s2 := ((unitsOf s1 lid).map (·.1)).foldl (fun s uid => cancelUnit s lid uid) s1
  let out := match s2.launch? lid with
    | some l => if l.slice.any (fun x => x.decision = 1 && !x.started) then l.lpb.nunits - l.next else 0
    | none => 0
  let s3 := s2.modLaunch lid (fun l => { l with done := l.done + (l.lpb.nunits - l.next), next := l.lpb.nunits })
  checkLaunch (if out = 0 then s3 else s3.leaveUnstarted lid out) lid

/-- Nodes that wait are skipped. -/
def cancelGraph (s : State) (g : Nat) : State :=
  match Tab.get? s.graphs g with
  | none => s
  | some ns =>
    let ns1 := ns.map (fun n => if n.st = .waiting then { n with st := .skipped } else n)
    settleGraph { s with graphs := Tab.set s.graphs g ns1 } g

/-- The cancel of an entity with everything beneath it; `st` is what it completes with. A job stays open. -/
def cancelEnt (s : State) (x : Nat) (st : W32) : State :=
  let ids := beneath s x
  let s1 := ids.foldl (fun s e => s.modEnt e (fun n =>
    { n with cancelled := true, status := if e = x then st else statusWord nCancelled 0 })) s
  let of (lv : Level) : List Nat := ids.filter (fun e => ((s.ent? e).map (fun n => n.level == lv)).getD false)
  let s2 := (of .launch).foldl cancelLaunch s1
  let s3 := (of .graph).foldl cancelGraph s2
  let s4 := (of .phase).foldl closeEnt s3
  if ids.isEmpty then s else s4.reprioritise

/-- CANCEL_AT_HOME (R232, R234): a cancel of an entity that is complete, or cancelled already, has no effect. Cancels of
one home are applied in the order in which it received them. -/
def execCancelAtHome (idx : Nat) (s : State) : Out :=
  .next (match s.cancels[idx]? with
    | none => s
    | some c =>
      if (s.cancels.take idx).any (fun x => x.ent == c.ent) then s
      else cancelEnt { s with cancels := s.cancels.eraseIdx idx } c.ent (statusWord nCancelled 0))
/-- The cancels that an entity's home has received are applied before what it receives next (R234). -/
def settleCancels (s : State) (x : Nat) : State :=
  if s.cancels.any (fun c => c.ent == x) then
    cancelEnt { s with cancels := s.cancels.filter (fun c => c.ent != x) } x (statusWord nCancelled 0)
  else s

end Sys2Proof.Machine
end

