-- ==== Sys2Proof/Machine/Control.lean ====
section
/-! DEFINITION. Branches, jumps, LOOP, traps raised by SYS and TRAPF, ERET, NOP (R257, R290, R299, R307, R317,
R325, R336, R339); predicates and masks (R295, R321, R328). -/
namespace Sys2Proof.Machine

def execBr (gd : Guard) (off : W32) (s : State) : Out :=
  issue gd s (fun s => jump s (branchTarget s.cur off))
def execBrl (gd : Guard) (off : W32) (s : State) : Out :=
  issue gd s (fun s => jump (s.wg 63#6 (s.cur.pc + 8)) (branchTarget s.cur off))
/-- A misaligned target traps with ALIGN, access kind 3 (R214, R257). -/
def execJr (gd : Guard) (a : GReg) (off : W32) (s : State) : Out :=
  issue gd s (fun s =>
    let t := effAddr s.cur a off
    if t.toNat % 8 != 0 then trap s (wordOf (.jr gd a off)) cAlign t 3 else jump s t)
def execJrl (gd : Guard) (a : GReg) (off : W32) (s : State) : Out :=
  issue gd s (fun s =>
    let t := effAddr s.cur a off
    if t.toNat % 8 != 0 then trap s (wordOf (.jrl gd a off)) cAlign t 3
    else jump (s.wg 63#6 (s.cur.pc + 8)) t)
def execLoop (gd : Guard) (a : GReg) (off : W32) (s : State) : Out :=
  issue gd s (fun s =>
    let v := s.rg a - 1
    if v = 0 then advance (s.wg a v) else jump (s.wg a v) (branchTarget s.cur off))
def execNop (gd : Guard) (s : State) : Out := issue gd s advance
def execSys (gd : Guard) (code : BitVec 28) (s : State) : Out :=
  issue gd s (fun s => trap s (wordOf (.sys gd code)) cSys 0 (code.zeroExtend 64))
def execTrapf (gd : Guard) (s : State) : Out :=
  issue gd s (fun s =>
    let f := s.cur.aflags &&& s.cur.amask
    if f = 0 then advance s else trap s (wordOf (.trapf gd)) cArith 0 f)
/-- In user mode PRIV (R299). -/
def execEret (gd : Guard) (s : State) : Out :=
  issue gd s (fun s => if s.cur.sm then trapReturn s else trap0 s (wordOf (.eret gd)) cPriv)

def execCmp (gd : Guard) (d : PNum) (a b : GReg) (cond : Cond) (s : State) : Out :=
  issue gd s (fun s => advance (s.setCur (fun c => c.wp d (condHolds cond (c.rg a) (c.rg b)))))
def execCmpi (gd : Guard) (d : PNum) (a : GReg) (cond : Cond) (imm : W32) (s : State) : Out :=
  issue gd s (fun s => advance (s.setCur (fun c => c.wp d (condHolds cond (c.rg a) (sx imm)))))
def execPset (gd : Guard) (d a b : PNum) (tbl : BitVec 4) (s : State) : Out :=
  issue gd s (fun s => advance (s.setCur (fun c => c.wp d (tableBit tbl (c.rp a) (c.rp b)))))

/-- Lane by lane, the truth table as four terms (R321). -/
def maskLogic (tbl : BitVec 4) (a b : BitVec 128) : BitVec 128 :=
  let t (i : Nat) (x : BitVec 128) := if tbl.getLsbD i then x else 0
  t 0 (~~~a &&& ~~~b) ||| t 1 (~~~a &&& b) ||| t 2 (a &&& ~~~b) ||| t 3 (a &&& b)
def execMlog (gd : Guard) (d a b : MNum) (tbl : BitVec 4) (s : State) : Out :=
  issue gd s (fun s => advance (s.setCur (fun c => c.wm d (maskLogic tbl (c.rm a) (c.rm b)))))

end Sys2Proof.Machine
end

