-- ==== Sys2Proof/Machine/Elementary.lean ====
section
/-! DEFINITION. VRCP, VRSQ, VEXP and VLOG, correctly rounded (R158): each is computed as a truncated value with
the knowledge that bits below it are non-zero, which fixes its rounding in every mode. VEXP and VLOG are found
from bounds, and where these do not agree from the exact comparison of integer powers, so that every operand has
its value. -/
namespace Sys2Proof.Machine

/-- Digit-by-digit square root: the largest r with r² ≤ n among those with the bits of `acc` above bit k. -/
def isqrtFrom (n : Nat) : Nat → Nat → Nat
  | 0, acc => acc
  | k + 1, acc =>
    let c := acc + 2 ^ k
    isqrtFrom n k (if c * c ≤ n then c else acc)
def isqrt (n : Nat) : Nat := isqrtFrom n (Nat.log2 n / 2 + 1) 0

/-- A function's result: an exact value, or a truncated magnitude with sticky bits. -/
inductive FRes where
  | exact (v : Val) (fl : BitVec 8)
  | cut (neg : Bool) (m : Nat) (e : Int)
deriving DecidableEq, Repr

def canon : Val := .nan false false
def FRes.nan (sig : Bool) : FRes := .exact canon (nvIf sig)

/-- 1 / x (R158). -/
def rcpVal : Val → FRes
  | .nan _ g => .nan g
  | .inf n => .exact (.zero n) 0
  | .fin n m e =>
    if m = 0 then .exact (.inf n) fDZ
    else
      let k := Nat.log2 m + 80
      let q := 2 ^ k / m
      if q * m = 2 ^ k then .exact (.fin n q (-k - e)) 0 else .cut n q (-k - e)

/-- 1 / √x. -/
def rsqVal : Val → FRes
  | .nan _ g => .nan g
  | .inf n => if n then .exact canon fNV else .exact (.zero false) 0
  | .fin n m e =>
    if m = 0 then .exact (.inf n) fDZ
    else if n then .exact canon fNV
    else
      let (m, e) := if e % 2 = 0 then (m, e) else (2 * m, e - 1)
      let k := Nat.log2 m + 80
      let r := isqrt (2 ^ (2 * k) / m)
      if r * r * m = 2 ^ (2 * k) then .exact (.fin false r (-k - e / 2)) 0 else .cut false r (-k - e / 2)

/-- Bounds at `p` bits of the product of 2^(2^−i) over the set bits of a fraction f / 2^k, from bit k − 1 down.
`lo`, `hi` bound the current root. -/
def expBounds (p f : Nat) : Nat → Nat → Nat → Nat → Nat → Nat × Nat
  | 0, _, _, al, ah => (al, ah)
  | k + 1, lo, hi, al, ah =>
    let lo' := isqrt (lo * 2 ^ p)
    let hi' := isqrt (hi * 2 ^ p) + 1
    if f.testBit k then expBounds p f k lo' hi' (al * lo' / 2 ^ p) (ah * hi' / 2 ^ p + 1)
    else expBounds p f k lo' hi' al ah

/-- 2^(f / 2^k) truncated at `p` − 40 bits, where the bounds agree. -/
def expFrac (p f k : Nat) : Option Nat :=
  let (lo, hi) := expBounds p f k (2 ^ (p + 1)) (2 ^ (p + 1)) (2 ^ p) (2 ^ p)
  if lo / 2 ^ 40 = hi / 2 ^ 40 then some (lo / 2 ^ 40) else none

/-- Digit by digit: the largest r with r^j ≤ n among those with the bits of `acc` above bit i. -/
def rootFrom (n j : Nat) : Nat → Nat → Nat
  | 0, acc => acc
  | i + 1, acc => rootFrom n j i (if (acc + 2 ^ i) ^ j ≤ n then acc + 2 ^ i else acc)
/-- 2^(f / 2^k) truncated at `p` bits, exactly: the largest r with r^(2^k) ≤ 2^(f + p × 2^k). -/
def expExact (p f k : Nat) : Nat := rootFrom (2 ^ (f + p * 2 ^ k)) (2 ^ k) (p + 1) 0
/-- log2 of m / 2^l truncated at `p` bits, exactly, for 2^l < m < 2^(l+1). -/
def logExact (p m l : Nat) : Nat := Nat.log2 (m ^ 2 ^ p) - l * 2 ^ p

/-- 2^x. Beyond ±2^9 and below 2^−60 in magnitude every format rounds as the stand-in does. -/
def expVal : Val → FRes
  | .nan _ g => .nan g
  | .inf n => if n then .exact (.zero false) 0 else .exact (.inf false) 0
  | .fin n m e =>
    if m = 0 then .exact (.fin false 1 0) 0
    else
      let top : Int := e + (Nat.log2 m : Int)
      if 9 ≤ top then (if n then .cut false (2 ^ 60) (-600) else .cut false (2 ^ 60) 600)
      else if top < -60 then (if n then .cut false (2 ^ 60 - 1) (-60) else .cut false (2 ^ 60) (-60))
      else
        let k := (-e).toNat
        let v : Int := scaleTo n m e (-k)
        let w := v / 2 ^ k
        let f := (v % 2 ^ k).toNat
        if f = 0 then .exact (.fin false 1 w) 0
        else match expFrac 192 f k with
          | some r => .cut false r (w - 152)
          | none => match expFrac 512 f k with
            | some r => .cut false r (w - 472)
            | none => .cut false (expExact 152 f k) (w - 152)

/-- The next `t` bits of log2 of a number between lo and hi (at `p` bits, in [1, 2)), by repeated squaring; none
where the bounds disagree. -/
def logBits (p : Nat) : Nat → Nat → Nat → Nat → Option Nat
  | 0, _, _, acc => some acc
  | t + 1, lo, hi, acc =>
    let lo' := lo * lo / 2 ^ p
    let hi' := hi * hi / 2 ^ p + 1
    if 2 ^ (p + 1) ≤ lo' then logBits p t (lo' / 2) (hi' / 2 + 1) (2 * acc + 1)
    else if hi' < 2 ^ (p + 1) then logBits p t lo' hi' (2 * acc)
    else none

/-- log2 of x. -/
def logVal : Val → FRes
  | .nan _ g => .nan g
  | .inf n => if n then .exact canon fNV else .exact (.inf false) 0
  | .fin n m e =>
    if m = 0 then .exact (.inf true) fDZ
    else if n then .exact canon fNV
    else
      let l := Nat.log2 m
      let w : Int := e + l
      if m = 2 ^ l then .exact (Val.ofInt w) 0
      else
        let y := m * 2 ^ (320 - l)
        let b := match logBits 320 110 y y 0 with
          | none => logExact 110 m l
          | some b => b
        let t : Int := w * 2 ^ 110 + b
        if 0 ≤ t then .cut false t.toNat (-110) else .cut true (t.natAbs - 1) (-110)

/-- The rounded result of one of the four functions. -/
def roundF (t : Tag) (rm : Rm) (sat : Bool) (r : FRes) : Nat × BitVec 8 :=
  match r with
  | .exact v fl => roundResult t rm sat (v, fl) false
  | .cut n m e => roundResult t rm sat (.fin n m e, 0) true

end Sys2Proof.Machine
end

