-- ==== Sys2Proof/Machine/Environment.lean ====
section
/-! DEFINITION. What the surroundings do to storage: soft errors (R178, R249). -/
namespace Sys2Proof.Machine

/-- A correctable soft error is corrected in place and counted (R178, R249). -/
def correctedError (s : State) (dram : Bool) (die : Option Nat) : State :=
  s.count (fun e =>
    let e1 := if dram then { e with dram := satInc e.dram } else { e with onDie := satInc e.onDie }
    match die with
    | none => e1
    | some d => { e1 with perDie := Store.put 0 e1.perDie d (satInc (Store.get 0 e1.perDie d)) })

def insertNat : Nat → List Nat → List Nat
  | x, [] => [x]
  | x, y :: t => if x < y then x :: y :: t else if x = y then y :: t else y :: insertNat x t

/-- An uncorrectable error in a register of a weight plane (R178). -/
def strikePlane (s : State) (seq : Nat) (second : Bool) : State :=
  s.modFrag seq (fun f =>
    if second then { f with plane1 := { f.plane1 with bad := true } }
    else { f with plane0 := { f.plane0 with bad := true } })

/-- An uncorrectable error in the ECC word that holds a byte. -/
def strikeWord (s : State) (key : Nat) : State :=
  { s with
    ecc := insertNat (key >>> Config.eccLog2) s.ecc
    eccPart := s.eccPart.filter (fun e => e.2 >>> Config.eccLog2 != key >>> Config.eccLog2) }

end Sys2Proof.Machine
end

