-- ==== Sys2Proof/Machine/Fetch.lean ====
section
/-! DEFINITION. Instruction fetch through the instruction cache (R187, R256), and a small placed unit for
Step.lean's withFetchWord: a job, its page tables, a launch and a running unit (assumption 6). -/
namespace Sys2Proof.Machine

/-- The eight words of the 64-byte line at a key, under the page's key. -/
def lineWords (s : State) (ls : List Loc) : Nat → List W64
  | 0 => []
  | n + 1 => u64 (readLocs s (ls.take 8)) :: lineWords s (ls.drop 8) n

/-- Lines of a sequencer's instruction cache: 64 KiB (R10). -/
def icacheLines : Nat := 1024
/-- A full instruction cache gives up one line, any one (R10, R187). -/
def State.roomForLine (s : State) : State :=
  if s.cur.icache.length < icacheLines then s
  else
    let (j, t) := s.pick icacheLines
    t.setCur (fun c => { c with icache := c.icache.eraseIdx j })

/-- The word at the PC and the state with its line cached; a fault names the PC (R214, R256). -/
def fetchWord (s : State) : Res (W64 × State) :=
  let c := s.cur
  if c.pc.toNat % 8 != 0 then .fail cAlign c.pc 3
  else
    let line := c.pc.toNat / 64
    let i := c.pc.toNat / 8 % 8
    match Tab.get? c.icache line with
    | some ws => .ok ((ws[i]?).getD 0, s)
    | none =>
      match access s c.who .fetch (u64 (64 * line)) 64 with
      | .fail cause _ td => .fail cause c.pc td
      | .hold => .hold
      | .ok (ls, _) =>
        let ws := lineWords s ls 8
        let t := s.roomForLine
        .ok ((ws[i]?).getD 0, t.setCur (fun c => { c with icache := Tab.set c.icache line ws }))

/-- Nothing has stopped a context's issue (R221, R232). -/
def mayIssue (s : State) : Bool := s.cur.phase == .running && !s.cur.halted && s.cur.pfault.isNone
/-- Whether a context may issue now. -/
def canIssue (s : State) : Bool := mayIssue s && s.cur.notBefore ≤ s.now

/-- A sequencer's cycle: the context issues again no sooner than in the next one (R80). The BARs of user mode that it has
left by a trap wait no longer. -/
def State.cycled (s : State) : State :=
  s.setCur (fun c => { c with
    notBefore := s.now + (s.die (c.seq / 16)).tpc, barAt := if c.sm then c.barAt else c.barAt.filter (· == c.pc) })
/-- Issue after the fetch: a fetch fault, ILLEGAL, or the decoded instruction (R261); a vector instruction in progress
goes on (R180). `run` executes it. -/
def issueWith (run : Instr → State → Out) (s : State) : Out :=
  if !canIssue s then .next s
  else match s.cur.vec with
  | some p => run p.instr s
  | none => match fetchWord s.cycled with
    | .fail cause a td => .next (accessFault s.cycled 0 cause a td)
    | .hold => .next (stall s.cycled .stall)
    | .ok (w, s1) =>
      match decode w with
      | .error _ => .next (trap0 s1 w cIllegal)
      | .ok i => run i s1

/-- A table entry's word 0 (R168): die 0, valid. -/
def probeTable : Nat := 1
/-- A leaf's word 0 for context 1: NORMAL, X, W and RD, home die 0. -/
def probeLeaf : Nat := 2 ^ 32 + 0x73

/-- Memory of the placed unit: four tables on die 0 that map addresses 0 to 0xFFFF to 0x3_0000. -/
def probeTables (s : State) : State :=
  let put (s : State) (a w0 w1 : Nat) : State :=
    setBytes (setBytes s (dramKey 0 a) (leList 8 w0)) (dramKey 0 (a + 8)) (leList 8 w1)
  put (put (put (put s 0 probeTable 0x10000) 0x10000 probeTable 0x20000) 0x20000 probeTable 0x22000)
    0x22000 probeLeaf 0x30000

def probeLpb : Lpb := ⟨0, 0, 1, 0, 0, 0, false, false, false, false, 1, 0, 0, []⟩
def probeEnt (lv : Level) (h : Nat) (parent : Option Nat) (carried e : Nat) : Ent :=
  ⟨lv, u64 h, 1, parent, none, carried, 0, e, false, false, 1, false, 0, none, [], []⟩
def probeUnit (lid cid : Nat) : UnitRec :=
  ⟨lid, 0, false, 0, 0, 1, 1, .running, 0, none, [], [cid], 0, 0, false, 0, none, [], none, none, false, [], [], [], 0⟩

/-- A job 1 with a phase, a launch of one unit of shape 0x0 placed on die 0, pane 0, about to fetch at address
0; its handler is at 0x100, its page-fault setting is handler. -/
def placeProbe (s : State) : State :=
  let job := s.nextId
  let ph := job + 1
  let lid := job + 2
  let uid := job + 3
  let cid := job + 4
  let s1 := probeTables s
  let c : Ctx := { Ctx.reset with
    cid := cid, phase := .running, uid := uid, lid := lid, nunits := 1,
    lhandle := u64 (2 ^ 60 + 1), nfrag := 16, tvec := 0x100, pfh := true, ctxid := 1 }
  { s1 with
    nextId := job + 5
    cur := c
    ents := Tab.set (Tab.set (Tab.set s1.ents job (probeEnt .job (4 * 2 ^ 60 + 1) none 0 1)) ph
      (probeEnt .phase (3 * 2 ^ 60 + 1) (some job) 1 1)) lid (probeEnt .launch (2 ^ 60 + 1) (some ph) 1 0)
    launches := Tab.set s1.launches lid
      ⟨probeLpb, 16, lid, 1, 0, none, s1.now, 0, 1, none, 0, [], [], none, none, 0⟩
    jobs := Tab.set s1.jobs 1 ⟨job, 0, 0, true, 0x100, 0, 0, 0, [], false⟩
    units := Tab.set s1.units uid (probeUnit lid cid)
    occ := Store.put 0 s1.occ 0 uid
    spOwner := Store.put 0 s1.spOwner 0 2
    frags := Store.put Frag.reset s1.frags 0 { Frag.reset with h := 1, w := 1 } }

/-- Whether a word stored at the PC can be fetched there. -/
def fetchable (s : State) : Bool :=
  canIssue s && s.cur.pc.toNat % 8 == 0 &&
    match access s s.cur.who .fetch (u64 (64 * (s.cur.pc.toNat / 64))) 64 with
    | .ok _ => true
    | _ => false

/-- Stores an instruction word at the PC, past every cache. -/
def storeAtPc (s : State) (w : Nat) : State :=
  match access s s.cur.who .fetch s.cur.pc 8 with
  | .ok (ls, _) => (writeLocs s ls w).setCur (fun c => { c with icache := [] })
  | _ => s

/-- A queue that takes the 16-byte packet `w` from its ring next (R239, R241): queue 0 in RUN with a current
phase, its ring at address 0x8000 of context 1. -/
def placePacket (s : State) (w : Nat) : State :=
  let s1 := placeProbe s
  let s2 := setBytes s1 (dramKey 0 0x38000) (leList 16 (if w / 2 ^ 15 % 2 = 1 then w else w + 2 ^ 15))
  let s3 := s2.modHq 0 (fun q => { q with
    qbase := 0x8000, qcfg := u64 (2 ^ 32 + 3), en := true, st := .run, efftail := 1, phase := some (s.nextId + 1) })
  { s3 with turns := match (Packet.ofWords (BitVec.ofNat 64 w) (BitVec.ofNat 64 (w / 2 ^ 64))).step? 0 with
      | some i => [⟨0, .event i⟩]
      | none => [] }

end Sys2Proof.Machine
end

