-- ==== Sys2Proof/Machine/Links.lean ====
section
/-! DEFINITION. Clocks and links of the package (R20 to R23), the ports after a module reset (R205), accesses of
the hosts to device memory (R185). -/
namespace Sys2Proof.Machine

/-- The compute dies and the control die (15). -/
def isDie (d : Nat) : Bool := d < 12 || d == 15

/-- LINK_STEP (R22, R23): a window opens, no earlier than 100 µs after the end of the last one. -/
def execLinkStep (a b : Nat) (s : State) : Out :=
  let l := s.link a b
  .next (if a = b || !isDie a || !isDie b || l.window.isSome || l.last.any (fun t => s.now < t + 100 * ticksPerUs) then s
  else s.modLink a b (fun l => { l with window := some s.now }))
/-- RETRAINING_WINDOW_CLOSE (R22). A window that lasted 1 µs ended then. -/
def execRetrainingWindowClose (a b : Nat) (s : State) : Out :=
  .next (match (s.link a b).window with
    | none => s
    | some t => s.modLink a b (fun _ => ⟨none, some (min s.now (t + ticksPerUs))⟩))

/-- A moment to come, in cycles of `old` ticks, when a cycle takes `new` from now on. -/
def repace (now old new t : Nat) : Nat := if t ≤ now then t else now + ((t - now) * new + old - 1) / max 1 old
/-- The array's moments to come keep their cycles (R20, R81, R94). -/
def Frag.repace (r : Nat → Nat) (f : Frag) : Frag :=
  { f with
    busy := r f.busy, wdone := r f.wdone, exit0 := r f.exit0, exit1 := r f.exit1
    q := f.q.map (fun e => (e.1, if e.1 < 2 then e.2.map (fun k => { k with ready := r k.ready }) else e.2)) }
/-- The running MMA takes the rows that have entered by now. -/
def takeRows (s : State) (arr : Nat) : State :=
  match (s.frag arr).cur with
  | none => s
  | some id => match s.cmd? arr 0 id, s.cmd? arr 1 id with
    | some k, _ => arrayCompletion s arr 0 k (2 ^ 30)
    | none, some k => arrayCompletion s arr 1 k (2 ^ 30)
    | none, none => s
/-- Of a context on the die the cycle from which it issues (R80, R103). -/
def Ctx.repace (die : Nat) (r : Nat → Nat) (c : Ctx) : Ctx :=
  if c.seq / 16 = die then { c with notBefore := r c.notBefore } else c
/-- The new clock paces what is under way in the die's arrays and sequencers. -/
def repaceDie (s : State) (die new : Nat) : State :=
  let s1 := ((s.frags.map (·.1)).filter (fun p => p / 16 == die)).foldl takeRows s.land
  let r := Machine.repace s1.now (s1.die die).tpc new
  { s1 with
    cur := s1.cur.repace die r
    others := s1.others.map (Ctx.repace die r)
    frags := s1.frags.map (fun e => if e.1 / 16 = die then (e.1, e.2.repace r) else e)
    chains := s1.chains.map (fun c =>
      if c.src / 16 = die then { c with flight := c.flight.map (fun f => { f with due := r f.due }) } else c) }
/-- ARITHMETIC_CLOCK_STEP (R20, R21): a die's cycle takes `ticks` from now on, never less than the nominal 32. -/
def execArithmeticClockStep (die ticks : Nat) (s : State) : Out :=
  .next (if 12 ≤ die || ticks < nominalTicks then s
  else (repaceDie s die ticks).modDie die (fun d => { d with tpc := ticks, cycles := s.cycle die, cycAt := s.now }))

/-- PORT_DOWN_PERIOD_END (R205). -/
def execPortDownPeriodEnd (s : State) : Out :=
  .next (if s.fab.portsUp || !s.boot.powered || s.now < s.fab.portsAt + 200 * ticksPerUs then s
  else { s with fab := { s.fab with portsUp := true } })

/-- HOST_ACCESS (R185): `n` bytes at a die-local address. A write takes its place at the home of the line; a read
leaves everything as it was. While the die is reset, or Whiting is at work, both are held (R14, R252). -/
def execHostAccess (link die addr : Nat) (n : Nat) (wr : Option (List Byte)) (s : State) : Out :=
  .next (if !s.boot.powered || s.boot.scrubAt.isSome || 2 ≤ link || 12 ≤ die || dieBytes < addr + n || heldBy s 15 die
    then s
  else match wr with
    | none => s
    | some data =>
      if data.length != n then s
      else eccFix (setBytes s (dramKey die addr) (data.map (·.toNat))) (dramKey die addr) n)

end Sys2Proof.Machine
end

