-- ==== Sys2Proof/Machine/Queues.lean ====
section
/-! DEFINITION. Ownership (R237, R238), registers of the hardware queues and their writes (R239, R240), phases of a
queue (R27), queue faults (R245, R380), the tail word (R240, R370), packets read and read ahead (R241, R242, R369),
coalescing (R247). -/
namespace Sys2Proof.Machine

/- Ownership -/

/-- Masters of R236, while the module has supply. -/
def isMaster (s : State) (m : W16) : Bool := s.boot.powered && (m == 0 || m == 1 || m == 0x8000)
abbrev mgmt : W16 := 0x8000
def State.refuse (s : State) : State := { s with own := { s.own with refused := s.own.refused + 1 } }
def isOwner (s : State) (m : W16) : Bool := isMaster s m && s.own.owner == m
/-- A write that only the owner may make (R238). -/
def ownerOnly (s : State) (m : W16) (f : State → State) : State :=
  if isOwner s m then f s else if isMaster s m then s.refuse else s

def claimBy (s : State) (m : W16) (n : W64) : State :=
  if !isMaster s m then s
  else if s.own.owner = 0xFFFF then { s with own := { s.own with owner := m, nonce := n } }
  else s.refuse
def execClaim (m : W16) (n : W64) (s : State) : Out := .next (claimBy s m n)
def handoverBy (s : State) (m : W16) (v : W64) : State :=
  ownerOnly s m (fun s =>
    let succ := v.extractLsb' 48 16
    { s with own := { s.own with pending := if succ = 0xFFFF then none else some (succ, v.extractLsb' 0 48) } })
def execHandover (m : W16) (v : W64) (s : State) : Out := .next (handoverBy s m v)
def commitBy (s : State) (m : W16) (n : BitVec 48) : State :=
  if !isMaster s m then s
  else if s.own.pending = some (m, n) then
    { s with own := { s.own with owner := m, nonce := n.zeroExtend 64, pending := none } }
  else s.refuse
def execCommit (m : W16) (n : BitVec 48) (s : State) : Out := .next (commitBy s m n)
def vacateOwner (s : State) : State := { s with own := { s.own with owner := 0xFFFF, pending := none } }
def releaseBy (s : State) (m : W16) (v : W64) : State :=
  ownerOnly s m (fun s => if v.getLsbD 0 then vacateOwner s else s)
def execRelease (m : W16) (v : W64) (s : State) : Out := .next (releaseBy s m v)

/- Phases, faults -/

/-- A queue fault (R245, R247): QSTAT records the cause and the index, an interrupt is raised. -/
def qFault (s : State) (q cause : Nat) : State :=
  let s1 := if cause = cEcc then s.count (fun e => { e with uncorr := satInc e.uncorr }) else s
  (s1.modHq q (fun h => { h with
    st := .fault, cause := BitVec.ofNat 8 cause, index := h.head.setWidth 32, wait := none, chkpt := none })).qEvent q
/-- The thread holds nothing that it read before (R239, R242). -/
def HQueue.forget (h : HQueue) : HQueue := { h with ahead := [], low := [] }

/-- The job that a queue's next phase belongs to, while it is open (R27). -/
def qJob (s : State) (h : HQueue) : Option Job := (s.job? (qCtx h)).filter (fun j => !j.closing)
/-- A phase of the queue opens where R41 lets its job spawn. -/
def openPhase (s : State) (q : Nat) (j : Job) : Option State :=
  (spawn? s j.ent).map (fun r =>
    let ctx := qCtx (s.hq q)
    let (handle, s1) := newHandle r.2 ctx .phase
    let (id, s2) := newEnt s1 .phase handle ctx (some j.ent) r.1 q none
    s2.modHq q (fun h => { h with phase := some id, opening := false }))
/-- The current phase ends (R43), after the cancels that its home has received (R234). -/
def endPhase (s : State) (q : Nat) : State :=
  match (s.hq q).phase with
  | none => s
  | some p => (closeEnt (settleCancels s p) p).modHq q (fun h => { h with phase := none })
/-- A queue that is to open its first phase does so as soon as it can (R27, R41). -/
def tryOpen (s : State) (q : Nat) : State :=
  let h := s.hq q
  if !h.opening then s
  else match qJob s h with
    | none => (qFault s q cPerm).modHq q (fun h => { h with opening := false })
    | some j => (openPhase s q j).getD s

/-- IDLE after EN = 0 (R27, R239). -/
def goIdle (s : State) (q : Nat) : State :=
  (endPhase s q).modHq q (fun h => { h.forget with
    st := .idle, opening := false, levels := [], wait := none, chkpt := none })

/- Registers -/

/-- Writing EN = 1 (R27, R239). -/
def enableQueue (s : State) (q : Nat) : State :=
  let h := s.hq q
  let start (opening : Bool) (s : State) : State := s.modHq q (fun h => { h.forget with
    en := true, st := .run, pred := true, levels := [], wait := none, opening := opening })
  match h.st with
  | .idle => tryOpen (start true s) q
  | .fault => start false s
  | .stopped => s.modHq q (fun h => { h.forget with en := true, st := .run })
  | _ => s.modHq q (fun h => { h with en := true })
/-- Writing EN = 0: a blocked thread reaches its packet boundary when it is released (R239). -/
def disableQueue (s : State) (q : Nat) : State :=
  let s1 := s.modHq q (fun h => { h with en := false })
  if (s.hq q).st = .blocked then s1 else if (s.hq q).st = .idle then s1 else goIdle s1 q
def execQueueEnable (m : W16) (q : Nat) (s : State) : Out :=
  .next (if 32 ≤ q then s else ownerOnly s m (fun s => enableQueue s q))
def execQueueDisable (m : W16) (q : Nat) (s : State) : Out :=
  .next (if 32 ≤ q then s else ownerOnly s m (fun s => disableQueue s q))

/-- A tail value is accepted, or ignored and counted (R240). -/
def tailBad (h : HQueue) (v : W64) : Bool := v.toNat < h.efftail || h.head.toNat + qSize h < v.toNat
def tailWrite (s : State) (q : Nat) (v : W64) : State :=
  s.modHq q (fun h =>
    if tailBad h v then { h with stalecnt := h.stalecnt + 1 } else { h with efftail := v.toNat, tailReg := v })
/-- TAIL is writable by every master (R238, R240). -/
def execTail (m : W16) (q : Nat) (v : W64) (s : State) : Out :=
  .next (if 32 ≤ q || !isMaster s m then s else tailWrite s q v)

/-- Reserved bits, limits and alignment of the registers that have no row of their own (R239); none where a write is
refused. -/
def writeQreg (s : State) (q reg : Nat) (v : W64) : Option State :=
  let idle := (s.hq q).st == .idle
  let low63 := v.toNat % 2 ^ 63
  match reg with
  | 0x00 => if idle && low63 % 64 = 0 then some (s.modHq q (fun h => { h with qbase := v })) else none
  | 0x08 =>
    let n := v.toNat % 32
    if idle && v &&& 0xFFFF0000F800FEE0 = 0 && 3 ≤ n && n ≤ 20 then some (s.modHq q (fun h => { h with qcfg := v })) else none
  | 0x30 => if idle && low63 % 16 = 0 then some (s.modHq q (fun h => { h with qout := v })) else none
  | 0x38 =>
    if v.toNat ≤ 1000 then
      let open' := (s.hq q).coalAt.isSome && (v = 0 || (s.hq q).coal = 0)
      some ((if open' then s.sendMsi q else s).modHq q (fun h => { h with coal := v }))
    else none
  | 0x50 => if idle && v.toNat % 8 = 0 then some (s.modHq q (fun h => { h with twaddr := v })) else none
  | _ => some s
/-- A write of a register of a queue's block by a master (R238, R239): the read-only ones take no write, and a reserved
bit that is set refuses it. -/
def queueWrite (s : State) (m : W16) (q reg : Nat) (v : W64) : State :=
  if reg = 0x18 then tailWrite s q v
  else if reg = 0x20 then ownerOnly s m (fun s =>
    if v = 0 then disableQueue s q else if v = 1 then enableQueue s q else s.refuse)
  else if [0x00, 0x08, 0x30, 0x38, 0x50].contains reg then ownerOnly s m (fun s => (writeQreg s q reg v).getD s.refuse)
  else if (reg = 0x28 && v &&& 0xFFFF00F8 != 0) || (0x60 ≤ reg && reg % 8 = 0 && v != 0) then s.refuse
  else s
/-- STATE of QSTAT (R239). -/
def QState.code : QState → Nat
  | .idle => 0
  | .run => 1
  | .blocked => 2
  | .stopped => 3
  | .fault => 4
/-- A read of a register of a queue's block; reserved fields read as zero (R2, R239). TAIL reads as the last value that a
TAIL write left, not as the effective tail that a tail word has raised (R239, R240 are silent: DESIGN CHOICE,
assumption 58). -/
def queueRead (h : HQueue) (reg : Nat) : W64 :=
  match reg with
  | 0x00 => h.qbase
  | 0x08 => h.qcfg
  | 0x10 => h.head
  | 0x18 => h.tailReg
  | 0x20 => if h.en then 1 else 0
  | 0x28 => u64 (h.index.toNat * 2 ^ 32 + h.cause.toNat * 2 ^ 8 + h.st.code)
  | 0x30 => h.qout
  | 0x38 => h.coal
  | 0x40 => h.done
  | 0x48 => h.stalecnt
  | 0x50 => h.twaddr
  | 0x58 => h.recidx
  | _ => 0

/- Packets -/

/-- Accesses of the queue core: of the control die, in QCFG.CTX (R380). -/
def qWho (h : HQueue) : Who := Who.ctl (qCtx h) 15
/-- The key of a packet read ahead: its index in the ring, or its place in the innermost buffer. -/
def packetKey (h : HQueue) (k : Nat) : Nat :=
  match h.levels with
  | [] => h.head.toNat + k
  | l :: _ => 2 ^ 64 * h.levels.length + l.pos + k
/-- Where packet `k` after the next one stands: its address, whether in the host's memory, and the phase it must
carry (R241); none beyond a buffer. A buffer lies in the memory that the queue's ring lies in (R235, assumption 85). -/
def packetPlace (h : HQueue) (k : Nat) : Option (W64 × Bool × Option Bool) :=
  match h.levels with
  | [] =>
    let i := h.head.toNat + k
    some ((h.qbase &&& u64 (2 ^ 63 - 1)) + u64 (16 * (i % qSize h)), h.qbase.getLsbD 63, some (i / qSize h % 2 == 0))
  | l :: _ =>
    if l.pos + k < l.count then some (l.addr + u64 (16 * (l.pos + k)), h.qbase.getLsbD 63, none) else none
def readHost (s : State) (link a n : Nat) : Nat := memNat s (hostKey link a) n
/-- Eight bytes of a packet (R380). -/
def packetWord (s : State) (h : HQueue) (host : Bool) (a : W64) : Res W64 :=
  if host then .ok (u64 (readHost s (qLink h) a.toNat 8))
  else (access s (qWho h) .load a 8).bind (fun r => .ok (u64 (readLocs s r.1)))
/-- The first access to a packet (R369): its bytes 0–7, or none where their phase is not valid. -/
def readLow (s : State) (h : HQueue) (k : Nat) : Res (Option W64) :=
  match Tab.get? h.low (packetKey h k), packetPlace h k with
  | some lo, _ => .ok (some lo)
  | none, none => .ok none
  | none, some (a, host, phase) => (packetWord s h host a).bind (fun lo =>
      .ok (if phase.any (fun p => p != lo.getLsbD 15) then none else some lo))
/-- The second access: its bytes 8–15. -/
def readHigh (s : State) (h : HQueue) (k : Nat) : Res W64 :=
  match packetPlace h k with
  | none => .ok 0
  | some (a, host, _) => packetWord s h host (a + 8)
/-- The two words of a packet in the order of R369, of which some may have been read before; none where its phase is
not valid. -/
def readPacket (s : State) (h : HQueue) (k : Nat) : Res (Option (W64 × W64)) :=
  (readLow s h k).bind (fun r => match r with
    | none => .ok none
    | some lo => (readHigh s h k).bind (fun hi => .ok (some (lo, hi))))

/-- One access to a packet read ahead, up to 8 beyond the next (R242): bytes 0–7 first, later bytes 8–15 (R369). A fault
is met again when the packet is taken (R380). -/
def readAheadStep (s : State) (q k : Nat) : State :=
  let h := s.hq q
  let key := packetKey h k
  if 9 ≤ k || 32 ≤ q || !(h.st == .run || h.st == .blocked) || (Tab.get? h.ahead key).isSome then s
  else match Tab.get? h.low key with
    | some lo => match readHigh s h k with
      | .ok hi => s.modHq q (fun h => { h with ahead := Tab.set h.ahead key (lo, hi), low := Tab.erase h.low key })
      | _ => s
    | none => match readLow s h k with
      | .ok (some lo) => s.modHq q (fun h => { h with low := Tab.set h.low key lo })
      | _ => s

/-- TAIL_WORD_READ (R240, R370, R380). -/
def execTailWordRead (q : Nat) (s : State) : Out :=
  let h := s.hq q
  .next (if 32 ≤ q || h.st != .run || h.twaddr = 0 then s
  else match access s (qWho h) .watch h.twaddr 8 with
    | .hold => s
    | .fail c _ _ => qFault s q c
    | .ok (ls, _) =>
      let v := u64 (readLocs s ls)
      let seen := (q, (ls.headD (.acc 0 0)).eccKey)
      let s1 := { s with twSeen := if s.twSeen.contains seen then s.twSeen else seen :: s.twSeen }
      if !tailBad h v then s1.modHq q (fun h => { h with efftail := v.toNat })
      else if s.twSeen.contains seen then s
      else s1.modHq q (fun h => { h with stalecnt := h.stalecnt + 1 }))

/-- COAL_WINDOW_EXPIRY (R247). -/
def execCoalWindowExpiry (q : Nat) (s : State) : Out :=
  let h := s.hq q
  .next (match h.coalAt with
    | none => s
    | some t =>
      if h.coal = 0 || s.now < t + h.coal.toNat * ticksPerUs then s
      else s.sendMsi q)

end Sys2Proof.Machine
end

