-- ==== Sys2Proof/Machine/Slices.lean ====
section
/-! DEFINITION. Gang slices over several packages (R77 to R79), gang-scope barriers at the coordinator (R289), and
what this package does when it learns of a reset or a loss elsewhere (R204, R205). Packets name a slice by its start
time and members (assumption 26). -/
namespace Sys2Proof.Machine

def sliceSerial (t : Nat) (members : List Nat) : Nat := t + 2 ^ 64 * members.foldl (fun n m => n * 4096 + m) 1
/-- Fabric time has reached `t` nanoseconds. -/
def fabricReached (s : State) (t : Nat) : Bool := s.fab.valid && t ≤ s.ftimeNs
/-- The part of a slice that this package runs. -/
def partOf (s : State) (serial : Nat) : Option (Nat × Launch × Slice) :=
  s.launches.findSome? (fun e => match e.2.slice with
    | none => none
    | some sl => if sl.serial = serial && ((s.ent? e.1).map (fun x => !x.complete)).getD false then some (e.1, e.2, sl) else none)
def State.modSlice (s : State) (lid : Nat) (f : Slice → Slice) : State :=
  s.modLaunch lid (fun l => { l with slice := l.slice.map f })
def dropHold (s : State) (lid : Nat) : State := { s with holds := s.holds.filter (fun h => h.lid != lid) }
def coordinator (sl : Slice) : Nat := sl.members.head?.getD 0

/-- The part starts on the spots of its hold. -/
def startPart (s : State) (lid : Nat) : State :=
  match s.launch? lid, s.holds.find? (fun h => h.lid == lid) with
  | some l, some h =>
    let spots := resvSpots l h
    match placementSet s lid l with
    | none => s
    | some p =>
      if spots.any (fun q => !s.dieOpen (q / 16)) then s
      else placeAll ((dropHold s lid).modSlice lid (fun x => { x with started := true })) lid l p spots
  | _, _ => s

/-- A part ends failed with STALE before any unit of it runs (R79). -/
def failPart (s : State) (lid : Nat) : State :=
  let s1 := (dropHold s lid).modSlice lid (fun x => { x with decision := 3, decided := true })
  failLaunch s1 lid (statusWord nStale 0)
/-- A member that holds GO learns of a loss (R79). -/
def cancelPart (s : State) (lid : Nat) : State := cancelEnt (dropHold s lid) lid (statusWord nStale 0)

/-- A decision is known here (R77 to R79). Units of a part that has ended since its report leave the barriers (R287). -/
def decide' (s : State) (lid : Nat) (sl : Slice) (d : Nat) : State :=
  if sl.decided then s
  else if d = 3 then failPart s lid
  else
    let s1 := s.modSlice lid (fun x => { x with decision := d, decided := true })
    if d = 2 then dropHold s1 lid
    else if (s.ent? lid).all (·.complete) then ((s.launch? lid).map (fun l => s1.leaveUnstarted lid l.lpb.nunits)).getD s1
    else if !sl.lost.isEmpty then cancelPart s1 lid
    else if fabricReached s sl.t then startPart s1 lid
    else s1

/-- What a part's fragments are held by: its reservation with every pane free, else a free placement. -/
def partHold (s : State) (lid : Nat) (l : Launch) : Option Resv :=
  match placementSet s lid l with
  | none => none
  | some p =>
    if !isReady s lid l || unplaceable s l p then none
    else match s.resv.filter (fun r => r.lid == lid && r.panes.all (paneFree s lid)) with
      | some r => some r
      | none => (freePlacement s lid l p).bind (fun q => (reserve s lid l q).resv)
/-- The coordinator takes a report, with the NUNITS of the member's part. -/
def noteReport (s : State) (lid pkg n : Nat) (ok : Bool) : State :=
  s.modSlice lid (fun x =>
    if x.decided || x.readies.contains pkg || !x.members.contains pkg then x
    else { x with total := x.total + n, readies := if ok then x.readies ++ [pkg] else x.readies })
/-- A report or a decision of a slice whose part here is not accepted, or not offered again, yet: kept until it is
(R77: reports and decisions are re-sent until delivered). A decision stands under 4096 + its number. -/
def keepEarly (s : State) (e : Nat × Nat × Nat × Bool) : State :=
  if s.fab.early.contains e then s else { s with fab := { s.fab with early := s.fab.early ++ [e] } }
/-- What came early is taken when the part is there. -/
def takeEarly (s : State) (lid : Nat) : State :=
  match (s.launch? lid).bind (·.slice) with
  | none => s
  | some sl =>
    let s1 : State := { s with fab := { s.fab with early := s.fab.early.filter (fun e => e.1 != sl.serial) } }
    (s.fab.early.filter (fun e => e.1 == sl.serial)).foldl (fun s e =>
      if 4096 ≤ e.2.1 then (if e.2.2.1 = coordinator sl then decide' s lid sl (e.2.1 - 4096) else s)
      else if coordinator sl = s.pkg then noteReport s lid e.2.1 e.2.2.1 e.2.2.2 else s) s1
/-- SLICE_REPORT at T − 20 µs (R77); a package whose fabric time is not valid holds nothing and reports MISS (R208). -/
def execSliceReport (lid : Nat) (s : State) : Out :=
  .next (match s.launch? lid with
    | none => s
    | some l => match l.slice with
      | none => s
      | some sl =>
        if sl.reported || sl.decided || (s.fab.valid && !fabricReached s (sl.t - 20000)) then s
        else
          let hold := if s.fab.valid then partHold s lid l else none
          let s1 : State := (s.modSlice lid (fun x => { x with reported := true }))
          let s2 : State := match hold with
            | none => s1
            | some h => { s1 with resv := s1.resv.filter (fun r => r.lid != lid), holds := s1.holds ++ [h] }
          let c := coordinator sl
          if c = s.pkg then noteReport s2 lid c l.lpb.nunits hold.isSome
          else s2.sendSeq ⟨c, s2.hdr 15 (launchJob s lid) l.lpb.nunits 0, .ready sl.serial hold.isSome⟩)
/-- READY or MISS of a member arrives; its header's command field holds the part's NUNITS. -/
def execReady (hdr : FHdr) (slice : Nat) (ok : Bool) (s : State) : Out :=
  .next (match s.intake 15 hdr (.ready slice ok) with
    | none => s
    | some (true, s1) => s1
    | some (false, s1) =>
      if appliedBefore s1 hdr then s1
      else match partOf s1 slice with
        | none => keepEarly (noteApplied s1 15 hdr) (slice, hdr.srcPkg, hdr.cmd, ok)
        | some (lid, _, sl) =>
          if coordinator sl = s1.pkg then noteReport (noteApplied s1 15 hdr) lid hdr.srcPkg hdr.cmd ok else s1)

/-- SLICE_DECISION at T − 10 µs (R77, R79): FAIL where a member was lost, GO with every READY, else ABANDON. -/
def execSliceDecision (lid : Nat) (s : State) : Out :=
  .next (match s.launch? lid with
    | none => s
    | some l => match l.slice with
      | none => s
      | some sl =>
        if coordinator sl != s.pkg || sl.decided || !fabricReached s (sl.t - 10000) then s
        else
          let d := if !sl.lost.isEmpty then 3 else if sl.members.all (fun m => sl.readies.contains m) then 1 else 2
          let m (serial : Nat) : FMsg := if d = 1 then .go serial else if d = 2 then .abandon serial else .fail serial
          let s1 := (sl.members.filter (· != s.pkg)).foldl (fun s p =>
            s.sendSeq ⟨p, s.hdr 15 (launchJob s lid) 0 0, m sl.serial⟩) s
          decide' s1 lid sl d)
/-- The part of a slice that this package runs, or else one that ended after its report. -/
def partIn (s : State) (serial : Nat) : Option (Nat × Slice) :=
  match partOf s serial with
  | some (lid, _, sl) => some (lid, sl)
  | none => s.launches.findSome? (fun e => (e.2.slice.filter (fun x => x.serial == serial && x.reported)).map (fun x => (e.1, x)))
/-- A decision of the coordinator arrives. -/
def onDecision (s : State) (hdr : FHdr) (serial : Nat) (m : FMsg) (d : Nat) : Out :=
  .next (match s.intake 15 hdr m with
    | none => s
    | some (true, s1) => s1
    | some (false, s1) => match partIn s1 serial with
      | none => keepEarly s1 (serial, 4096 + d, hdr.srcPkg, true)
      | some (lid, sl) => if coordinator sl = hdr.srcPkg then decide' s1 lid sl d else s1)
def execGo (hdr : FHdr) (slice : Nat) (s : State) : Out := onDecision s hdr slice (.go slice) 1
def execAbandon (hdr : FHdr) (slice : Nat) (s : State) : Out := onDecision s hdr slice (.abandon slice) 2
def execFail (hdr : FHdr) (slice : Nat) (s : State) : Out := onDecision s hdr slice (.fail slice) 3

/-- SLICE_START at T (R77). -/
def execSliceStart (lid : Nat) (s : State) : Out :=
  .next (match (s.launch? lid).bind (·.slice) with
    | none => s
    | some sl => if sl.decision = 1 && !sl.started && fabricReached s sl.t then startPart s lid else s)
/-- SLICE_REOFFER (R78): the slice is offered again with its start 1 ms later; a coordinator lost in between ends it. -/
def execSliceReoffer (lid : Nat) (s : State) : Out :=
  .next (match (s.launch? lid).bind (·.slice) with
    | none => s
    | some sl =>
      if sl.decision != 2 then s
      else
        let t := sl.t + 1000000
        let s1 := s.modSlice lid (fun x => { x with
          serial := sliceSerial t x.members, t := t, reported := false, readies := [], decision := 0, decided := false, total := 0 })
        takeEarly (if coordinator sl != s.pkg && sl.lost.contains (coordinator sl) then failPart s1 lid else s1) lid)

/-- A party of a part of this package is lost (R79). -/
def sliceLoss (pkg : Nat) (s : State) (e : Nat × Launch) : State :=
  match (s.launch? e.1).bind (·.slice), (s.ent? e.1).map (·.complete) with
  | some sl, some false =>
    if !sl.members.contains pkg then s
    else
      let s1 := s.modSlice e.1 (fun x => { x with lost := if x.lost.contains pkg then x.lost else x.lost ++ [pkg] })
      if sl.decision = 1 then cancelPart s1 e.1
      else if !sl.decided && pkg = coordinator sl then failPart s1 e.1
      else s1
  | _, _ => s
/-- Cancels that the homes of lent parts have received come before the parts' return (R234). -/
def loseParties (s : State) (pkg : Nat) (die : Option Nat) : State :=
  let s1 := (s.ents.filter (fun e => Store.get 0 e.2.lent pkg != 0)).foldl (fun s e => settleCancels s e.1) s
  s1.launches.foldl (sliceLoss pkg) (losePeer s1 pkg die)

def execResetNotice (pkg die inc : Nat) (s : State) : Out :=
  .next (if pkg = s.pkg || !s.fab.portsUp then s
  else
    let incs := (List.range 12 ++ [15]).foldl (fun t gw => Tab.set t (incKey gw pkg die) inc) s.fab.peerInc
    loseParties { s with fab := { s.fab with peerInc := incs } } pkg (some die))
def execPortLoss (pkg : Nat) (s : State) : Out :=
  .next (if pkg = s.pkg || !s.fab.portsUp then s
  else
    let inc := s.fab.peerInc.filter (fun e => e.1 / 16 % 4096 != pkg)
    loseParties { s with fab := { s.fab with peerInc := inc } } pkg none)

/- Gang-scope barriers -/

/-- The coordinator counts an arrival of a member in the open generation (below 16), or takes the bytes of a context that
left, whose unit leaves with it (33) or with its other instance (32) (R288, R289). An arrival that its own withdrawal has
overtaken finds the count one lower. -/
def memberArrives (l : Launch) (gen bar : Nat) : Launch :=
  if bar < 16 then
    let b := Store.get Barrier.reset l.gbars bar
    if gen != b.gen % 128 then l
    else { l with gbars := Store.put Barrier.reset l.gbars bar (bumpBarrier (gangParts l) { b with count := b.count + 1 }) }
  else if bar % 64 = 32 || bar % 64 = 33 then
    let l1 := { l with slice := l.slice.map (fun (x : Slice) => { x with total := x.total - (bar % 64 - 32) }) }
    { l1 with gbars := leaveBars l1.gbars (gangParts l1) (fun id => BitVec.ofNat 8 (bar / 64 / 256 ^ id)) }
  else l
/-- The coordinator's launch of a slice, also once its own part is complete. -/
def homeOf (s : State) (serial : Nat) : Option (Nat × Launch) :=
  s.launches.find? (fun e => e.2.slice.any (fun x => x.serial == serial))
def execGangBarrierArrival (hdr : FHdr) (slice bar : Nat) (s : State) : Out :=
  .next (match s.intake 15 hdr (.barArrive slice bar) with
    | none => s
    | some (true, s1) => s1
    | some (false, s1) =>
      if appliedBefore s1 hdr then s1
      else match homeOf s1 slice with
        | none => s1
        | some (lid, l) =>
          if !l.slice.any (fun x => coordinator x == s1.pkg && x.members.contains hdr.srcPkg) then s1
          else
            let l1 := memberArrives l hdr.cmd bar
            (passedBars l.gbars l1.gbars).foldl (fun s id => tellMembers s lid 15 (launchJob s lid) id)
              ((noteApplied s1 15 hdr).modLaunch lid (fun _ => l1)))
/-- A member learns that a generation is complete. -/
def execGangBarrierCompletion (hdr : FHdr) (slice bar : Nat) (s : State) : Out :=
  .next (match s.intake 15 hdr (.barDone slice bar) with
    | none => s
    | some (true, s1) => s1
    | some (false, s1) =>
      if appliedBefore s1 hdr then s1
      else match homeOf s1 slice with
        | none => s1
        | some (lid, l) =>
          if !l.slice.any (fun x => coordinator x == hdr.srcPkg && hdr.srcPkg != s1.pkg) then s1
          else (noteApplied s1 15 hdr).modLaunch lid (fun l =>
            let b := Store.get Barrier.reset l.gbars bar
            { l with gbars := Store.put Barrier.reset l.gbars bar ⟨b.gen + 1, 0⟩ }))

end Sys2Proof.Machine
end

