-- ==== Sys2Proof/Machine/Packets.lean ====
section
/-! DEFINITION. The queue threads: packets checked, skipped, executed and taken (R241 to R245), launches, slices and
graphs from packets (R244 to R246), WAIT, SIGNAL, CALL, PRED, LOOP, FFENCE, TIME, PHASE (R27, R243, R380), CHKPT
(R255). A CALL or LOOP is taken when its buffer is done (assumption 28). -/
namespace Sys2Proof.Machine

/-- R245 but for the nesting level: TYPE, reserved FLAGS bits, the limits of R243. -/
def packetOk (p : Packet) : Bool :=
  let a := p.addr.toNat
  let plain := p.n == 0 && p.aux == 0
  (p.flags &&& 0x1F) == 0 && match p.type with
    | 0x00 => plain && a == 0
    | 0x01 => plain && a == 0
    | 0x02 => p.n ≤ 1 && p.aux == 0
    | 0x03 => plain
    | 0x04 => (p.n == 0 && a % 8 == 0) || (p.n == 1 && p.aux == 0 && a == 0) || (p.n == 2 && p.aux == 0)
    | 0x05 => p.n ≤ 1 && a % 8 == 0
    | 0x06 => p.n != 0 && p.aux == 0 && a % 16 == 0
    | 0x08 => plain && a % 8 == 0
    | 0x09 => p.n != 0 && a % 16 == 0
    | 0x0A => plain && a == 0
    | 0x0B => plain
    | 0x0C => plain && a % 64 == 0
    | 0x0D => plain && a % 8 == 0
    | 0x0E => plain && a == 0
    | _ => false
/-- Whether a packet executes: STOP and PRED always, the others under the predicate (R243). -/
def packetRuns (h : HQueue) (p : Packet) : Bool :=
  p.type == 0x00 || p.type == 0x08 || h.pred != p.flags.getLsbD 5
def packetIntr (p : Packet) : Bool := p.flags.getLsbD 6

/-- The next position, and whether the ring's packet is taken. -/
def stepLevels : List QLevel → List QLevel × Bool
  | [] => ([], true)
  | l :: t =>
    if l.pos + 1 < l.count then ({ l with pos := l.pos + 1 } :: t, false)
    else if 1 < l.iters then ({ l with pos := 0, iters := l.iters - 1 } :: t, false)
    else stepLevels t
/-- The thread goes past its packet; a buffer that begins again or ends takes what was read ahead from it along. -/
def HQueue.taken (h : HQueue) : HQueue :=
  let (ls, ring) := stepLevels h.levels
  let d := ls.length
  let again := (ls.head?.map (fun l => l.pos == 0)).getD false
  let keep (k : Nat) : Bool := k != packetKey h 0 && (k / 2 ^ 64 < d || (k / 2 ^ 64 == d && !again))
  { h with
    levels := ls
    head := if ring then h.head + 1 else h.head
    ahead := h.ahead.filter (fun e => keep e.1)
    low := h.low.filter (fun e => keep e.1) }
/-- A packet is taken, with an event where its bit 6 makes it one (R247). -/
def takePacket (s : State) (q : Nat) (event : Bool) : State :=
  let s1 := s.modHq q HQueue.taken
  if event then s1.qEvent q else s1

/-- The thread's next packet, if it can take one now: checked, skipped or handed to `body` (R241, R243, R245). A
packet of another kind is left for its own step. -/
def onPacket (s : State) (q : Nat) (want : Instr) (body : State → Packet → State) : Out :=
  .next (if 32 ≤ q then s
  else
    let s0 := tryOpen s q
    let h := s0.hq q
    if h.st != .run || h.opening || (h.levels.isEmpty && h.efftail ≤ h.head.toNat) then s0
    else
      let r : Res (Option (W64 × W64)) := match Tab.get? h.ahead (packetKey h 0) with
        | some w => .ok (some w)
        | none => readPacket s0 h 0
      match r with
      | .hold => s0
      | .fail c _ _ => qFault s0 q c
      | .ok none => s0
      | .ok (some (lo, hi)) =>
        let p := Packet.ofWords lo hi
        if !packetOk p then qFault s0 q cDesc
        else if p.step? q != some want then s0
        else
          let s1 := s0.modHq q (fun h => { h with ahead := Tab.set h.ahead (packetKey h 0) (lo, hi) })
          if packetRuns h p then body s1 p else takePacket s1 q false)

/- Plain packets -/

def execStopPacket (q : Nat) (s : State) : Out :=
  onPacket s q (.stopPacket q) (fun s p => (takePacket s q (packetIntr p)).modHq q (fun h => { h with st := .stopped }))
def execNopPacket (q : Nat) (s : State) : Out := onPacket s q (.nopPacket q) (fun s _ => takePacket s q false)

/-- An access that a packet makes to a 64-bit location (R380). -/
def packetAccess (s : State) (q : Nat) (op : MemOp) (a : W64) (f : List Loc → State) : State :=
  match access s (qWho (s.hq q)) op a 8 with
  | .hold => s
  | .fail c _ _ => qFault s q c
  | .ok (ls, _) => f ls
def execSignalStore (q : Nat) (s : State) : Out :=
  onPacket s q (.signalStore q) (fun s p =>
    packetAccess s q .store p.addr (fun ls => takePacket (writeLocs s ls p.aux.toNat) q (packetIntr p)))
def execSignalAdd (q : Nat) (s : State) : Out :=
  onPacket s q (.signalAdd q) (fun s p =>
    packetAccess s q .atomic p.addr (fun ls =>
      takePacket (writeLocs s ls ((readLocs s ls + p.aux.toNat) % 2 ^ 64)) q (packetIntr p)))
def execTimePacket (q : Nat) (s : State) : Out :=
  onPacket s q (.timePacket q) (fun s p =>
    packetAccess s q .store p.addr (fun ls => takePacket (writeLocs s ls (s.ftime 15).toNat) q false))
def execPred (q : Nat) (s : State) : Out :=
  onPacket s q (.pred q) (fun s p =>
    let set (s : State) (b : Bool) : State :=
      takePacket (s.modHq q (fun h => { h with pred := b != p.flags.getLsbD 5 })) q false
    if p.addr = 0 then set s true
    else packetAccess s q .load p.addr (fun ls => set s (readLocs s ls != 0)))
def execFfence (q : Nat) (s : State) : Out :=
  onPacket s q (.ffence q) (fun s _ => (takePacket s q false).modHq q HQueue.forget)

/-- A buffer is opened one level deeper, `iters` times over (R243, R245). -/
def openBuffer (s : State) (q : Nat) (p : Packet) (iters : Nat) : State :=
  if iters = 0 then takePacket s q false
  else if 4 ≤ (s.hq q).levels.length then qFault s q cDesc
  else s.modHq q (fun h => { h with levels := ⟨p.addr, p.n, 0, iters⟩ :: h.levels })
def execCall (q : Nat) (s : State) : Out := onPacket s q (.call q) (fun s p => openBuffer s q p 1)
def execLoopPacket (q : Nat) (s : State) : Out := onPacket s q (.loopPacket q) (fun s p => openBuffer s q p p.aux.toNat)

/- Launches -/

/-- The current phase, while its job is open and not closing (R27). -/
def qPhase (s : State) (h : HQueue) : Option Nat :=
  match h.phase, qJob s h with
  | some p, some j => if (s.ent? p).any (fun e => e.parent == some j.ent) then some p else none
  | _, _ => none
/-- A launch, graph, resume or checkpoint packet without such a phase faults (R27). -/
def inPhase (s : State) (q : Nat) (f : Nat → State) : State :=
  match qPhase s (s.hq q) with
  | none => qFault s q cPerm
  | some p => f p

/-- The next outcome index is assigned (R246). -/
def assignIndex (s : State) (q : Nat) : Nat × State :=
  ((s.hq q).recidx.toNat, s.modHq q (fun h => { h with recidx := h.recidx + 1 }))
/-- A packet that ends with its record at once: rejected, or under a cancelled phase. An uncorrectable error in reading
its block is counted (R178, R249). -/
def recordOnly (s : State) (q j : Nat) (p : Packet) (handle : W64) (st : W32) : State :=
  takePacket ((s.countEcc st).outcome q j (packetIntr p) handle st) q false

/-- A launch handed to the Mordant: handle, outcome index, checks 8 to 12, the spawn (R25, R33, R41, R246). -/
def handLaunch (s : State) (q ph : Nat) (p : Packet) (r : Except W32 Lpb) (slice : Option Slice) : State :=
  let ctx := qCtx (s.hq q)
  let (j, s1) := assignIndex s q
  let (handle, s2) := newHandle s1 ctx .launch
  let ended (st : W32) : State := recordOnly (s2.reject ctx handle) q j p handle st
  match r with
  | .error st => ended st
  | .ok l => match checkFit s2 l with
    | some st => ended st
    | none =>
      if isCancelled s2 ph then ended (statusWord nCancelled 0)
      else match spawn? s2 ph with
        | none => s
        | some (part, s3) =>
          let (lid, s4) := newLaunch s3 l handle ctx ph part q (some (q, j, packetIntr p)) slice none
          takeEarly (settleLaunch (takePacket (s4.modHq q (fun h => { h with live := h.live ++ [lid] })) q false) lid) lid
/-- Goes on with what was read for a launch. -/
def onLpb (s : State) (r : Res (Except W32 Lpb)) (f : Except W32 Lpb → State) : State :=
  match r with
  | .hold => s
  | .fail c _ _ => f (.error (statusWord c 0))
  | .ok x => f x

def execLaunchPacket (q : Nat) (s : State) : Out :=
  onPacket s q (.launchPacket q) (fun s p => inPhase s q (fun ph =>
    onLpb s (readLpb s (qWho (s.hq q)) p.addr) (fun r => handLaunch s q ph p r none)))
/-- RESUME (R231, R243): an LPB without RESUME is rejected. -/
def execResumePacket (q : Nat) (s : State) : Out :=
  onPacket s q (.resumePacket q) (fun s p => inPhase s q (fun ph =>
    onLpb s (readLpb s (qWho (s.hq q)) p.addr) (fun r =>
      handLaunch s q ph p (match r with
        | .error st => .error st
        | .ok l => if l.resume then .ok l else .error (rejected sRange)) none)))

def ascending : List Nat → Bool
  | [] => true
  | [_] => true
  | a :: b :: t => a < b && ascending (b :: t)
/-- A slice block and its LPB (R244): the launch and its slice, or what it is rejected with. -/
def readSlice (s : State) (w : Who) (a : W64) : Res (Except W32 (Lpb × Slice)) :=
  if a.toNat % 64 != 0 then .ok (.error (rejected sRange))
  else (readBlock s w .engRead a 64).bind (fun bs =>
    let n := fld bs 0x18 2
    if n < 2 || 4096 < n || !zeroFrom bs 0x1A 38 then .ok (.error (rejected sRange))
    else (readRun s w .engRead 1 (2 * n) (u64 (fld bs 0x10 8))).bind (fun ms =>
      let members := (List.range n).map (fun i => fld ms (2 * i) 2)
      let t := fld bs 8 8
      if !ascending members || members.any (fun m => 4096 ≤ m) || !members.contains s.pkg then .ok (.error (rejected sRange))
      else (readLpb s w (u64 (fld bs 0 8))).bind (fun r => .ok (match r with
        | .error st => .error st
        | .ok l =>
          if l.gang then .ok (l, ⟨sliceSerial t members, t, members, false, [], [], 0, false, false, 0⟩)
          else .error (rejected sRange)))))
def execSliceLaunch (q : Nat) (s : State) : Out :=
  onPacket s q (.sliceLaunch q) (fun s p => inPhase s q (fun ph =>
    match readSlice s (qWho (s.hq q)) p.addr with
    | .hold => s
    | .fail c _ _ => handLaunch s q ph p (.error (statusWord c 0)) none
    | .ok (.error st) => handLaunch s q ph p (.error st) none
    | .ok (.ok (l, sl)) => handLaunch s q ph p (.ok l) (some sl)))

/- Graphs -/

/-- No cycle: nodes without a predecessor that is left are removed until none is left. -/
def acyclic : Nat → List (Nat × List Nat) → Bool
  | 0, left => left.isEmpty
  | fuel + 1, left =>
    let go := left.filter (fun n => n.2.all (fun p => !left.any (fun m => m.1 == p)))
    left.isEmpty || (!go.isEmpty && acyclic fuel (left.filter (fun n => !go.any (fun m => m.1 == n.1))))
/-- The LPBs of the nodes, each through checks 1 to 6 (R45). -/
def readNodes (s : State) (w : Who) : List W64 → Res (Except W32 (List Lpb))
  | [] => .ok (.ok [])
  | a :: t => (readLpb s w a).bind (fun r => match r with
    | .error st => .ok (.error (if statusCode st = cLaunch then rejected sRange else st))
    | .ok l => (readNodes s w t).bind (fun r => .ok (match r with
      | .error st => .error st
      | .ok ls => .ok (l :: ls))))
/-- A graph block with its tables, read once (R44 to R46). -/
def readGraph (s : State) (w : Who) (a : W64) : Res (Except W32 (List Node)) :=
  if a.toNat % 64 != 0 then .ok (.error (rejected sRange))
  else (readBlock s w .engRead a 64).bind (fun bs =>
    let nn := fld bs 0 4
    let ne := fld bs 4 4
    let nodes := fld bs 8 8
    let edges := fld bs 0x10 8
    if nn = 0 || 4096 < nn || 65536 < ne || nodes % 8 != 0 || edges % 8 != 0 || globalSize ≤ nodes || globalSize ≤ edges
        || (ne = 0 && edges != 0) || !zeroFrom bs 0x18 40 then .ok (.error (rejected sRange))
    else (readRun s w .engRead 8 nn (u64 nodes)).bind (fun nb => (readRun s w .engRead 8 ne (u64 edges)).bind (fun eb =>
      let es := (List.range ne).map (fun i => (fld eb (8 * i) 4, fld eb (8 * i + 4) 4))
      let preds (i : Nat) : List Nat := (es.filter (fun e => e.2 == i)).map (·.1)
      if es.any (fun e => nn ≤ e.1 || nn ≤ e.2) || !acyclic nn ((List.range nn).map (fun i => (i, preds i)))
        then .ok (.error (rejected sRange))
      else (readNodes s w ((List.range nn).map (fun i => u64 (fld nb (8 * i) 8)))).bind (fun r => .ok (match r with
        | .error st => .error st
        | .ok ls => .ok ((ls.zipIdx).map (fun e => ⟨e.1, preds e.2, .waiting⟩)))))))
/-- A graph handed on: handle, outcome index, the spawn (R25, R41, R45, R246). -/
def handGraph (s : State) (q ph : Nat) (p : Packet) (r : Except W32 (List Node)) : State :=
  let ctx := qCtx (s.hq q)
  let (j, s1) := assignIndex s q
  let (handle, s2) := newHandle s1 ctx .graph
  match r with
  | .error st => recordOnly s2 q j p handle st
  | .ok ns =>
    if isCancelled s2 ph then recordOnly s2 q j p handle (statusWord nCancelled 0)
    else match spawn? s2 ph with
      | none => s
      | some (part, s3) =>
        let (g, s4) := newEnt s3 .graph handle ctx (some ph) part q (some (q, j, packetIntr p))
        let s5 : State := { s4 with graphs := Tab.set s4.graphs g ns }
        (takePacket (s5.modHq q (fun h => { h with live := h.live ++ [g] })) q false).reprioritise
def execGraph (q : Nat) (s : State) : Out :=
  onPacket s q (.graph q) (fun s p => inPhase s q (fun ph =>
    match readGraph s (qWho (s.hq q)) p.addr with
    | .hold => s
    | .fail c _ _ => handGraph s q ph p (.error (statusWord c 0))
    | .ok r => handGraph s q ph p r))

/-- PHASE (R27): the current phase ends and the next opens, once it can be spawned. -/
def execPhase (q : Nat) (s : State) : Out :=
  onPacket s q (.phase q) (fun s _ => inPhase s q (fun _ =>
    match qJob s (s.hq q) with
    | none => qFault s q cPerm
    | some j => match spawn? s j.ent with
      | none => s
      | some _ => takePacket ((openPhase (endPhase s q) q j).getD s) q false))

/- Waits -/

def blockOn (s : State) (q : Nat) (w : QWait) : State := s.modHq q (fun h => { h with st := .blocked, wait := some w })
def execWaitThreshold (q : Nat) (s : State) : Out :=
  onPacket s q (.waitThreshold q) (fun s p =>
    packetAccess s q .watch p.addr (fun ls =>
      if p.aux.toNat ≤ readLocs s ls then takePacket s q (packetIntr p) else blockOn s q (.threshold p.addr p.aux.toNat)))
def execWaitQueue (q : Nat) (s : State) : Out :=
  onPacket s q (.waitQueue q) (fun s p =>
    if (s.hq q).live.isEmpty then takePacket s q (packetIntr p) else blockOn s q .earlier)
/-- The entity of a handle in the queue's job is complete, or there is none. -/
def handleOver (s : State) (h : HQueue) (handle : W64) : Bool :=
  match entByHandle s (qCtx h) handle with
  | none => true
  | some e => ((s.ent? e).map (·.complete)).getD true
def execWaitHandle (q : Nat) (s : State) : Out :=
  onPacket s q (.waitHandle q) (fun s p =>
    if handleOver s (s.hq q) p.addr then takePacket s q (packetIntr p) else blockOn s q (.entity p.addr))

/- Checkpoints -/

/-- Pages mapped below an entry of a level, in ascending order (R255). -/
def pagesBelow (s : State) (va : Nat) : Nat → Nat → Nat → Nat → List (Nat × Nat)
  | 0, _, _, _ => []
  | fuel + 1, level, die, tab =>
    let n := if level = 3 then 4096 else if level = 2 then 4096 else if level = 1 then 512 else 32
    let size := if level = 3 then 2 ^ 42 else if level = 2 then 2 ^ 30 else if level = 1 then 2 ^ 21 else 2 ^ 16
    (List.range n).flatMap (fun i =>
      let k := dramKey die (tab + 16 * i)
      match entryOf level (memNat s k 8) (memNat s (k + 8) 8) with
      | none => []
      | some (.leaf _) => [(va + i * size, size)]
      | some (.table d a) => pagesBelow s (va + i * size) fuel (level - 1) d a)
def mappedPages (s : State) (ctx : W16) : List (Nat × Nat) :=
  match s.job? ctx with
  | none => []
  | some j => pagesBelow s 0 4 3 j.rootDie j.rootAddr
/-- What a checkpoint block names: the target and the ranges. -/
def readChkpt (s : State) (h : HQueue) (a : W64) : Res (Except W32 (Target × List (Nat × Nat))) :=
  let w := qWho h
  (readBlock s w .engRead a 64).bind (fun bs =>
    let n := fld bs 0 4
    match parseTarget bs 8 with
    | none => .ok (.error (statusWord cDesc 0))
    | some t =>
      if 65536 < n || !zeroFrom bs 0x20 32 then .ok (.error (statusWord cDesc 0))
      else if n = 0 then .ok (.ok (t, mappedPages s (qCtx h)))
      else (readRun s w .engRead 1 (16 * n) (u64 (fld bs 0x18 8))).bind (fun rb =>
        let rs := (List.range n).map (fun i => (fld rb (16 * i) 8, fld rb (16 * i + 8) 8))
        if rs.any (fun r => r.1 % 65536 != 0 || r.2 % 65536 != 0) then .ok (.error (statusWord cDesc 0))
        else .ok (.ok (t, rs))))
/-- The gateway of a checkpoint's unit: all dies that are not in reset take turns (R255). -/
def chkptGate (s : State) (n : Nat) : Nat :=
  let gs := (List.range 12).filter (fun d => (s.die d).resetAt.isNone)
  gs.getD (n % gs.length) 0
/-- The units of a checkpoint leave in order, each to every member; a fault of the source ends them (R196). -/
def sendUnits (w : Who) (t : Target) : List Nat → State → FabCmd → Option (State × FabCmd)
  | [], s, f => some (s, f)
  | va :: rest, s, f => match readBlock s w .engRead (u64 va) 64 with
    | .hold => none
    | .fail c _ _ => some (s.countEcc (statusWord c 0), { f with nak := some c })
    | .ok bs =>
      let n := f.sent.length
      let off := 64 * n
      let h := s.hdr f.die f.ctxid f.id f.ver
      let s1 := s.queuePkt ⟨⟨groupDst t, h, .write t off (bs.map (BitVec.ofNat 8)) none⟩, chkptGate s n, 16, none, 0, 0⟩
      sendUnits w t rest s1 { f with sent := f.sent ++ [off] }
/-- CHKPT (R255): blocked until the queue's earlier work is complete, then until every unit is acknowledged. A fault in
reading its block or its ranges is the queue's (R245). -/
def execChkpt (q : Nat) (s : State) : Out :=
  onPacket s q (.chkpt q) (fun s p => inPhase s q (fun _ =>
    let h := s.hq q
    if !h.live.isEmpty then blockOn s q .earlier
    else
      let (j, s1) := assignIndex s q
      match readChkpt s h p.addr with
      | .hold => s
      | .fail c _ _ => qFault s q c
      | .ok (.error st) => recordOnly s1 q j p 0 st
      | .ok (.ok (t, rs)) => match destinations s t with
        | none => recordOnly s1 q j p 0 (statusWord nDstPerm 0)
        | some (ms, ver) =>
          let (id, s2) := s1.fresh
          let units := rs.flatMap (fun r => (List.range (r.2 / 64)).map (fun i => r.1 + 64 * i))
          let f : FabCmd := ⟨id, qCtx h, ver, ms.map (peerOf t), false, none, none, 0, [], none, none, false, false, 15,
            16, none⟩
          match sendUnits (qWho h) t units s2 f with
          | none => s
          | some (s3, f1) =>
            (blockOn { s3 with fab := { s3.fab with cmds := s3.fab.cmds ++ [f1] } } q (.chkpt id)).modHq q
              (fun h => { h with chkpt := some (j, packetIntr p) })))

/-- The thread's packet as it was read. -/
def heldPacket (h : HQueue) : Packet :=
  let w := (Tab.get? h.ahead (packetKey h 0)).getD (0, 0)
  Packet.ofWords w.1 w.2
/-- A blocked thread goes on: EN = 0 written meanwhile ends in IDLE (R239). -/
def unblock (s : State) (q : Nat) (take event : Bool) : State :=
  let s1 := s.modHq q (fun h => { h with st := .run, wait := none, chkpt := none })
  let s2 := if take then takePacket s1 q event else s1
  if (s2.hq q).en then s2 else goIdle s2 q
/-- A read of the location of a WAIT of kind 0 (R131, R380). -/
def rereadWait (s : State) (q : Nat) (a : W64) (v : Nat) : State :=
  packetAccess s q .watch a (fun ls =>
    if v ≤ readLocs s ls then unblock s q true (packetIntr (heldPacket (s.hq q))) else s)
/-- WAIT_RELEASE (R243, R255). -/
def execWaitRelease (q : Nat) (s : State) : Out :=
  let h := s.hq q
  let p := heldPacket h
  .next (if 32 ≤ q || h.st != .blocked then s
  else match h.wait with
    | none => s
    | some (.threshold a v) => rereadWait s q a v
    | some .earlier => if !h.live.isEmpty then s else unblock s q (p.type != 0x0C) (packetIntr p)
    | some (.entity handle) => if handleOver s h handle then unblock s q true (packetIntr p) else s
    | some (.chkpt id) => match s.fabCmd? id, h.chkpt with
      | some f, some (j, intr) => match sendDone f (64 * f.sent.length) false with
        | none => s
        | some st => unblock ((s.endFab id).outcome q j intr 0 st) q true false
      | _, _ => s)
/-- WAIT_RE_READ (R380). -/
def execWaitReRead (q : Nat) (s : State) : Out :=
  let h := s.hq q
  .next (if 32 ≤ q || h.st != .blocked then s
  else match h.wait with
    | some (.threshold a v) => rereadWait s q a v
    | _ => s)

end Sys2Proof.Machine
end

