-- ==== Sys2Proof/Machine/Sha.lean ====
section
/-! DEFINITION. SHA-256, by which the ROM measures a firmware image (R250). The algorithm is that of the standard of that
name (assumption 13). -/
namespace Sys2Proof.Machine

abbrev ShaWord := BitVec 32
/-- The eight chaining words, `a` to `h` within a block. -/
structure ShaState where
  a : ShaWord
  b : ShaWord
  c : ShaWord
  d : ShaWord
  e : ShaWord
  f : ShaWord
  g : ShaWord
  h : ShaWord
deriving DecidableEq, Repr

/-- The 64 round constants, the first in the highest bits. -/
def shaKeys : BitVec 2048 := 0x428a2f9871374491b5c0fbcfe9b5dba53956c25b59f111f1923f82a4ab1c5ed5d807aa9812835b01243185be550c7dc372be5d7480deb1fe9bdc06a7c19bf174e49b69c1efbe47860fc19dc6240ca1cc2de92c6f4a7484aa5cb0a9dc76f988da983e5152a831c66db00327c8bf597fc7c6e00bf3d5a7914706ca63511429296727b70a852e1b21384d2c6dfc53380d13650a7354766a0abb81c2c92e92722c85a2bfe8a1a81a664bc24b8b70c76c51a3d192e819d6990624f40e3585106aa07019a4c1161e376c082748774c34b0bcb5391c0cb34ed8aa4a5b9cca4f682e6ff3748f82ee78a5636f84c878148cc7020890befffaa4506cebbef9a3f7c67178f2
def shaKey (t : Nat) : ShaWord := shaKeys.extractLsb' (32 * (63 - t)) 32
def ShaState.init : ShaState :=
  ⟨0x6a09e667, 0xbb67ae85, 0x3c6ef372, 0xa54ff53a, 0x510e527f, 0x9b05688c, 0x1f83d9ab, 0x5be0cd19⟩

/-- A message with the bit 1, zeros, and its length in bits: a multiple of 64 bytes. -/
def shaPad (m : List Byte) : List Byte :=
  m ++ [0x80] ++ List.replicate ((119 - m.length % 64) % 64) 0
    ++ (List.range 8).map (fun i => BitVec.ofNat 8 (8 * m.length / 256 ^ (7 - i)))
/-- Big-endian words of a byte string. -/
def shaWords : List Byte → List ShaWord
  | p :: q :: r :: s :: t => (p ++ q ++ r ++ s) :: shaWords t
  | _ => []
/-- `n` more words of the message schedule; the newest stands first. -/
def shaSchedule : Nat → List ShaWord → List ShaWord
  | 0, ws => ws
  | n + 1, ws =>
    let x := ws.getD 14 0
    let y := ws.getD 1 0
    let lo := x.rotateRight 7 ^^^ x.rotateRight 18 ^^^ x >>> 3
    let hi := y.rotateRight 17 ^^^ y.rotateRight 19 ^^^ y >>> 10
    shaSchedule n ((hi + ws.getD 6 0 + lo + ws.getD 15 0) :: ws)
/-- One round with a word of the schedule. -/
def shaRound (s : ShaState) (t : Nat) (w : ShaWord) : ShaState :=
  let hi := s.e.rotateRight 6 ^^^ s.e.rotateRight 11 ^^^ s.e.rotateRight 25
  let ch := (s.e &&& s.f) ^^^ (~~~s.e &&& s.g)
  let x := s.h + hi + ch + shaKey t + w
  let lo := s.a.rotateRight 2 ^^^ s.a.rotateRight 13 ^^^ s.a.rotateRight 22
  let maj := (s.a &&& s.b) ^^^ (s.a &&& s.c) ^^^ (s.b &&& s.c)
  ⟨x + (lo + maj), s.a, s.b, s.c, s.d + x, s.e, s.f, s.g⟩
def shaRounds : Nat → List ShaWord → ShaState → ShaState
  | _, [], s => s
  | t, w :: ws, s => shaRounds (t + 1) ws (shaRound s t w)
/-- A block of 16 words. -/
def shaBlock (s : ShaState) (ws : List ShaWord) : ShaState :=
  let r := shaRounds 0 (shaSchedule 48 ws.reverse).reverse s
  ⟨s.a + r.a, s.b + r.b, s.c + r.c, s.d + r.d, s.e + r.e, s.f + r.f, s.g + r.g, s.h + r.h⟩
def shaBlocks : Nat → List ShaWord → ShaState → ShaState
  | 0, _, s => s
  | n + 1, ws, s => shaBlocks n (ws.drop 16) (shaBlock s (ws.take 16))
/-- SHA-256 of a byte string; its first byte is the highest of the result. -/
def sha256 (m : List Byte) : BitVec 256 :=
  let ws := shaWords (shaPad m)
  let s := shaBlocks (ws.length / 16) ws ShaState.init
  s.a ++ s.b ++ s.c ++ s.d ++ s.e ++ s.f ++ s.g ++ s.h

end Sys2Proof.Machine
end

