-- ==== Sys2Proof/Machine/Resets.lean ====
section
/-! DEFINITION. Single-die resets (R14, R204), module resets, power and boot (R12, R205, R250 to R252), firmware and
quotes (R253, R254). -/
namespace Sys2Proof.Machine

/- A die -/

/-- A unit whose fragment lies on a die that is reset: it stops without an image as a cancel stops it, the commands of one
that has exited too; what was being read stays saved (R14, R232). -/
def resetUnit (s : State) (uid : Nat) : State :=
  match s.unit? uid with
  | none => s
  | some u => match u.phase with
    | .saved => s
    | .counted => s
    | .exited => (endQueued s uid).modUnit uid (fun u => { u with
        phase := .quiescing, deadline := s.now, stop := s.now, killed := true, cids := [] })
    | .reading => (freeFragment s uid).modUnit uid (fun u => { u with phase := .saved, freed := false })
    | _ => if u.killed then s else killUnit s uid
/-- Whether a launch had a unit on the die. -/
def hadUnit (s : State) (lid d : Nat) : Bool :=
  (unitsOf s lid).any (fun u => u.2.seq / 16 == d && !(u.2.phase == .saved || u.2.phase == .reading || u.2.phase == .counted))
/-- Storage of a die in its reset state (R13, R14). -/
def clearDie (s : State) (d : Nat) : State :=
  let ps := (List.range 16).map (fun p => 16 * d + p)
  let s1 := ps.foldl clearPad s
  let s2 := clearBanks s1 ps
  let inDie (x : Nat) : Bool := x / 16 == d
  { s2 with
    frags := s2.frags.filter (fun e => !inDie e.1)
    chains := s2.chains.filter (fun c => !inDie c.src && !inDie c.dst)
    accVis := setPanes s2.accVis ps 0
    spOwner := setPanes s2.spOwner ps 0 }
/-- Packages with which the die's gateway has a packet outstanding (R204). -/
def noticed (s : State) (d : Nat) : List Nat :=
  let a := ((s.fab.ports.flatMap (fun p => p.2.q)) ++ s.fab.out).map (·.pkt.dst)
  let b := s.fab.cmds.flatMap (fun f => f.peers.map (·.pkg) ++ f.owner.toList.map (·.1))
  let c := s.fab.resps.map (·.hdr.reqPkg) ++ s.fab.recips.map (·.hdr.reqPkg)
  (a ++ b ++ c).eraseDups.filter (fun p => p != s.pkg && p < 4096
    && (List.range 16).any (fun x => outstandingWith s d p x))
/-- What a gateway holds goes with its reset: the queues of its ports, what it serves or receives, what it recorded of
other dies (R13, R14). -/
def clearGateway (f : Fabric) (d : Nat) : Fabric :=
  let mine (k : Nat) : Bool := k / 2 ^ 16 == d
  { f with
    ports := f.ports.filter (fun p => p.1 / 4 != d)
    resps := f.resps.filter (fun r => r.rdie != d)
    recips := f.recips.filter (fun r => r.die != d)
    ords := f.ords.filter (fun r => r.die != d)
    applied := f.applied.filter (fun e => !mine e.1)
    peerInc := f.peerInc.filter (fun e => !mine e.1) }
/-- Packets of the control die that stood in the ports of a die: they leave by another one. -/
def strayed (s : State) (d : Nat) : List OutPkt :=
  (s.fab.ports.flatMap (fun p => if p.1 / 4 == d then p.2.q else [])).filter (fun o => 12 ≤ o.pkt.hdr.srcDie)
/-- The fabric after a reset of a die: its gateway is as after reset, notices leave, commands with a party on it end with
STALE (R204). Packets that have left the die are on their way, and stale. -/
def fabricReset (s : State) (d inc : Nat) (pkgs : List Nat) : State :=
  let s1 : State := { s with fab := clearGateway s.fab d }
  let s2 := (strayed s d).foldl (fun s o => s.queuePkt { o with gate := gateOf s 15, port := none }) s1
  let s3 := pkgs.foldl (fun s p => s.send ⟨p, s.hdr 15 0 0 0, .resetNotice d inc⟩) s2
  losePeer s3 s3.pkg (some d)
/-- Step 4 of R14, in a reset that began at `start`: the die's storage, its registers among them FTIME (R5, R208), its
incarnation and the fabric (R204). The heat allowance that the operator gave the die stands: R75 gives it at reset, R14
does not name it (DESIGN CHOICE, assumption 88). -/
def enterReset (s : State) (d start : Nat) : State :=
  let inc := ((s.die d).inc + 1) % 256
  let s1 := (clearDie s d).modDie d (fun x => { x with
    inc := inc, stopAt := none, resetAt := some start, tpc := nominalTicks, cycles := 0, cycAt := s.now })
  let s2 : State := { s1 with fab := { s1.fab with untimed := d :: s1.fab.untimed.filter (· != d) } }
  fabricReset s2 d inc (noticed s d)
/-- Units of a die that are on their way to their stop points without an image. -/
def dyingOn (s : State) (d : Nat) : List Nat :=
  (s.units.filter (fun u => u.2.seq / 16 == d && u.2.phase == .quiescing && u.2.killed)).map (·.1)
/-- Once every command of the die's units is at its stop point and their stores are visible, the units end and the die's
storage goes (R14, R224, R232). -/
def finishStop (s : State) (d start : Nat) : State :=
  let us := dyingOn s d
  let s1 := us.foldl settleStop s
  if us.any (stillStopping s1) then s1
  else enterReset (us.foldl (fun s x => match s.unit? x with
    | some u => endKilled s x u
    | none => s) s1) d start
/-- A single-die reset begins (R14): its units stop, at once where nothing of them is under way. A reset of the module in
place of one whose L2 cannot be written back is the schedule's MODULE_RESET (assumption 88). -/
def resetDie (s : State) (d : Nat) : State :=
  if 12 ≤ d || !s.dieOpen d || !s.boot.powered then s
  else
    let lids := (s.launches.filter (fun e => hadUnit s e.1 d)).map (·.1)
    let uids := (s.units.filter (fun u => u.2.seq / 16 == d)).map (·.1)
    let s1 := uids.foldl resetUnit s
    let s2 := lids.foldl (fun s l => failLaunch s l (statusWord nStale 0)) s1
    let s3 := (s2.modDie d (fun x => { x with stopAt := some s.now })).count (fun e => { e with resets := satInc e.resets })
    finishStop s3 d s.now
/-- Since when a context that runs has not moved, none where firmware or another agent holds it up. -/
def Ctx.still? (c : Ctx) : Option Nat :=
  match c.wait with
  | .none => some c.notBefore
  | .stall => some c.since
  | .begun => some c.since
  | _ => none
/-- The die hangs: it runs contexts, and none of them has moved for 10 ms. R14 gives the figure of the watchdog alone, not
what it watches nor what restarts it (DESIGN CHOICE, assumption 97). -/
def dieHung (s : State) (d : Nat) : Bool :=
  let cs := s.ctxs.filter (fun c => c.seq / 16 == d && c.phase == .running && !c.halted)
  !cs.isEmpty && cs.all (fun c => c.still?.any (fun t => decide (t + 10000 * ticksPerUs ≤ s.now)))
/-- HANG_WATCHDOG: the 10 ms watchdog of a die that hangs expires (R14). -/
def execHangWatchdog (die : Nat) (s : State) : Out := .next (if dieHung s die then resetDie s die else s)
def execFatalInternalError (die : Nat) (s : State) : Out := .next (resetDie s die)
/-- DIE_RESET_COMPLETE (R14): the die accepts placements again, at the latest 5 ms after the reset began
(State.deadlines); while its units still stop, they go on to their stop points. -/
def execDieResetComplete (die : Nat) (s : State) : Out :=
  .next (if (s.die die).resetAt.isSome then s.modDie die (fun d => { d with resetAt := none })
    else match (s.die die).stopAt with
      | some t => finishStop s die t
      | none => s)

/- The module -/

/-- Step 2 of R250. -/
def verified (b : Boot) (img : List Byte) : Bool :=
  Config.vendorSigned img || (b.opkey != 0 && Config.operatorSigned img b.opkey)
/-- The image that steps 1 to 3 of R250 accept, and whether it is the recovery image. -/
def selectImage (b : Boot) : Option (List Byte × Bool) :=
  let rec' := if verified b Config.recoveryImage then some (Config.recoveryImage, true) else none
  if b.recover then rec'
  else if verified b Config.residentImage then some (Config.residentImage, false) else rec'
/-- The completion record of Whiting (R252): the time it took and the elements that read back non-zero are free values
(assumption 70). -/
def scrubRecord (nonce measurement : BitVec 256) (elapsed bad : Nat) : List Byte :=
  let body := (leList 4 1 ++ leList 4 (if bad = 0 then 0 else 1) ++ leList 8 bad ++ leList 32 nonce.toNat
    ++ leList 32 measurement.toNat
    ++ leList 8 elapsed ++ leList 8 0).map (BitVec.ofNat 8)
  body ++ (leList 64 (Config.deviceSign body).toNat).map (BitVec.ofNat 8)
/-- The ROM starts an image (R250 step 4, R251). -/
def startImage (b : Boot) (img : List Byte) (recovery : Bool) : Boot :=
  let m := sha256 img
  { b with running := some m, layer1 := Config.aliasKey m, recover := if recovery then false else b.recover }
/-- The ROM starts an image, or waits for one (R250). -/
def bootImage (s : State) : State :=
  match selectImage s.boot with
  | none => s
  | some (img, r) => { s with boot := startImage s.boot img r }
/-- The ROM after a reset: with a latched SCRUB Whiting begins, which takes at most 50 ms; else an image (R250,
R252). -/
def romBoot (s : State) : State :=
  match s.boot.scrub with
  | none => bootImage s
  | some _ =>
    let (us, t) := s.pick 50001
    { t with boot := { t.boot with scrubAt := some (t.now, us) } }
/-- Whiting is done (R252): an image is selected and measured, the record signed and written, the latch cleared, the image
started. -/
def finishScrub (s : State) : State :=
  match s.boot.scrubAt, s.boot.scrub with
  | some (_, us), some nonce =>
    let m := ((selectImage s.boot).map (fun x => sha256 x.1)).getD 0
    let (bad, t) := s.pick (2 ^ 64)
    bootImage { t with boot := { t.boot with scrub := none, scrubAt := none, record := scrubRecord nonce m us bad } }
  | _, _ => s

/-- Bytes of the hosts' memories, which no reset of the module touches. -/
def hostCells (s : State) : List Host.Cell := s.mem.filter (fun c => 2 ^ 64 ≤ c.1)
/-- Every storage element of the module as after reset; the flash, the latches, the package id, the hosts' memory and
links and the model's own fields stay. The ports go down (R12, R205). The UCIe links are as after reset, so that none has
an open window and each may step at once: R22 and R23 are silent (DESIGN CHOICE, assumption 99). -/
def clearModule (s : State) : State :=
  { State.reset with
    now := s.now, free := s.free, nextId := s.nextId, turns := s.turns, mem := hostCells s, pkg := s.pkg
    hostBad := s.hostBad
    dies := (List.range 12).foldl (fun m d => Store.put Die.reset m d { Die.reset with cycAt := s.now }) []
    boot := { Boot.reset with opkey := s.boot.opkey, recover := s.boot.recover, scrub := s.boot.scrub }
    fab := { Fabric.reset with portsAt := s.now } }
/-- MODULE_RESET (R12, R250). -/
def resetModule (s : State) : State := romBoot (clearModule s)
def execModuleReset (s : State) : Out := .next (if s.boot.powered then resetModule s else s)
/-- POWER_LOSS (R251, R252): everything but flash and fuses is lost, the latches with it. -/
def losePower (s : State) : State :=
  let t := clearModule s
  { t with boot := { Boot.reset with opkey := s.boot.opkey, powered := false } }
def execPowerLoss (s : State) : Out := .next (losePower s)
/-- POWER_UP (R12, R251): a cold reset. -/
def execPowerUp (s : State) : Out :=
  let t := losePower s
  .next (romBoot { t with boot := { t.boot with powered := true } })
/-- MGMT_IMAGE_RECEIVED (R250 step 3): a waiting ROM verifies what it receives. -/
def execMgmtImageReceived (image : List Byte) (s : State) : Out :=
  .next (if s.boot.powered && s.boot.running.isNone && s.boot.scrubAt.isNone && verified s.boot image
  then { s with boot := startImage s.boot image false } else s)

/-- ATTESTATION_QUOTE (R253, R254). -/
def execAttestationQuote (m : W16) (s : State) : Out :=
  .next (match s.boot.running with
  | some r =>
    if isMaster s m then
      let q : Quote := ⟨Config.romMeasure, Config.fuseMeasure, s.boot.opkey, r, s.boot.staged⟩
      { s with boot := { s.boot with quote := some q } }
    else s
  | none => s)

end Sys2Proof.Machine
end

