-- ==== Sys2Proof/Machine/Mailbox.lean ====
section
/-! DEFINITION. The owner mailbox and its commands (R218, R233, R248, R249, R254, R381), and writes of host registers
(R238, R239, R248). A command acts when its doorbell is written; STATUS shows the result at MAILBOX_COMMAND_DONE
(assumption 30). -/
namespace Sys2Proof.Machine

/-- STATUS values (R248). -/
abbrev mOk : W32 := 1
abbrev mRefused : W32 := 2
abbrev mBad : W32 := 3
abbrev mUnsupported : W32 := 4

/-- A running command's result. -/
def finish (s : State) (r : W32) : State := { s with mbox := { s.mbox with result := some r } }
/-- The host link of a master's bus addresses (R381). -/
def busOf (m : W16) : Nat := if m = 1 then 1 else 0
def hostBytes (s : State) (link a : Nat) : Nat → List Nat
  | 0 => []
  | n + 1 => (memByte s (hostKey link a)).toNat :: hostBytes s link (a + 1) n
/-- A bus address meets a link error (R381). -/
def hostError (s : State) (link a : Nat) : Bool :=
  s.hostBad.any (fun r => r.1 == link && r.2.1 ≤ a && a < r.2.1 + r.2.2)
/-- The bytes of an operand in host memory: a link error ends the command with STATUS 3. -/
def withHost (s : State) (link a n : Nat) (f : List Nat → State) : State :=
  if (List.range n).any (fun i => hostError s link (a + i)) then finish s mBad
  else f (hostBytes s link a n)
/-- Bytes written one after another into host memory; at a link error those before it stay. -/
def hostStores (link : Nat) (s : State) (a : Nat) : List Nat → State × Bool
  | [] => (s, true)
  | b :: t => if hostError s link a then (s, false) else hostStores link (setByte s (hostKey link a) b) (a + 1) t
/-- A command whose result is what it wrote into host memory. -/
def toHost (link : Nat) (s : State) (a : W64) (bs : List Nat) : State :=
  let r := hostStores link s a.toNat bs
  finish r.1 (if r.2 then mOk else mBad)

/- Jobs -/

/-- JOB_OPEN (R248, R381). -/
def openJob (ctx rootDie rootAddr pfh tvec sscr saveAddr saveLen : W64) (s : State) : State :=
  let id : W16 := ctx.setWidth 16
  if 2 ^ 16 ≤ ctx.toNat || 12 ≤ rootDie.toNat || rootAddr.toNat % 65536 != 0 || dieBytes < rootAddr.toNat + 65536
      || 2 ≤ pfh.toNat || tvec.toNat % 8 != 0 || globalSize < saveAddr.toNat + saveLen.toNat || (s.job? id).isSome
    then finish s mBad
  else
    let (handle, s1) := newHandle s id .job
    let (e, s2) := newEnt s1 .job handle id none 0 0 none
    let j : Job := ⟨e, rootDie.toNat, rootAddr.toNat, pfh = 1, tvec, sscr, saveAddr.toNat, saveLen.toNat, [], false⟩
    finish { s2 with jobs := Tab.set s2.jobs id.toNat j } mOk
/-- JOB_CLOSE (R248): the job is cancelled, the command completes when it is empty. -/
def closeJob (ctx : W64) (s : State) : State :=
  let id : W16 := ctx.setWidth 16
  match (if 2 ^ 16 ≤ ctx.toNat then none else s.job? id) with
  | none => finish s mBad
  | some j =>
    let s1 := cancelEnt s j.ent (statusWord nCancelled 0)
    let s2 := s1.modJob id (fun j => { j with closing := true })
    { s2 with mbox := { s2.mbox with closing := some id } }
/-- Every part that the job lent is home and nothing of it is placed. -/
def jobEmpty (s : State) (id : W16) (j : Job) : Bool :=
  ((s.ent? j.ent).map (fun e => e.h + partWorth e.e == 2 ^ 56)).getD true && s.units.all (fun u => launchJob s u.2.lid != id)
/-- An image that is kept no longer: replies to its commands are dropped from now on, its chains are closed (R109, R233,
R379). -/
def dropImage (s : State) (d : Detached) : State :=
  let s1 := closeEnds (dropFab s (d.image.cmds.map (·.id))) (parkedBy d.image.uid)
  { s1 with detached := s1.detached.filter (fun x => !(x.job == d.job && x.image.addr == d.image.addr)) }
/-- A closed job leaves no image, no fault record and no claim on a scratchpad behind (R30, R218, R233). -/
def removeJob (s : State) (id : W16) (j : Job) : State :=
  let s1 := (s.detached.filter (fun d => d.job == id)).foldl dropImage (closeEnt s j.ent)
  { s1 with
    jobs := Tab.erase s1.jobs id.toNat
    launches := s1.launches.map (fun e => (e.1, if launchJob s e.1 = id then { e.2 with frec := none } else e.2))
    rejects := s1.rejects.filter (fun r => r.1 != id)
    spOwner := s1.spOwner.filter (fun e => e.2 != id.toNat + 1) }

/- Tables -/

/-- FAT_SET (R194). -/
def setFat (link : Nat) (index addr : W64) (s : State) : State := withHost s link addr.toNat 32 (fun bs =>
  let e : FatEnt := ⟨u64 (fld bs 0 8), u64 (fld bs 8 8), fld bs 0x10 2, BitVec.ofNat 16 (fld bs 0x12 2),
    BitVec.ofNat 16 (fld bs 0x14 2), BitVec.ofNat 8 (fld bs 0x16 1)⟩
  let sp := e.rights.getLsbD 4
  let bad := e.rights.getLsbD 7 && ((e.rights &&& 0x60) != 0 || !zeroFrom bs 0x17 9
    || (if sp then 256 ≤ e.base.toNat || 12 ≤ e.base.toNat / 16 || e.length != 0
        else e.base.toNat % 65536 != 0 || e.length.toNat % 65536 != 0))
  if 4096 ≤ index.toNat || bad then finish s mBad
  else finish { s with fab := { s.fab with fat := Store.put FatEnt.reset s.fab.fat index.toNat e } } mOk)
/-- GROUP_SET (R201). -/
def setGroup (link : Nat) (gid ver addr count : W64) (s : State) : State :=
  let n := count.toNat
  if 4096 ≤ gid.toNat || 2 ^ 32 ≤ ver.toNat || n < 2 || 64 < n then finish s mBad
  else withHost s link addr.toNat (2 * n) (fun bs =>
    let ms := (List.range n).map (fun i => fld bs (2 * i) 2)
    if ms.any (fun m => 4096 ≤ m) then finish s mBad
    else finish { s with fab := { s.fab with groups := Tab.set s.fab.groups gid.toNat ⟨ver.setWidth 32, ms⟩ } } mOk)
/-- KEY_LOAD (R177, R248). -/
def loadKey (link : Nat) (slot addr : W64) (s : State) : State :=
  if slot = 0 || 64 ≤ slot.toNat then finish s mBad
  else withHost s link addr.toNat 64 (fun bs =>
    finish { s with keys := Store.put 0 s.keys slot.toNat (BitVec.ofNat 512 (fld bs 0 64)) } mOk)

/- Records and images -/

/-- The record of R218. -/
def recordBytes (handle : W64) (r : Option FaultRec) : List Nat :=
  match r with
  | none => leList 8 handle.toNat ++ leList 56 0
  | some r => leList 8 handle.toNat ++ leList 4 r.unit ++ [r.compid % 256, r.cause % 128, 1, if r.sm then 1 else 0]
      ++ leList 8 r.tpc.toNat ++ leList 8 r.tword.toNat ++ leList 8 r.taddr.toNat ++ leList 8 r.tdata.toNat
      ++ [r.die, r.pane] ++ leList 6 0 ++ leList 8 r.ftime.toNat
/-- The launch of a handle, also one that was rejected; with several jobs, one that holds a record comes first
(assumption 31). -/
def recordOf (s : State) (h : W64) : Option (Option FaultRec) :=
  let ls := s.launches.filter (fun e => ((s.ent? e.1).map (·.handle)) == some h)
  match ls.findSome? (fun e => e.2.frec) with
  | some r => some (some r)
  | none => if ls.isEmpty && !s.rejects.any (fun r => r.2 == h) then none else some none
/-- FAULTREC (R218, R248). -/
def faultRecord (link : Nat) (handle addr : W64) (s : State) : State :=
  match recordOf s handle with
  | none => finish s mBad
  | some r => toHost link s addr (recordBytes handle r)
/-- An entry of the IMAGES list (R233). -/
def imageEntry (d : Detached) : List Nat :=
  leList 8 d.image.addr ++ leList 8 d.image.bytes ++ leList 8 d.lhandle.toNat ++ leList 4 d.unit
    ++ [d.image.shape, if d.image.yieldN.isSome then 1 else d.image.ctxs.length] ++ leList 2 0
/-- IMAGES: the number of detached images comes back in operand 0. -/
def listImages (link : Nat) (ctx addr count : W64) (s : State) : State :=
  if 2 ^ 16 ≤ ctx.toNat then finish s mBad
  else
    let ds := s.detached.filter (fun d => d.job == ctx.setWidth 16)
    let s1 := toHost link s addr ((ds.take count.toNat).flatMap imageEntry)
    if s1.mbox.result = some mOk then { s1 with mbox := { s1.mbox with ops := Store.put 0 s1.mbox.ops 0 (u64 ds.length) } }
    else s1
/-- IMAGE_FREE. -/
def freeDetached (ctx addr : W64) (s : State) : State :=
  match s.detached.find? (fun d => d.job.toNat == ctx.toNat && d.image.addr == addr.toNat) with
  | none => finish s mBad
  | some d => finish (dropImage (freeImage s (ctx.setWidth 16) addr.toNat) d) mOk

/- Firmware, operator settings, counters -/

/-- FW_STAGE (R254): verified as R250 step 2 says, and held. -/
def stageImage (link : Nat) (addr len : W64) (s : State) : State := withHost s link addr.toNat len.toNat (fun bs =>
  let img := bs.map (BitVec.ofNat 8)
  if verified s.boot img then finish { s with boot := { s.boot with staged := some (sha256 img) } } mOk
  else finish s mRefused)
/-- FW_COMMIT: one instant. -/
def commitImage (s : State) : State :=
  match s.boot.staged with
  | none => finish s mRefused
  | some m => finish { s with boot := { s.boot with running := some m, layer1 := Config.aliasKey m, staged := none } } mOk
def abortImage (s : State) : State := finish { s with boot := { s.boot with staged := none } } mOk
/-- HEAT_SET (R75): a launch that cannot be placed any more holds no reservation (R68). -/
def setHeat (die heat : W64) (s : State) : State :=
  if 12 ≤ die.toNat || 32 < heat.toNat then finish s mBad
  else finish (dropUnplaceable (s.modDie die.toNat (fun d => { d with heat := heat.toNat }))) mOk
/-- PARTITION (R192). -/
def setPartition (pid : W64) (s : State) : State := finish { s with fab := { s.fab with partition := pid.toNat } } mOk
def forceRelease (s : State) : State := finish (vacateOwner s) mOk
/-- SCRUB, RECOVER: the latch survives the reset that they make (R251, R252). -/
def latchScrub (nonce : BitVec 256) (s : State) : State :=
  resetModule { s with boot := { s.boot with scrub := some nonce } }
def latchRecover (s : State) : State := resetModule { s with boot := { s.boot with recover := true } }
def setOpkey (hash : BitVec 256) (s : State) : State := finish { s with boot := { s.boot with opkey := hash } } mOk
/-- DIE_RESET (R14). -/
def mgmtDieReset (die : W64) (s : State) : State :=
  if 12 ≤ die.toNat then finish s mBad else finish (resetDie s die.toNat) mOk

/-- The block of R249. -/
def counterBytes (e : Errs) : List Nat :=
  leList 4 1 ++ leList 4 0
    ++ ([e.dram, e.onDie, e.uncorr, e.refetch, e.stale, e.timeout, e.group, e.weight, e.resets].map (fun x => leList 8 x.toNat)).flatten
    ++ ((List.range 12).map (fun d => leList 8 (Store.get 0 e.perDie d).toNat)).flatten ++ leList 8 e.reply.toNat ++ leList 72 0
/-- Bytes written one after another in a context; at a fault those before it stay (R381). Whether all were written; none
where a home holds one. -/
def storeBytes (w : Who) (s : State) (a : W64) : List Nat → State × Option Bool
  | [] => (s, some true)
  | b :: t => match access s w .store a 1 with
    | .ok (ls, _) => storeBytes w (writeLocs s ls b) (a + 1) t
    | .hold => (s, none)
    | .fail _ _ _ => (s, some false)
/-- COUNTERS (R249). The command goes on when a home that holds its writes accepts them. -/
def writeCounters (addr ctx : W64) (s : State) : State :=
  if ctx = 0xFFFFFFFF then toHost 0 s addr (counterBytes s.errs)
  else if 2 ^ 16 ≤ ctx.toNat then finish s mBad
  else
    let r := storeBytes (Who.ctl (ctx.setWidth 16) 15) s addr (counterBytes s.errs)
    match r.2 with
    | none => { r.1 with mbox := { r.1.mbox with held := some (addr, ctx) } }
    | some ok => finish r.1 (if ok then mOk else mBad)

/- The doorbell -/

/-- Who may give a command: 0 the owner, 1 the management interface, 2 either; none for an unsupported code. -/
def commandGate (code : Nat) : Option Nat :=
  if (1 ≤ code && code ≤ 8) || (0x10 ≤ code && code ≤ 0x12) then some 0
  else if code = 0x26 then some 2
  else if 0x20 ≤ code && code ≤ 0x27 then some 1
  else none
def wide (ops : Nat → W64) : BitVec 256 := ops 3 ++ ops 2 ++ ops 1 ++ ops 0
/-- What a command does. -/
def command (m : W16) (code : Nat) (o : Nat → W64) (s : State) : State :=
  let link := busOf m
  match code with
  | 0x01 => openJob (o 0) (o 1) (o 2) (o 3) (o 4) (o 5) (o 6) (o 7) s
  | 0x02 => closeJob (o 0) s
  | 0x03 => setFat link (o 0) (o 1) s
  | 0x04 => setGroup link (o 0) (o 1) (o 2) (o 3) s
  | 0x05 => loadKey link (o 0) (o 1) s
  | 0x06 => faultRecord link (o 0) (o 1) s
  | 0x07 => listImages link (o 0) (o 1) (o 2) s
  | 0x08 => freeDetached (o 0) (o 1) s
  | 0x10 => stageImage link (o 0) (o 1) s
  | 0x11 => commitImage s
  | 0x12 => abortImage s
  | 0x20 => setHeat (o 0) (o 1) s
  | 0x21 => setPartition (o 0) s
  | 0x22 => forceRelease s
  | 0x23 => latchScrub (wide o) s
  | 0x24 => latchRecover s
  | 0x25 => setOpkey (wide o) s
  | 0x26 => writeCounters (o 0) (o 1) s
  | 0x27 => mgmtDieReset (o 0) s
  | _ => finish s mUnsupported
/-- A doorbell write with the command and operands that stand in the mailbox (R236, R238, R248). Owner commands need a
running firmware (assumption 32). -/
def doorbell (s : State) (m : W16) : State :=
  if !isMaster s m then s
  else if !(isOwner s m || m = mgmt) || s.mbox.status = 0 then s.refuse
  else
    let s1 : State := { s with mbox := { s.mbox with status := 0, result := none, closing := none, held := none } }
    let run := command m s.mbox.code.toNat (fun i => Store.get 0 s.mbox.ops i) s1
    match commandGate s.mbox.code.toNat with
    | none => finish s1 mUnsupported
    | some 0 => if isOwner s m && s.boot.running.isSome then run else finish s1 mRefused
    | some 1 => if m = mgmt then run else finish s1 mRefused
    | some _ => run
/-- The host writes the code and the operands, then the doorbell. While a command runs this is refused. -/
def mailbox (m : W16) (code : W32) (ops : List W64) (s : State) : Out :=
  .next (if !isMaster s m then s
  else if !(isOwner s m || m = mgmt) || s.mbox.status = 0 then s.refuse
  else
    let o := (ops.zipIdx).foldl (fun t e => Store.put 0 t e.2 e.1) ([] : Store W64)
    doorbell { s with mbox := { s.mbox with code := code, ops := o } } m)
/-- The four operands of a 256-bit value. -/
def quads (x : BitVec 256) : List W64 := (List.range 4).map (fun i => x.extractLsb' (64 * i) 64)

def execJobOpen (m : W16) (ctx rootDie rootAddr pfh tvec sscr saveAddr saveLen : W64) (s : State) : Out :=
  mailbox m 0x01 [ctx, rootDie, rootAddr, pfh, tvec, sscr, saveAddr, saveLen] s
def execJobClose (m : W16) (ctx : W64) (s : State) : Out := mailbox m 0x02 [ctx] s
def execFatSet (m : W16) (index addr : W64) (s : State) : Out := mailbox m 0x03 [index, addr] s
def execGroupSet (m : W16) (gid ver addr count : W64) (s : State) : Out := mailbox m 0x04 [gid, ver, addr, count] s
def execKeyLoad (m : W16) (slot addr : W64) (s : State) : Out := mailbox m 0x05 [slot, addr] s
def execFaultrec (m : W16) (handle addr : W64) (s : State) : Out := mailbox m 0x06 [handle, addr] s
def execImages (m : W16) (ctx addr count : W64) (s : State) : Out := mailbox m 0x07 [ctx, addr, count] s
def execImageFree (m : W16) (ctx addr : W64) (s : State) : Out := mailbox m 0x08 [ctx, addr] s
def execFwStage (m : W16) (addr len : W64) (s : State) : Out := mailbox m 0x10 [addr, len] s
def execFwCommit (m : W16) (s : State) : Out := mailbox m 0x11 [] s
def execFwAbort (m : W16) (s : State) : Out := mailbox m 0x12 [] s
def execHeatSet (m : W16) (die heat : W64) (s : State) : Out := mailbox m 0x20 [die, heat] s
def execPartition (m : W16) (pid : W64) (s : State) : Out := mailbox m 0x21 [pid] s
def execForceRelease (m : W16) (s : State) : Out := mailbox m 0x22 [] s
def execScrub (m : W16) (nonce : BitVec 256) (s : State) : Out := mailbox m 0x23 (quads nonce) s
def execRecover (m : W16) (s : State) : Out := mailbox m 0x24 [] s
def execOpkey (m : W16) (hash : BitVec 256) (s : State) : Out := mailbox m 0x25 (quads hash) s
def execCounters (m : W16) (addr ctx : W64) (s : State) : Out := mailbox m 0x26 [addr, ctx] s
def execDieReset (m : W16) (die : W64) (s : State) : Out := mailbox m 0x27 [die] s

/-- MAILBOX_COMMAND_DONE (R248): the result shows; a JOB_CLOSE waits until its job is empty, a COUNTERS until its writes
are accepted. -/
def execMailboxCommandDone (s : State) : Out :=
  let done (s : State) (r : W32) : State :=
    { s with mbox := { s.mbox with status := r, result := none, closing := none } }
  let shown (s : State) : State := match s.mbox.result with
    | some r => done s r
    | none => s
  .next (if s.mbox.status != 0 then s
  else match s.mbox.result with
    | some r => done s r
    | none => match s.mbox.closing with
      | none => match s.mbox.held with
        | none => s
        | some (a, c) => shown (writeCounters a c { s with mbox := { s.mbox with held := none } })
      | some id => match s.job? id with
        | none => done s mOk
        | some j => if jobEmpty s id j then done (removeJob s id j) mOk else s)

/- Registers -/

/-- The mailbox window at 0x0800 (R248); STATUS takes no write. -/
def mailboxWrite (s : State) (m : W16) (off : Nat) (v : W64) : State :=
  if !(isOwner s m || m = mgmt) then s.refuse
  else if off = 0x48 then (if v = 1 then doorbell s m else s)
  else if off = 0 then { s with mbox := { s.mbox with code := v.setWidth 32 } }
  else if off % 8 = 0 && off < 0x48 then { s with mbox := { s.mbox with ops := Store.put 0 s.mbox.ops (off / 8 - 1) v } }
  else s
/-- A read of a register of the mailbox (R248): CODE with STATUS above it, the operands; the doorbell reads 0. -/
def mailboxRead (b : Mailbox) (off : Nat) : W64 :=
  if off = 0 then b.status ++ b.code
  else if off % 8 = 0 && off < 0x48 then Store.get 0 b.ops (off / 8 - 1)
  else 0
/-- What a master reads at a multiple of 8 in BAR0 (R235, R237, R239, R248): write-only registers, reserved fields and
offsets that the manual does not name read as zero (R2, R5). A read changes nothing. -/
def registerRead (s : State) (off : Nat) : W64 :=
  if off = 0x00 then s.own.owner.setWidth 64
  else if off = 0x10 then s.own.nonce
  else if off = 0x30 then s.own.refused.setWidth 64
  else if 0x800 ≤ off && off < 0x850 then mailboxRead s.mbox (off - 0x800)
  else if 0x10000 ≤ off && off < 0x11000 then queueRead (s.hq ((off - 0x10000) / 128)) ((off - 0x10000) % 128)
  else 0
/-- REGISTER_WRITE: an 8-byte write at an offset of BAR0 (R237 to R240, R248). -/
def execRegisterWrite (m : W16) (off : Nat) (v : W64) (s : State) : Out :=
  .next (if !isMaster s m then s
  else if off = 0x08 then claimBy s m v
  else if off = 0x18 then handoverBy s m v
  else if off = 0x20 then commitBy s m (v.setWidth 48)
  else if off = 0x28 then releaseBy s m v
  else if 0x800 ≤ off && off < 0x850 then mailboxWrite s m (off - 0x800) v
  else if 0x10000 ≤ off && off < 0x11000 then queueWrite s m ((off - 0x10000) / 128) ((off - 0x10000) % 128) v
  else s)

end Sys2Proof.Machine
end

