-- ==== Sys2Proof/Machine/MemInstr.lean ====
section
/-! DEFINITION. Scalar and vector loads and stores, atomics, WAITGE and FENCE (R281, R292, R302, R311 to R315,
R347, R354, R184). -/
namespace Sys2Proof.Machine

def execLd (gd : Guard) (d a : GReg) (sz : BitVec 2) (sgn : Bool) (hint : BitVec 4) (off : W32) (s : State) : Out :=
  issue gd s (fun s =>
    let n := sizeOf2 sz
    onRes s (wordOf (.ld gd d a sz sgn hint off)) (scalarAccess s .load (effAddr s.cur a off) n)
      (fun r => result s d (extendTo n (loadLocs s r.1) sgn)))

/-- ST.sys: earlier WC stores first, then its own store, host-visible at once (R185); it is translated behind them
(R171). -/
def execSt (gd : Guard) (d a : GReg) (sz : BitVec 2) (sys : Bool) (off : W32) (s : State) : Out :=
  issue gd s (fun s =>
    let n := sizeOf2 sz
    let addr := effAddr s.cur a off
    let w := wordOf (.st gd d a sz sys off)
    let v := (s.rg d).toNat % 2 ^ (8 * n)
    if sys then
      if isReplica s then trap0 s w cMode
      else
        let s1 := if s.cur.wc.isEmpty then s else s.flush s.cur.cid
        if !s1.cur.wc.isEmpty then stall s1 .stall
        else onRes s1 w (scalarAccess s1 .store addr n) (fun r => advance ((storeLocs s1 addr r.1 r.2 n v).flush s1.cur.cid))
    else onRes s w (scalarAccess s .store addr n) (fun r => advance (storeLocs s addr r.1 r.2 n v)))

/-- A value of `n` bytes as a two's-complement integer. -/
def signedOf (n v : Nat) : Int := if 2 ^ (8 * n - 1) ≤ v then (v : Int) - 2 ^ (8 * n) else v

/-- The new value of R281, of `n` bytes. -/
def amoNew (op : AmoOp) (n old b c : Nat) : Nat :=
  match op with
  | .add => (old + b) % 2 ^ (8 * n)
  | .and => old &&& b
  | .or => old ||| b
  | .xor => old ^^^ b
  | .min => if signedOf n old ≤ signedOf n b then old else b
  | .max => if signedOf n old ≤ signedOf n b then b else old
  | .minu => if old ≤ b then old else b
  | .maxu => if old ≤ b then b else old
  | .xchg => b
  | .badd => if old + b ≤ c then old + b else old

def execAmo (gd : Guard) (d a b c : GReg) (op : AmoOp) (wide : Bool) (s : State) : Out :=
  issue gd s (fun s =>
    let n := wideBytes wide
    let w := wordOf (.amo gd d a b c op wide)
    if isReplica s then trap0 s w cMode
    else onRes s w (scalarAccess s .atomic (s.rg a) n) (fun r =>
      let old := readLocs s r.1
      let new := amoNew op n old ((s.rg b).toNat % 2 ^ (8 * n)) ((s.rg c).toNat % 2 ^ (8 * n))
      result (writeLocs s r.1 new) d (u64 old)))

def execCas (gd : Guard) (d a b c : GReg) (wide : Bool) (s : State) : Out :=
  issue gd s (fun s =>
    let n := wideBytes wide
    let w := wordOf (.cas gd d a b c wide)
    if isReplica s then trap0 s w cMode
    else onRes s w (scalarAccess s .atomic (s.rg a) n) (fun r =>
      let old := readLocs s r.1
      let s1 := if old = (s.rg c).toNat % 2 ^ (8 * n)
        then writeLocs s r.1 ((s.rg b).toNat % 2 ^ (8 * n)) else s
      result s1 d (u64 old)))

/-- R354's comparison of the value read with g[D]. -/
def waitMet (n v : Nat) (sgn : Bool) (t : W64) : Bool :=
  let x := extendTo n v sgn
  if sgn then !x.slt t else !x.ult t

def execWaitge (gd : Guard) (d a : GReg) (sz : BitVec 2) (sgn : Bool) (hint : BitVec 4) (off : W32) (s : State) : Out :=
  issue gd s (fun s =>
    let n := sizeOf2 sz
    onRes s (wordOf (.waitge gd d a sz sgn hint off)) (scalarAccess s .watch (effAddr s.cur a off) n) (fun r =>
      if waitMet n (readLocs s r.1) sgn (s.rg d) then advance s else stall s .quantum))

/-- A waiting WAITGE reads its location again (R354). -/
def execWaitgeRead (cid : Nat) (s : State) : Out :=
  let s1 := s.switchTo cid
  if s1.cur.cid = cid && s1.cur.wait = .quantum && mayIssue s1 then
    match fetchWord s1 with
    | .ok (w, s2) =>
      match decode w with
      | .ok (.waitge gd d a sz sgn hint off) => execWaitge gd d a sz sgn hint off s2
      | _ => .next s
    | _ => .next s
  else .next s

/-- A WC store becomes visible no later than 4 µs after it issues, and may earlier (R174): the context's oldest
held bytes that no link or reset keeps, those of one store, become visible. -/
def execWcVisibilityTimeout (cid : Nat) (s : State) : Out :=
  .next (match s.ctx? cid with
    | none => s
    | some c =>
      let kept := wcKept s c.who c.wc
      match c.wc.find? (fun b => !kept.contains b) with
      | none => s
      | some b => s.flushSome cid (fun x => x.since == b.since))

/-- FENCE (R184, R302): held stores become visible; `.eng` waits for the context's six queues. -/
def execFence (gd : Guard) (wc sys eng ifetch : Bool) (s : State) : Out :=
  issue gd s (fun s =>
    let s1 := if wc || sys then s.flush s.cur.cid else s
    if ((wc || sys) && !s1.cur.wc.isEmpty) || (eng && !allDrained s1 s1.cur) then stall s1 .stall
    else advance (if ifetch then s1.setCur (fun c => { c with icache := [] }) else s1))

/- Vector memory -/

/-- One access of a vector instruction: address and bytes. -/
abbrev Piece := W64 × Nat

/-- One element access of a vector instruction, checked: lane, address, bytes, where they lie. -/
structure VecAcc where
  lane : Nat
  addr : W64
  n    : Nat
  span : List Span
deriving DecidableEq, Repr
def VecAcc.piece (x : VecAcc) : Piece := (x.addr, x.n)
def VecAcc.locs (x : VecAcc) : List Loc := spanLocs x.span

/-- All checks of the accesses in ascending order, before any of them is made (R314, R347). -/
def accessAll (s : State) (op : MemOp) : List Piece → Res (List VecAcc)
  | [] => .ok []
  | p :: t => (spansWith (accessChecks s s.cur.who op) p.1 p.2).bind (fun r =>
      (accessAll s op t).bind (fun rs => .ok (⟨0, p.1, p.2, r⟩ :: rs)))

/-- The naturally aligned 8-byte parts of the accumulator window that an element lies in (R98). -/
def accParts (p : Piece) : List Nat :=
  let a := p.1.toNat
  if accBase ≤ a then [a / 8, (a + (p.2 - 1)) / 8] else []
/-- Up to `n` element reads in order, each translated and ECC met when it is made (R171, R178, R180, R314), and as many
more as lie in an 8-byte part of the accumulator window that has been begun: no ASWAP comes within one (R98). `safe` is
the last point at which no such part was open, where reads that a home holds leave off. -/
def vecReads (s : State) (i : Instr) : List Piece → Nat → VecPart → List Nat → List Nat → Res VecPart
  | [], _, _, vals, _ => .ok ⟨i, [], vals, []⟩
  | x :: t, n, safe, vals, seen =>
    let open' := !seen.isEmpty && (x :: t).any (fun y => (accParts y).any (fun g => seen.contains g))
    let safe1 := if open' then safe else ⟨i, x :: t, vals, []⟩
    if n = 0 && !open' then .ok safe1
    else match spansWith (access s s.cur.who .load) x.1 x.2 with
      | .hold => .ok safe1
      | .fail c a td => .fail c a td
      | .ok sp => vecReads s i t (n - 1) safe1 (vals ++ [loadLocs s (spanLocs sp)]) (accParts x ++ seen)
/-- Element accesses that this step makes. -/
def vecLimit (s : State) (p : VecPart) : Nat := s.vlim.getD p.accs.length
def keepPart (s : State) (p : VecPart) : State := (stall s .stall).setCur (fun c => { c with vec := some p })
def dropPart (s : State) : State := s.setCur (fun c => { c with vec := none })
/-- A vector load goes on; with every element read, `f` takes the values. -/
def goLoad (s : State) (w : W64) (p : VecPart) (f : List Nat → State → State) : State :=
  match vecReads s p.instr p.accs (vecLimit s p) p p.vals [] with
  | .fail c a td => accessFault (dropPart s) w c a td
  | .hold => s
  | .ok q => if q.accs.isEmpty then f q.vals (dropPart s) else keepPart s q
/-- A vector store goes on to its end. -/
def goStore (s : State) (p : VecPart) : State :=
  let r := vecWrites s.cur.who s.cur.cid s.cur.sec (vecLimit s p) s p
  if r.2.accs.isEmpty then advance (dropPart (r.1.eccDone s.cur.cid)) else keepPart r.1 r.2
/-- The bytes of a vector store in global memory, folded granule by granule (R56). -/
def foldPart (s : State) (accs : List VecAcc) (vals : List Nat) : State :=
  if isReplica s then
    s.foldBytes s.cur.uid ((List.zip accs vals).foldl (fun t e =>
      if isGlobal e.1.addr then logBytes t e.1.addr.toNat (leList e.1.n e.2) else t) [])
  else s
/-- The part in progress of this instruction. -/
def partOf? (s : State) (i : Instr) : Option VecPart := s.cur.vec.filter (fun p => p.instr == i)

/-- The accesses of a vector record from its address (R313): elements, then side bytes, the two zero bytes of QC4 and
its super-scale. -/
def recordPieces (t : Tag) (a : W64) : List Piece :=
  let elems (n bytes : Nat) : List Piece := (List.range n).map (fun i => (a + u64 (i * bytes), bytes))
  let at' (o n : Nat) : Piece := (a + u64 o, n)
  match t with
  | .bf16 => elems 128 2
  | .fp16 => elems 128 2
  | .e4m3 => elems 128 1
  | .e5m2 => elems 128 1
  | .ob8 => elems 128 1 ++ [at' 128 1, at' 129 1]
  | .ob4 => elems 64 1 ++ [at' 64 1, at' 65 1]
  | .e2m1 => elems 64 1 ++ [at' 64 1, at' 65 1]
  | .qc4 => elems 64 1 ++ [at' 64 1, at' 65 1, at' 66 1, at' 67 1, at' 68 4]
  | _ => elems 128 4
/-- Those that LDV reads: not the zero bytes (R314). -/
def recordReads {α : Type} (t : Tag) (l : List α) : List α := if t = .qc4 then l.take 66 ++ l.drop 68 else l

/-- A register from the values that LDV read of its record, in order. -/
def recordReg (t : Tag) (vs : List Nat) : VReg :=
  let v (i : Nat) : Nat := (vs[i]?).getD 0
  let nib (i : Nat) : W32 := u32 (v (i / 2) / 16 ^ (i % 2) % 16)
  let z (a b : Nat) : W16 × W16 := (BitVec.ofNat 16 a, BitVec.ofNat 16 b)
  match t with
  | .ob8 => ⟨lanesOf (fun i => u32 (v i)), t, (z (v 128) 0).1, (z (v 129) 0).1, 0⟩
  | .ob4 => ⟨lanesOf nib, t, (z (v 64) 0).1, (z (v 65) 0).1, 0⟩
  | .e2m1 => ⟨lanesOf nib, t, (z (256 * v 64) 0).1, (z (256 * v 65) 0).1, 0⟩
  | .qc4 => ⟨lanesOf nib, t, (z (256 * v 64) 0).1, (z (256 * v 65) 0).1, u32 (v 66)⟩
  | _ => plainReg t (lanesOf (fun i => u32 (v i)))

/-- The values of a record's accesses for a register of its tag. -/
def recordVals (r : VReg) : List Nat :=
  let l (i : Nat) : Nat := (r.lane i).toNat
  let full := (List.range 128).map l
  let packed := (List.range 64).map (fun j => l (2 * j) % 16 + 16 * (l (2 * j + 1) % 16))
  match r.tag with
  | .ob8 => full ++ [sideZero r.side0, sideZero r.side1]
  | .ob4 => packed ++ [sideZero r.side0, sideZero r.side1]
  | .e2m1 => packed ++ [sideScale r.side0, sideScale r.side1]
  | .qc4 => packed ++ [sideScale r.side0, sideScale r.side1, 0, 0, r.sup.toNat]
  | _ => full

/-- Bytes of a record (R313). -/
def vecBytes (t : Tag) : Nat :=
  match t with
  | .bf16 => 256
  | .fp16 => 256
  | .e4m3 => 128
  | .e5m2 => 128
  | .ob8 => 130
  | .ob4 => 66
  | .e2m1 => 66
  | .qc4 => 72
  | _ => 512

/-- Every check of a record: it lies in one window (R164, assumption 33), then its accesses one by one. -/
def accessRecord (s : State) (op : MemOp) (t : Tag) (a : W64) : Res (List VecAcc) :=
  if winOfRange s s.cur.who a (vecBytes t) = .none then .fail cWindow a op.kind.code
  else accessAll s op (recordPieces t a)

/-- Alignment of a vector record: its element size, a byte for 4-bit elements (R165). -/
def alignUnit (t : Tag) : Nat := max 1 (elemBytes t)

/-- LDV with every element read (R148, R314). -/
def endLdv (w : W64) (d : VNum) (tag : Tag) (vals : List Nat) (s : State) : State :=
  let r := recordReg tag vals
  if badZero r then trap s w cTag 0 (tagData tag) else advance (s.setCur (·.wv d r))
def execLdv (gd : Guard) (d : VNum) (a : GReg) (tag : Tag) (hint : BitVec 4) (off : W32) (s : State) : Out :=
  issue gd s (fun s =>
    let i : Instr := .ldv gd d a tag hint off
    let w := wordOf i
    let addr := effAddr s.cur a off
    match partOf? s i with
    | some p => goLoad s w p (endLdv w d tag)
    | none =>
      if addr.toNat % alignUnit tag != 0 then trap s w cAlign addr 0
      else onRes s w (accessRecord s .load tag addr) (fun rs =>
        goLoad s w ⟨i, recordReads tag (rs.map VecAcc.piece), [], []⟩ (endLdv w d tag)))

def execStv (gd : Guard) (d : VNum) (a : GReg) (tag : Tag) (off : W32) (s : State) : Out :=
  issue gd s (fun s =>
    let i : Instr := .stv gd d a tag off
    let w := wordOf i
    let addr := effAddr s.cur a off
    let r := s.cur.rv d
    match partOf? s i with
    | some p => goStore s p
    | none =>
      if addr.toNat % alignUnit tag != 0 then trap s w cAlign addr 1
      else onRes s w (accessRecord s .store tag addr) (fun rs =>
        let vals := recordVals r
        if r.tag != tag then trap s w cTag 0 (tagData r.tag)
        else goStore (foldPart s rs vals) ⟨i, rs.map VecAcc.piece, vals, rs.map (·.span)⟩))

/-- Addresses of the selected lanes in ascending order (R347). -/
def laneAddrs (c : Ctx) (a : GReg) (idx : VReg) (n : Nat) (mk : Option MNum) : List (Nat × W64) :=
  ((List.range 128).filter (laneOn c mk)).map (fun i =>
    let x : W64 := if idx.tag = .i32 then (idx.lane i).signExtend 64 else (idx.lane i).zeroExtend 64
    (i, c.rg a + x * u64 n))

/-- The checks of the lanes in ascending order, alignment first for each. -/
def accessLanes (s : State) (op : MemOp) (n : Nat) : List (Nat × W64) → Res (List VecAcc)
  | [] => .ok []
  | (i, a) :: t =>
    if a.toNat % n != 0 then .fail cAlign a op.kind.code
    else (spansWith (accessChecks s s.cur.who op) a n).bind (fun r =>
      (accessLanes s op n t).bind (fun rs => .ok (⟨i, a, n, r⟩ :: rs)))

/-- VLDX with every selected element read (R347). -/
def endVldx (d : VNum) (fmt : Tag) (mk : Option MNum) (vals : List Nat) (s : State) : State :=
  let lanes := (List.range 128).filter (laneOn s.cur mk)
  let got : Store W32 := (List.zip lanes vals).map (fun e => (e.1, u32 e.2))
  advance (s.setCur (·.wv d (plainReg fmt (mergeLanes s.cur mk (s.cur.rv d) (fun i => Store.get 0 got i)))))
def execVldx (gd : Guard) (d : VNum) (a : GReg) (b : VNum) (fmt : Tag) (mk : Option MNum) (s : State) : Out :=
  issue gd s (fun s =>
    let i : Instr := .vldx gd d a b fmt mk
    let w := wordOf i
    let idx := s.cur.rv b
    let old := s.cur.rv d
    match partOf? s i with
    | some p => goLoad s w p (endVldx d fmt mk)
    | none =>
      if !isInt idx.tag then trap s w cTag 0 (tagData idx.tag)
      else if !maskTagOk old mk fmt then trap s w cTag 0 (tagData old.tag)
      else onRes s w (accessLanes s .load (elemBytes fmt) (laneAddrs s.cur a idx (elemBytes fmt) mk)) (fun rs =>
        goLoad s w ⟨i, rs.map VecAcc.piece, [], []⟩ (endVldx d fmt mk)))

def execVstx (gd : Guard) (d : VNum) (a : GReg) (b : VNum) (fmt : Tag) (mk : Option MNum) (s : State) : Out :=
  issue gd s (fun s =>
    let i : Instr := .vstx gd d a b fmt mk
    let w := wordOf i
    let idx := s.cur.rv b
    let r := s.cur.rv d
    let n := elemBytes fmt
    match partOf? s i with
    | some p => goStore s p
    | none =>
      if !isInt idx.tag then trap s w cTag 0 (tagData idx.tag)
      else if r.tag != fmt then trap s w cTag 0 (tagData r.tag)
      else onRes s w (accessLanes s .store n (laneAddrs s.cur a idx n mk)) (fun rs =>
        let vals := rs.map (fun x => (r.lane x.lane).toNat % 2 ^ (8 * n))
        goStore (foldPart s rs vals) ⟨i, rs.map VecAcc.piece, vals, rs.map (·.span)⟩))

end Sys2Proof.Machine
end

