-- ==== Sys2Proof/Machine/Scalar.lean ====
section
/-! DEFINITION. Scalar integer arithmetic, logic, shifts, extrema, extension, selection and immediates (R277,
R278, R294, R296, R301, R316, R318, R324 to R327, R330 to R332, R335, R361). -/
namespace Sys2Proof.Machine

/-- A result of two registers. -/
def alu2 (gd : Guard) (d a b : GReg) (s : State) (f : W64 → W64 → W64) : Out :=
  issue gd s (fun s => result s d (f (s.rg a) (s.rg b)))
/-- A result of one register. -/
def alu1 (gd : Guard) (d a : GReg) (s : State) (f : W64 → W64) : Out :=
  issue gd s (fun s => result s d (f (s.rg a)))

def execAdd (gd : Guard) (d a b : GReg) (s : State) : Out := alu2 gd d a b s (fun x y => x + y)
def execSub (gd : Guard) (d a b : GReg) (s : State) : Out := alu2 gd d a b s (fun x y => x - y)
def execAnd (gd : Guard) (d a b : GReg) (s : State) : Out := alu2 gd d a b s (fun x y => x &&& y)
def execAndn (gd : Guard) (d a b : GReg) (s : State) : Out := alu2 gd d a b s (fun x y => x &&& ~~~y)
def execOr (gd : Guard) (d a b : GReg) (s : State) : Out := alu2 gd d a b s (fun x y => x ||| y)
def execXor (gd : Guard) (d a b : GReg) (s : State) : Out := alu2 gd d a b s (fun x y => x ^^^ y)
def execAddi (gd : Guard) (d a : GReg) (imm : W32) (s : State) : Out := alu1 gd d a s (fun x => x + sx imm)
def execAndi (gd : Guard) (d a : GReg) (imm : W32) (s : State) : Out := alu1 gd d a s (fun x => x &&& sx imm)
def execOri (gd : Guard) (d a : GReg) (imm : W32) (s : State) : Out := alu1 gd d a s (fun x => x ||| sx imm)
def execXori (gd : Guard) (d a : GReg) (imm : W32) (s : State) : Out := alu1 gd d a s (fun x => x ^^^ sx imm)

/-- Low and high halves of the 128-bit product (R324). -/
def execMul (gd : Guard) (d a b : GReg) (s : State) : Out := alu2 gd d a b s (fun x y => x * y)
def execMulh (gd : Guard) (d a b : GReg) (s : State) : Out :=
  alu2 gd d a b s (fun x y => BitVec.ofInt 64 (x.toInt * y.toInt / 2 ^ 64))
def execMulhu (gd : Guard) (d a b : GReg) (s : State) : Out :=
  alu2 gd d a b s (fun x y => u64 (x.toNat * y.toNat / 2 ^ 64))

/-- Quotients and remainders of R159, R296, R330. -/
def divS (a b : W64) : W64 :=
  if b = 0 then BitVec.allOnes 64 else BitVec.ofInt 64 (Int.tdiv a.toInt b.toInt)
def divU (a b : W64) : W64 := if b = 0 then BitVec.allOnes 64 else u64 (a.toNat / b.toNat)
def remS (a b : W64) : W64 := if b = 0 then a else BitVec.ofInt 64 (Int.tmod a.toInt b.toInt)
def remU (a b : W64) : W64 := if b = 0 then a else u64 (a.toNat % b.toNat)
/-- A division's result with IDZ (R159). -/
def division (gd : Guard) (d a b : GReg) (s : State) (f : W64 → W64 → W64) : Out :=
  issue gd s (fun s => result (setFlags s (divFlag (s.rg b))) d (f (s.rg a) (s.rg b)))
def execDiv (gd : Guard) (d a b : GReg) (s : State) : Out := division gd d a b s divS
def execDivu (gd : Guard) (d a b : GReg) (s : State) : Out := division gd d a b s divU
def execRem (gd : Guard) (d a b : GReg) (s : State) : Out := division gd d a b s remS
def execRemu (gd : Guard) (d a b : GReg) (s : State) : Out := division gd d a b s remU

def execMax (gd : Guard) (d a b : GReg) (s : State) : Out := alu2 gd d a b s (fun x y => if x.slt y then y else x)
def execMaxu (gd : Guard) (d a b : GReg) (s : State) : Out := alu2 gd d a b s (fun x y => if x.ult y then y else x)
def execMin (gd : Guard) (d a b : GReg) (s : State) : Out := alu2 gd d a b s (fun x y => if x.slt y then x else y)
def execMinu (gd : Guard) (d a b : GReg) (s : State) : Out := alu2 gd d a b s (fun x y => if x.ult y then x else y)

/-- Zero bits above the most significant set bit among the low `n` bits. -/
def leadingZeros (x : W64) : Nat → Nat
  | 0 => 0
  | n + 1 => if x.getLsbD n then 0 else 1 + leadingZeros x n
def onesBelow (x : W64) : Nat → Nat
  | 0 => 0
  | n + 1 => (if x.getLsbD n then 1 else 0) + onesBelow x n
def execClz (gd : Guard) (d a : GReg) (s : State) : Out := alu1 gd d a s (fun x => u64 (leadingZeros x 64))
def execPopc (gd : Guard) (d a : GReg) (s : State) : Out := alu1 gd d a s (fun x => u64 (onesBelow x 64))

def extBytes : ExtW → Nat
  | .b => 1
  | .h => 2
  | .w => 4
def execExt (gd : Guard) (d a : GReg) (width : ExtW) (sgn : Bool) (s : State) : Out :=
  alu1 gd d a s (fun x => extendTo (extBytes width) x.toNat sgn)

def execSel (gd : Guard) (d a b : GReg) (c : PNum) (s : State) : Out :=
  issue gd s (fun s => result s d (if s.cur.rp c then s.rg a else s.rg b))

/-- The count is the low six bits (R332). -/
def execShl (gd : Guard) (d a b : GReg) (s : State) : Out := alu2 gd d a b s (fun x y => x <<< (y.toNat % 64))
def execShr (gd : Guard) (d a b : GReg) (s : State) : Out := alu2 gd d a b s (fun x y => x >>> (y.toNat % 64))
def execShra (gd : Guard) (d a b : GReg) (s : State) : Out := alu2 gd d a b s (fun x y => x.sshiftRight (y.toNat % 64))
def execShli (gd : Guard) (d a : GReg) (sh : BitVec 6) (s : State) : Out := alu1 gd d a s (fun x => x <<< sh.toNat)
def execShri (gd : Guard) (d a : GReg) (sh : BitVec 6) (s : State) : Out := alu1 gd d a s (fun x => x >>> sh.toNat)
def execShrai (gd : Guard) (d a : GReg) (sh : BitVec 6) (s : State) : Out :=
  alu1 gd d a s (fun x => x.sshiftRight sh.toNat)

def execLi (gd : Guard) (d : GReg) (imm : W32) (s : State) : Out := issue gd s (fun s => result s d (sx imm))
/-- IMM32 << 32 OR g[A][31:0] (R316). -/
def execLih (gd : Guard) (d a : GReg) (imm : W32) (s : State) : Out :=
  alu1 gd d a s (fun x => imm ++ x.extractLsb' 0 32)

end Sys2Proof.Machine
end

