-- ==== Sys2Proof/Machine/Vector.lean ====
section
/-! DEFINITION. The vector unit (R341 to R346, R348 to R353, R158 to R160). -/
namespace Sys2Proof.Machine

/-- The first register, in source order, whose tag a check refuses (R150). -/
def badTag (ok : Tag → Bool) : List VReg → Option Tag
  | [] => none
  | v :: t => if ok v.tag then badTag ok t else some v.tag
/-- The first tag that differs from the first source's. -/
def unlike : List VReg → Option Tag
  | [] => none
  | v :: t => (t.find? (fun w => w.tag != v.tag)).map (·.tag)

/-- Lanes of a computation with the OR of the selected lanes' flags (R158, R263). -/
def laneFlags (c : Ctx) (mk : Option MNum) (f : Nat → Nat × BitVec 8) : BitVec 8 :=
  (List.range 128).foldl (fun acc i => if laneOn c mk i then acc ||| (f i).2 else acc) 0

/-- A lane operation that writes a register of a tag without side fields (R149, R263). -/
def writeLanes (s : State) (d : VNum) (mk : Option MNum) (t : Tag) (f : Nat → Nat × BitVec 8) : State :=
  let c := s.cur
  let lanes := mergeLanes c mk (c.rv d) (fun i => u32 (f i).1)
  advance ((setFlags s (laneFlags c mk f)).setCur (·.wv d (plainReg t lanes)))

/-- The checks and the write that every floating lane operation shares (R341). -/
def floatOp (s : State) (w : W64) (d : VNum) (srcs : List VNum) (fmt : Tag) (mk : Option MNum)
    (f : Nat → Nat × BitVec 8) : State :=
  let vs := srcs.map s.cur.rv
  match badTag Tag.isFloat vs, unlike vs with
  | some t, _ => trap s w cTag 0 (tagData t)
  | none, some t => trap s w cTag 0 (tagData t)
  | none, none =>
    if maskTagOk (s.cur.rv d) mk fmt then writeLanes s d mk fmt f
    else trap s w cTag 0 (tagData (s.cur.rv d).tag)

/-- A lane result of an exact operation, rounded once. -/
def rounded (c : Ctx) (fmt : Tag) (rm : Rm) (sat : Bool) (g : Nat → Val × BitVec 8) (i : Nat) : Nat × BitVec 8 :=
  roundResult fmt (effRm c rm) sat (g i) false

def execVadd (gd : Guard) (d a b : VNum) (fmt : Tag) (rm : Rm) (sat : Bool) (mk : Option MNum) (s : State) : Out :=
  issue gd s (fun s =>
    let c := s.cur
    floatOp s (wordOf (.vadd gd d a b fmt rm sat mk)) d [a, b] fmt mk
      (rounded c fmt rm sat (fun i => addVal (effRm c rm = .rdn) ((c.rv a).val i) ((c.rv b).val i))))
def execVsub (gd : Guard) (d a b : VNum) (fmt : Tag) (rm : Rm) (sat : Bool) (mk : Option MNum) (s : State) : Out :=
  issue gd s (fun s =>
    let c := s.cur
    floatOp s (wordOf (.vsub gd d a b fmt rm sat mk)) d [a, b] fmt mk
      (rounded c fmt rm sat (fun i => addVal (effRm c rm = .rdn) ((c.rv a).val i) ((c.rv b).val i).neg)))
def execVmul (gd : Guard) (d a b : VNum) (fmt : Tag) (rm : Rm) (sat : Bool) (mk : Option MNum) (s : State) : Out :=
  issue gd s (fun s =>
    let c := s.cur
    floatOp s (wordOf (.vmul gd d a b fmt rm sat mk)) d [a, b] fmt mk
      (rounded c fmt rm sat (fun i => mulVal ((c.rv a).val i) ((c.rv b).val i))))
/-- a × b + c with one rounding; an invalid product or a signalling operand sets NV (R341). -/
def fmaVal (rdn : Bool) (x y z : Val) : Val × BitVec 8 :=
  let p := mulVal x y
  let r := addVal rdn p.1 z
  (r.1, p.2 ||| r.2)
def execVfma (gd : Guard) (d a b c : VNum) (fmt : Tag) (rm : Rm) (sat : Bool) (mk : Option MNum) (s : State) : Out :=
  issue gd s (fun s =>
    let x := s.cur
    floatOp s (wordOf (.vfma gd d a b c fmt rm sat mk)) d [a, b, c] fmt mk
      (rounded x fmt rm sat (fun i =>
        fmaVal (effRm x rm = .rdn) ((x.rv a).val i) ((x.rv b).val i) ((x.rv c).val i))))
def execVmin (gd : Guard) (d a b : VNum) (fmt : Tag) (rm : Rm) (sat : Bool) (mk : Option MNum) (s : State) : Out :=
  issue gd s (fun s =>
    let c := s.cur
    floatOp s (wordOf (.vmin gd d a b fmt rm sat mk)) d [a, b] fmt mk
      (rounded c fmt rm sat (fun i => pickNum false ((c.rv a).val i) ((c.rv b).val i))))
def execVmax (gd : Guard) (d a b : VNum) (fmt : Tag) (rm : Rm) (sat : Bool) (mk : Option MNum) (s : State) : Out :=
  issue gd s (fun s =>
    let c := s.cur
    floatOp s (wordOf (.vmax gd d a b fmt rm sat mk)) d [a, b] fmt mk
      (rounded c fmt rm sat (fun i => pickNum true ((c.rv a).val i) ((c.rv b).val i))))
def execVabs (gd : Guard) (d a : VNum) (fmt : Tag) (rm : Rm) (sat : Bool) (mk : Option MNum) (s : State) : Out :=
  issue gd s (fun s =>
    let c := s.cur
    floatOp s (wordOf (.vabs gd d a fmt rm sat mk)) d [a] fmt mk
      (rounded c fmt rm sat (fun i => (absVal ((c.rv a).val i), nvIf ((c.rv a).val i).isSig))))
def execVneg (gd : Guard) (d a : VNum) (fmt : Tag) (rm : Rm) (sat : Bool) (mk : Option MNum) (s : State) : Out :=
  issue gd s (fun s =>
    let c := s.cur
    floatOp s (wordOf (.vneg gd d a fmt rm sat mk)) d [a] fmt mk
      (rounded c fmt rm sat (fun i => (((c.rv a).val i).neg, nvIf ((c.rv a).val i).isSig))))

/-- One of the four functions, lane by lane. -/
def funcLane (c : Ctx) (f : Val → FRes) (a : VNum) (fmt : Tag) (rm : Rm) (sat : Bool) (i : Nat) : Nat × BitVec 8 :=
  roundF fmt (effRm c rm) sat (f ((c.rv a).val i))
def execVrcp (gd : Guard) (d a : VNum) (fmt : Tag) (rm : Rm) (sat : Bool) (mk : Option MNum) (s : State) : Out :=
  issue gd s (fun s => floatOp s (wordOf (.vrcp gd d a fmt rm sat mk)) d [a] fmt mk
    (funcLane s.cur rcpVal a fmt rm sat))
def execVrsq (gd : Guard) (d a : VNum) (fmt : Tag) (rm : Rm) (sat : Bool) (mk : Option MNum) (s : State) : Out :=
  issue gd s (fun s => floatOp s (wordOf (.vrsq gd d a fmt rm sat mk)) d [a] fmt mk
    (funcLane s.cur rsqVal a fmt rm sat))
def execVexp (gd : Guard) (d a : VNum) (fmt : Tag) (rm : Rm) (sat : Bool) (mk : Option MNum) (s : State) : Out :=
  issue gd s (fun s => floatOp s (wordOf (.vexp gd d a fmt rm sat mk)) d [a] fmt mk
    (funcLane s.cur expVal a fmt rm sat))
def execVlog (gd : Guard) (d a : VNum) (fmt : Tag) (rm : Rm) (sat : Bool) (mk : Option MNum) (s : State) : Out :=
  issue gd s (fun s => floatOp s (wordOf (.vlog gd d a fmt rm sat mk)) d [a] fmt mk
    (funcLane s.cur logVal a fmt rm sat))

/-- Integer lane operations (R343): one integer tag, which the destination takes. -/
def intOp (s : State) (w : W64) (d a b : VNum) (mk : Option MNum) (f : W32 → W32 → W32) : State :=
  let x := s.cur.rv a
  let y := s.cur.rv b
  match badTag isInt [x, y], unlike [x, y] with
  | some t, _ => trap s w cTag 0 (tagData t)
  | none, some t => trap s w cTag 0 (tagData t)
  | none, none =>
    if maskTagOk (s.cur.rv d) mk x.tag then
      writeLanes s d mk x.tag (fun i => ((f (x.lane i) (y.lane i)).toNat, 0))
    else trap s w cTag 0 (tagData (s.cur.rv d).tag)
def execViadd (gd : Guard) (d a b : VNum) (mk : Option MNum) (s : State) : Out :=
  issue gd s (fun s => intOp s (wordOf (.viadd gd d a b mk)) d a b mk (fun x y => x + y))
def execVisub (gd : Guard) (d a b : VNum) (mk : Option MNum) (s : State) : Out :=
  issue gd s (fun s => intOp s (wordOf (.visub gd d a b mk)) d a b mk (fun x y => x - y))
def execVimul (gd : Guard) (d a b : VNum) (mk : Option MNum) (s : State) : Out :=
  issue gd s (fun s => intOp s (wordOf (.vimul gd d a b mk)) d a b mk (fun x y => x * y))
def execVand (gd : Guard) (d a b : VNum) (mk : Option MNum) (s : State) : Out :=
  issue gd s (fun s => intOp s (wordOf (.vand gd d a b mk)) d a b mk (fun x y => x &&& y))
def execVor (gd : Guard) (d a b : VNum) (mk : Option MNum) (s : State) : Out :=
  issue gd s (fun s => intOp s (wordOf (.vor gd d a b mk)) d a b mk (fun x y => x ||| y))
def execVxor (gd : Guard) (d a b : VNum) (mk : Option MNum) (s : State) : Out :=
  issue gd s (fun s => intOp s (wordOf (.vxor gd d a b mk)) d a b mk (fun x y => x ^^^ y))
/-- Shift counts are the low five bits of the lane. -/
def execVshl (gd : Guard) (d a b : VNum) (mk : Option MNum) (s : State) : Out :=
  issue gd s (fun s => intOp s (wordOf (.vshl gd d a b mk)) d a b mk (fun x y => x <<< (y.toNat % 32)))
def execVshr (gd : Guard) (d a b : VNum) (mk : Option MNum) (s : State) : Out :=
  issue gd s (fun s => intOp s (wordOf (.vshr gd d a b mk)) d a b mk (fun x y => x >>> (y.toNat % 32)))
def execVshra (gd : Guard) (d a b : VNum) (mk : Option MNum) (s : State) : Out :=
  issue gd s (fun s => intOp s (wordOf (.vshra gd d a b mk)) d a b mk (fun x y => x.sshiftRight (y.toNat % 32)))

def execVcvt (gd : Guard) (d a : VNum) (fmt : Tag) (rm : Rm) (sat : Bool) (mk : Option MNum) (s : State) : Out :=
  issue gd s (fun s =>
    let c := s.cur
    let w := wordOf (.vcvt gd d a fmt rm sat mk)
    if (c.rv a).tag = .invalid || badZero (c.rv a) then trap s w cTag 0 (tagData (c.rv a).tag)
    else if maskTagOk (c.rv d) mk fmt then
      writeLanes s d mk fmt (fun i => convert fmt (effRm c rm) sat ((c.rv a).val i))
    else trap s w cTag 0 (tagData (c.rv d).tag))

/-- Comparison of two lane values and NV (R345). -/
def cmpFloat (k : VCond) (x y : Val) : Bool × BitVec 8 :=
  let un := x.isNan || y.isNan
  let sig := nvIf (x.isSig || y.isSig)
  match k with
  | .eq => (eqVal x y, sig)
  | .ne => (!eqVal x y, sig)
  | .unord => (un, sig)
  | .lt => (!un && ltVal x y, nvIf un)
  | .le => (!un && !ltVal y x, nvIf un)
  | .gt => (!un && ltVal y x, nvIf un)
  | .ge => (!un && !ltVal x y, nvIf un)
def execVcmp (gd : Guard) (d : MNum) (a b : VNum) (cond : VCond) (s : State) : Out :=
  issue gd s (fun s =>
    let x := s.cur.rv a
    let y := s.cur.rv b
    let w := wordOf (.vcmp gd d a b cond)
    match badTag (fun t => t.isFloat || isInt t) [x, y], unlike [x, y] with
    | some t, _ => trap s w cTag 0 (tagData t)
    | none, some t => trap s w cTag 0 (tagData t)
    | none, none =>
      let r (i : Nat) := cmpFloat cond (x.val i) (y.val i)
      let m := (List.range 128).foldl (fun acc i => if (r i).1 then acc + 2 ^ i else acc) 0
      let fl := (List.range 128).foldl (fun acc i => acc ||| (r i).2) 0
      advance ((setFlags s fl).setCur (·.wm d (BitVec.ofNat 128 m))))

def sameSides (x y : VReg) : Bool := x.side0 == y.side0 && x.side1 == y.side1 && x.sup == y.sup
def execVsel (gd : Guard) (d a b : VNum) (c : MNum) (s : State) : Out :=
  issue gd s (fun s =>
    let x := s.cur.rv a
    let y := s.cur.rv b
    let w := wordOf (.vsel gd d a b c)
    if x.tag = .invalid then trap s w cTag 0 (tagData x.tag)
    else if y.tag != x.tag || (x.tag.isQuant && !sameSides x y) then trap s w cTag 0 (tagData y.tag)
    else
      let m := s.cur.rm c
      advance (s.setCur (·.wv d { x with lanes := lanesOf (fun i => if m.getLsbD i then x.lane i else y.lane i) })))

/-- The tree of R160: adjacent pairs, level by level. -/
def treePairs {α : Type} (f : α → α → α) : List α → List α
  | a :: b :: t => f a b :: treePairs f t
  | l => l
def treeFold {α : Type} (f : α → α → α) : Nat → List α → List α
  | 0, l => l
  | n + 1, l => treeFold f n (treePairs f l)

/-- One addition of a SUM, rounded to FP32, with its flags. -/
def redAdd (rm : Rm) (x y : Val × BitVec 8) : Val × BitVec 8 :=
  let r := addVal (rm = .rdn) x.1 y.1
  let c := roundResult .fp32 rm false r false
  (decodeFloat .fp32 c.1, x.2 ||| y.2 ||| c.2)
def redPick (mx : Bool) (x y : Val × BitVec 8) : Val × BitVec 8 :=
  let r := pickNum mx x.1 y.1
  (r.1, x.2 ||| y.2 ||| r.2)
def redInt (op : RedOp) (sgn : Bool) (x y : W32) : W32 :=
  let lt := if sgn then x.slt y else x.ult y
  match op with
  | .sum => x + y
  | .max => if lt then y else x
  | .min => if lt then x else y
def execVred (gd : Guard) (d : GReg) (a : VNum) (op : RedOp) (rm : Rm) (s : State) : Out :=
  issue gd s (fun s =>
    let c := s.cur
    let x := c.rv a
    let rm' := effRm c rm
    if isInt x.tag then
      let sgn := x.tag == .i32
      let r := (treeFold (redInt op sgn) 7 ((List.range 128).map x.lane)).headD 0
      result s d (if sgn then r.signExtend 64 else r.zeroExtend 64)
    else if x.tag.isFloat then
      let f := match op with
        | .sum => redAdd rm'
        | .max => redPick true
        | .min => redPick false
      let r := (treeFold f 7 ((List.range 128).map (fun i => (x.val i, 0#8)))).headD (Val.zero false, 0)
      result (setFlags s r.2) d (u64 (roundResult .fp32 rm' false (r.1, 0) false).1)
    else trap s (wordOf (.vred gd d a op rm)) cTag 0 (tagData x.tag))

def execVperm (gd : Guard) (d a b : VNum) (mk : Option MNum) (s : State) : Out :=
  issue gd s (fun s =>
    let c := s.cur
    let x := c.rv a
    let y := c.rv b
    let w := wordOf (.vperm gd d a b mk)
    let j (i : Nat) : Nat := (y.lane i).toNat % 128
    if x.tag = .invalid then trap s w cTag 0 (tagData x.tag)
    else if !isInt y.tag then trap s w cTag 0 (tagData y.tag)
    else if !maskTagOk (c.rv d) mk x.tag then trap s w cTag 0 (tagData (c.rv d).tag)
    else if x.tag.isQuant && (List.range 128).any (fun i => laneOn c mk i && j i / 64 != i / 64) then
      trap s w cTag 0 (tagData x.tag)
    else advance (s.setCur (·.wv d { x with lanes := mergeLanes c mk (c.rv d) (fun i => x.lane (j i)) })))

def execVbc (gd : Guard) (d : VNum) (a : GReg) (fmt : Tag) (mk : Option MNum) (s : State) : Out :=
  issue gd s (fun s =>
    if maskTagOk (s.cur.rv d) mk fmt then
      writeLanes s d mk fmt (fun _ => ((s.rg a).toNat % 2 ^ elemBits fmt, 0))
    else trap s (wordOf (.vbc gd d a fmt mk)) cTag 0 (tagData (s.cur.rv d).tag))

def execVxtr (gd : Guard) (d : GReg) (a : VNum) (b : GReg) (s : State) : Out :=
  issue gd s (fun s =>
    let x := s.cur.rv a
    if x.tag = .invalid then trap s (wordOf (.vxtr gd d a b)) cTag 0 0x0F
    else result s d ((x.lane ((s.rg b).toNat % 128)).zeroExtend 64))

/-- Side fields that a tag does not use are 0 (R149). -/
def cutSides (t : Tag) (x : VReg) : VReg :=
  let keepScale := t == .e2m1 || t == .qc4
  let keepZero := t == .ob8 || t == .ob4
  let side (v : W16) : W16 := if keepScale then v &&& 0xFF00 else if keepZero then v &&& 0x00FF else 0
  { x with tag := t, side0 := side x.side0, side1 := side x.side1, sup := if t = .qc4 then x.sup else 0 }
def execVtag (gd : Guard) (d a : VNum) (fmt : Tag) (s : State) : Out :=
  issue gd s (fun s =>
    let x := s.cur.rv a
    if x.tag = .invalid then trap s (wordOf (.vtag gd d a fmt)) cTag 0 0x0F
    else
      let lanes := lanesOf (fun i => u32 ((x.lane i).toNat % 2 ^ elemBits fmt))
      advance (s.setCur (·.wv d (cutSides fmt { x with lanes := lanes }))))
def execVtagRead (gd : Guard) (d : GReg) (a : VNum) (s : State) : Out :=
  issue gd s (fun s =>
    let x := s.cur.rv a
    if x.tag = .invalid then trap s (wordOf (.vtagRead gd d a)) cTag 0 0x0F
    else result s d (u64 (x.tag.bits.toNat + 2 ^ 8 * x.side0.toNat + 2 ^ 24 * x.side1.toNat)))

/- VQNT (R349) -/

/-- The values of a half's finite lanes. -/
def halfVals (x : VReg) (h : Nat) : List Val := (List.range 64).map (fun i => x.val (64 * h + i))
def isFin : Val → Bool
  | .fin _ _ _ => true
  | _ => false
def amaxOf (vs : List Val) : Val :=
  (vs.filter isFin).foldl (fun m v => if ltVal m (absVal v) then absVal v else m) (Val.zero false)
def roundedInt (rm : Rm) : Val → Int
  | .fin n m e => (roundToInt rm n m e).1
  | _ => 0
/-- z of a half for OB8 and OB4. -/
def chooseZero (zmax : Nat) (rm : Rm) (vs : List Val) : Nat :=
  let m := (vs.filter isFin).foldl (fun acc v => min acc (roundedInt rm v)) 0
  min zmax (-m).toNat
/-- E of a half for E2M1. -/
def chooseE (vs : List Val) : Nat :=
  if vs.any (fun v => !isFin v) then 255
  else match amaxOf vs with
    | .fin _ m e => if m = 0 then 127 else (min 254 (max 0 (e + (Nat.log2 m : Int) - 2 + 127))).toNat
    | _ => 255
/-- s of a half for QC4: clamp(ceil(256 × amax / F) − 1, 0, 255), with F exact. -/
def chooseS (f am : Val) : Nat :=
  match f, am with
  | .fin _ fm fe, .fin _ m e =>
    let q := min fe e
    let num := 256 * (scaleTo false m e q).toNat
    let den := (scaleTo false fm fe q).toNat
    if den = 0 then 0 else min 255 ((num + den - 1) / den - 1)
  | _, _ => 0
/-- Side fields that an unmasked VQNT chooses: side 0, side 1, super-scale. -/
def chooseSides (t : Tag) (rm : Rm) (x : VReg) : W16 × W16 × W32 :=
  let h0 := halfVals x 0
  let h1 := halfVals x 1
  let w (n : Nat) : W16 := BitVec.ofNat 16 n
  match t with
  | .ob8 => (w (chooseZero 255 rm h0), w (chooseZero 255 rm h1), 0)
  | .ob4 => (w (chooseZero 15 rm h0), w (chooseZero 15 rm h1), 0)
  | .e2m1 => (w (256 * chooseE h0), w (256 * chooseE h1), 0)
  | _ =>
    if (h0 ++ h1).any (fun v => !isFin v) then (0, 0, 0x7FC00000)
    else
      let am := amaxOf (h0 ++ h1)
      if am.isZero then (0, 0, 0x3F800000)
      else (w (256 * chooseS am (amaxOf h0)), w (256 * chooseS am (amaxOf h1)), u32 (rne32 am).1)
def execVqnt (gd : Guard) (d a : VNum) (fmt : Tag) (rm : Rm) (sat : Bool) (mk : Option MNum) (s : State) : Out :=
  issue gd s (fun s =>
    let c := s.cur
    let x := c.rv a
    let old := c.rv d
    let w := wordOf (.vqnt gd d a fmt rm sat mk)
    if !x.tag.isFloat then trap s w cTag 0 (tagData x.tag)
    else if !maskTagOk old mk fmt || (mk.isSome && badZero old) then trap s w cTag 0 (tagData old.tag)
    else
      let rm' := effRm c rm
      let sides := if mk.isSome then (old.side0, old.side1, old.sup) else chooseSides fmt rm' x
      let f (i : Nat) := let sd := if i < 64 then sides.1 else sides.2.1
        quantise fmt (sideScale sd) (sideZero sd) sides.2.2 rm' (x.val i)
      let r : VReg := ⟨mergeLanes c mk old (fun i => u32 (f i).1), fmt, sides.1, sides.2.1, sides.2.2⟩
      advance ((setFlags s (laneFlags c mk f)).setCur (·.wv d r)))

end Sys2Proof.Machine
end

