-- ==== Sys2Proof/Machine/Dispatch.lean ====
section
/-! DEFINITION. One arm per constructor of `Instr`, each a direct call of that instruction's meaning. -/
namespace Sys2Proof.Machine

def exec (i : Instr) (s : State) : Host.Outcome State Fault Refusal :=
  match i with
  | .aclr gd ko ka kb kc gb bg => Sys2Proof.Machine.execAclr gd ko ka kb kc gb bg s
  | .add gd d a b => Sys2Proof.Machine.execAdd gd d a b s
  | .and gd d a b => Sys2Proof.Machine.execAnd gd d a b s
  | .andn gd d a b => Sys2Proof.Machine.execAndn gd d a b s
  | .addi gd d a imm => Sys2Proof.Machine.execAddi gd d a imm s
  | .andi gd d a imm => Sys2Proof.Machine.execAndi gd d a imm s
  | .adrain gd ko ka kb kc ga gb bg => Sys2Proof.Machine.execAdrain gd ko ka kb kc ga gb bg s
  | .amo gd d a b c op wide => Sys2Proof.Machine.execAmo gd d a b c op wide s
  | .aq gd => Sys2Proof.Machine.execAq gd s
  | .arel gd => Sys2Proof.Machine.execArel gd s
  | .arrive gd ko ka kb kc ga gb => Sys2Proof.Machine.execArrive gd ko ka kb kc ga gb s
  | .aswap gd ko ka kb kc bg => Sys2Proof.Machine.execAswap gd ko ka kb kc bg s
  | .bar gd mode scope id => Sys2Proof.Machine.execBar gd mode scope id s
  | .br gd off => Sys2Proof.Machine.execBr gd off s
  | .brl gd off => Sys2Proof.Machine.execBrl gd off s
  | .cancel gd a lvl => Sys2Proof.Machine.execCancel gd a lvl s
  | .cas gd d a b c wide => Sys2Proof.Machine.execCas gd d a b c wide s
  | .chain gd a spill off => Sys2Proof.Machine.execChain gd a spill off s
  | .clz gd d a => Sys2Proof.Machine.execClz gd d a s
  | .cmp gd d a b cond => Sys2Proof.Machine.execCmp gd d a b cond s
  | .cmpi gd d a cond imm => Sys2Proof.Machine.execCmpi gd d a cond imm s
  | .div gd d a b => Sys2Proof.Machine.execDiv gd d a b s
  | .divu gd d a b => Sys2Proof.Machine.execDivu gd d a b s
  | .edge gd ko ka kb kc ga bg => Sys2Proof.Machine.execEdge gd ko ka kb kc ga bg s
  | .eret gd => Sys2Proof.Machine.execEret gd s
  | .exit gd mask => Sys2Proof.Machine.execExit gd mask s
  | .ext gd d a width sgn => Sys2Proof.Machine.execExt gd d a width sgn s
  | .fence gd wc sys eng ifetch => Sys2Proof.Machine.execFence gd wc sys eng ifetch s
  | .ffuse gd => Sys2Proof.Machine.execFfuse gd s
  | .fsplit gd d a col => Sys2Proof.Machine.execFsplit gd d a col s
  | .gcfg gd ko ka kb kc ga => Sys2Proof.Machine.execGcfg gd ko ka kb kc ga s
  | .gspill gd ko ka kb kc ga => Sys2Proof.Machine.execGspill gd ko ka kb kc ga s
  | .gstart gd ko ka kb kc => Sys2Proof.Machine.execGstart gd ko ka kb kc s
  | .gstop gd ko ka kb kc => Sys2Proof.Machine.execGstop gd ko ka kb kc s
  | .jr gd a off => Sys2Proof.Machine.execJr gd a off s
  | .jrl gd a off => Sys2Proof.Machine.execJrl gd a off s
  | .kwatch gd ko ka kb kc ga gb => Sys2Proof.Machine.execKwatch gd ko ka kb kc ga gb s
  | .launch gd ko ka kb kc ga => Sys2Proof.Machine.execLaunch gd ko ka kb kc ga s
  | .ld gd d a sz sgn hint off => Sys2Proof.Machine.execLd gd d a sz sgn hint off s
  | .st gd d a sz sys off => Sys2Proof.Machine.execSt gd d a sz sys off s
  | .ldv gd d a tag hint off => Sys2Proof.Machine.execLdv gd d a tag hint off s
  | .stv gd d a tag off => Sys2Proof.Machine.execStv gd d a tag off s
  | .li gd d imm => Sys2Proof.Machine.execLi gd d imm s
  | .lih gd d a imm => Sys2Proof.Machine.execLih gd d a imm s
  | .loop gd a off => Sys2Proof.Machine.execLoop gd a off s
  | .max gd d a b => Sys2Proof.Machine.execMax gd d a b s
  | .maxu gd d a b => Sys2Proof.Machine.execMaxu gd d a b s
  | .min gd d a b => Sys2Proof.Machine.execMin gd d a b s
  | .minu gd d a b => Sys2Proof.Machine.execMinu gd d a b s
  | .mfc gd d num => Sys2Proof.Machine.execMfc gd d num s
  | .mtc gd a num => Sys2Proof.Machine.execMtc gd a num s
  | .mlog gd d a b tbl => Sys2Proof.Machine.execMlog gd d a b tbl s
  | .mma gd ko ka kb kc ga gb bg chn rag cin set => Sys2Proof.Machine.execMma gd ko ka kb kc ga gb bg chn rag cin set s
  | .mul gd d a b => Sys2Proof.Machine.execMul gd d a b s
  | .mulh gd d a b => Sys2Proof.Machine.execMulh gd d a b s
  | .mulhu gd d a b => Sys2Proof.Machine.execMulhu gd d a b s
  | .nop gd => Sys2Proof.Machine.execNop gd s
  | .or gd d a b => Sys2Proof.Machine.execOr gd d a b s
  | .ori gd d a imm => Sys2Proof.Machine.execOri gd d a imm s
  | .popc gd d a => Sys2Proof.Machine.execPopc gd d a s
  | .pset gd d a b tbl => Sys2Proof.Machine.execPset gd d a b tbl s
  | .qmark gd mask => Sys2Proof.Machine.execQmark gd mask s
  | .rem gd d a b => Sys2Proof.Machine.execRem gd d a b s
  | .remu gd d a b => Sys2Proof.Machine.execRemu gd d a b s
  | .sel gd d a b c => Sys2Proof.Machine.execSel gd d a b c s
  | .shl gd d a b => Sys2Proof.Machine.execShl gd d a b s
  | .shr gd d a b => Sys2Proof.Machine.execShr gd d a b s
  | .shra gd d a b => Sys2Proof.Machine.execShra gd d a b s
  | .shli gd d a sh => Sys2Proof.Machine.execShli gd d a sh s
  | .shri gd d a sh => Sys2Proof.Machine.execShri gd d a sh s
  | .shrai gd d a sh => Sys2Proof.Machine.execShrai gd d a sh s
  | .strm gd ko ka kb kc ga gb => Sys2Proof.Machine.execStrm gd ko ka kb kc ga gb s
  | .sub gd d a b => Sys2Proof.Machine.execSub gd d a b s
  | .sys gd code => Sys2Proof.Machine.execSys gd code s
  | .tjoin gd ko ka kb kc => Sys2Proof.Machine.execTjoin gd ko ka kb kc s
  | .tstat gd d ka => Sys2Proof.Machine.execTstat gd d ka s
  | .twait gd ka kb kc => Sys2Proof.Machine.execTwait gd ka kb kc s
  | .trapf gd => Sys2Proof.Machine.execTrapf gd s
  | .unchain gd => Sys2Proof.Machine.execUnchain gd s
  | .vadd gd d a b fmt rm sat mk => Sys2Proof.Machine.execVadd gd d a b fmt rm sat mk s
  | .vsub gd d a b fmt rm sat mk => Sys2Proof.Machine.execVsub gd d a b fmt rm sat mk s
  | .vmul gd d a b fmt rm sat mk => Sys2Proof.Machine.execVmul gd d a b fmt rm sat mk s
  | .vfma gd d a b c fmt rm sat mk => Sys2Proof.Machine.execVfma gd d a b c fmt rm sat mk s
  | .vmin gd d a b fmt rm sat mk => Sys2Proof.Machine.execVmin gd d a b fmt rm sat mk s
  | .vmax gd d a b fmt rm sat mk => Sys2Proof.Machine.execVmax gd d a b fmt rm sat mk s
  | .vabs gd d a fmt rm sat mk => Sys2Proof.Machine.execVabs gd d a fmt rm sat mk s
  | .vneg gd d a fmt rm sat mk => Sys2Proof.Machine.execVneg gd d a fmt rm sat mk s
  | .vrcp gd d a fmt rm sat mk => Sys2Proof.Machine.execVrcp gd d a fmt rm sat mk s
  | .vrsq gd d a fmt rm sat mk => Sys2Proof.Machine.execVrsq gd d a fmt rm sat mk s
  | .vexp gd d a fmt rm sat mk => Sys2Proof.Machine.execVexp gd d a fmt rm sat mk s
  | .vlog gd d a fmt rm sat mk => Sys2Proof.Machine.execVlog gd d a fmt rm sat mk s
  | .viadd gd d a b mk => Sys2Proof.Machine.execViadd gd d a b mk s
  | .visub gd d a b mk => Sys2Proof.Machine.execVisub gd d a b mk s
  | .vimul gd d a b mk => Sys2Proof.Machine.execVimul gd d a b mk s
  | .vand gd d a b mk => Sys2Proof.Machine.execVand gd d a b mk s
  | .vor gd d a b mk => Sys2Proof.Machine.execVor gd d a b mk s
  | .vxor gd d a b mk => Sys2Proof.Machine.execVxor gd d a b mk s
  | .vshl gd d a b mk => Sys2Proof.Machine.execVshl gd d a b mk s
  | .vshr gd d a b mk => Sys2Proof.Machine.execVshr gd d a b mk s
  | .vshra gd d a b mk => Sys2Proof.Machine.execVshra gd d a b mk s
  | .vbc gd d a fmt mk => Sys2Proof.Machine.execVbc gd d a fmt mk s
  | .vcmp gd d a b cond => Sys2Proof.Machine.execVcmp gd d a b cond s
  | .vcvt gd d a fmt rm sat mk => Sys2Proof.Machine.execVcvt gd d a fmt rm sat mk s
  | .vldx gd d a b fmt mk => Sys2Proof.Machine.execVldx gd d a b fmt mk s
  | .vstx gd d a b fmt mk => Sys2Proof.Machine.execVstx gd d a b fmt mk s
  | .vperm gd d a b mk => Sys2Proof.Machine.execVperm gd d a b mk s
  | .vqnt gd d a fmt rm sat mk => Sys2Proof.Machine.execVqnt gd d a fmt rm sat mk s
  | .vred gd d a op rm => Sys2Proof.Machine.execVred gd d a op rm s
  | .vsel gd d a b c => Sys2Proof.Machine.execVsel gd d a b c s
  | .vtag gd d a tag => Sys2Proof.Machine.execVtag gd d a tag s
  | .vtagRead gd d a => Sys2Proof.Machine.execVtagRead gd d a s
  | .vxtr gd d a b => Sys2Proof.Machine.execVxtr gd d a b s
  | .waitge gd d a sz sgn hint off => Sys2Proof.Machine.execWaitge gd d a sz sgn hint off s
  | .wload gd ko ka kb kc ga gb bg => Sys2Proof.Machine.execWload gd ko ka kb kc ga gb bg s
  | .wswap gd ko ka kb kc bg => Sys2Proof.Machine.execWswap gd ko ka kb kc bg s
  | .xcast gd ko ka kb kc ga gb res => Sys2Proof.Machine.execXcast gd ko ka kb kc ga gb res s
  | .xcopy gd ko ka kb kc ga gb res => Sys2Proof.Machine.execXcopy gd ko ka kb kc ga gb res s
  | .xred gd ko ka kb kc ga gb res => Sys2Proof.Machine.execXred gd ko ka kb kc ga gb res s
  | .xfetch gd ko ka kb kc ga => Sys2Proof.Machine.execXfetch gd ko ka kb kc ga s
  | .xsend gd ko ka kb kc ga gb add res => Sys2Proof.Machine.execXsend gd ko ka kb kc ga gb add res s
  | .xor gd d a b => Sys2Proof.Machine.execXor gd d a b s
  | .xori gd d a imm => Sys2Proof.Machine.execXori gd d a imm s
  | .yield gd n => Sys2Proof.Machine.execYield gd n s
  | .commandStart seq q => Sys2Proof.Machine.execCommandStart seq q s
  | .commandBoundary seq => Sys2Proof.Machine.execCommandBoundary seq s
  | .commandCompletion seq q id upto => Sys2Proof.Machine.execCommandCompletion seq q id upto s
  | .raggedCounterRead seq => Sys2Proof.Machine.execRaggedCounterRead seq s
  | .spillEngineMove seq port => Sys2Proof.Machine.execSpillEngineMove seq port s
  | .gridCycle seq => Sys2Proof.Machine.execGridCycle seq s
  | .kwatchRead seq id => Sys2Proof.Machine.execKwatchRead seq id s
  | .waitgeRead cid => Sys2Proof.Machine.execWaitgeRead cid s
  | .wcVisibilityTimeout cid => Sys2Proof.Machine.execWcVisibilityTimeout cid s
  | .launchAccept cid id => Sys2Proof.Machine.execLaunchAccept cid id s
  | .weightReturn src => Sys2Proof.Machine.execWeightReturn src s
  | .graphNodeSpawn ent node => Sys2Proof.Machine.execGraphNodeSpawn ent node s
  | .fragmentFree seq => Sys2Proof.Machine.execFragmentFree seq s
  | .unitCompletion lid unit => Sys2Proof.Machine.execUnitCompletion lid unit s
  | .selection => Sys2Proof.Machine.execSelection s
  | .priorityAgeingStep lid => Sys2Proof.Machine.execPriorityAgeingStep lid s
  | .waitQuantumExpiry cid => Sys2Proof.Machine.execWaitQuantumExpiry cid s
  | .yieldWindowExpiry cid => Sys2Proof.Machine.execYieldWindowExpiry cid s
  | .quiesceComplete cid => Sys2Proof.Machine.execQuiesceComplete cid s
  | .imageWriteDone cid => Sys2Proof.Machine.execImageWriteDone cid s
  | .resumptionReadDone cid => Sys2Proof.Machine.execResumptionReadDone cid s
  | .tenureLimit seq => Sys2Proof.Machine.execTenureLimit seq s
  | .cancelAtHome idx => Sys2Proof.Machine.execCancelAtHome idx s
  | .firmwarePageServiceDone cid cmd maps => Sys2Proof.Machine.execFirmwarePageServiceDone cid cmd maps s
  | .sliceReport lid => Sys2Proof.Machine.execSliceReport lid s
  | .ready hdr slice ok => Sys2Proof.Machine.execReady hdr slice ok s
  | .sliceDecision lid => Sys2Proof.Machine.execSliceDecision lid s
  | .go hdr slice => Sys2Proof.Machine.execGo hdr slice s
  | .sliceStart lid => Sys2Proof.Machine.execSliceStart lid s
  | .abandon hdr slice => Sys2Proof.Machine.execAbandon hdr slice s
  | .fail hdr slice => Sys2Proof.Machine.execFail hdr slice s
  | .sliceReoffer lid => Sys2Proof.Machine.execSliceReoffer lid s
  | .fabricWrite rdie hdr t u data => Sys2Proof.Machine.execFabricWrite rdie hdr t u data s
  | .fabricAdd rdie hdr t u fp data => Sys2Proof.Machine.execFabricAdd rdie hdr t u fp data s
  | .fetchOrder rdie hdr o upto => Sys2Proof.Machine.execFetchOrder rdie hdr o upto s
  | .fetchUnit rdie hdr o off data => Sys2Proof.Machine.execFetchUnit rdie hdr o off data s
  | .fetchEnd hdr endOff => Sys2Proof.Machine.execFetchEnd hdr endOff s
  | .landed hdr landedTo => Sys2Proof.Machine.execLanded hdr landedTo s
  | .fabricCommit rdie hdr addr length => Sys2Proof.Machine.execFabricCommit rdie hdr addr length s
  | .committed hdr => Sys2Proof.Machine.execCommitted hdr s
  | .fabricStop hdr => Sys2Proof.Machine.execFabricStop hdr s
  | .report rdie hdr resume endOff => Sys2Proof.Machine.execReport rdie hdr resume endOff s
  | .negativeReply hdr code n => Sys2Proof.Machine.execNegativeReply hdr code n s
  | .acknowledgement hdr off => Sys2Proof.Machine.execAcknowledgement hdr off s
  | .resetNotice pkg die inc => Sys2Proof.Machine.execResetNotice pkg die inc s
  | .portLoss pkg => Sys2Proof.Machine.execPortLoss pkg s
  | .noProgressTimeout buf => Sys2Proof.Machine.execNoProgressTimeout buf s
  | .fabricTime ns => Sys2Proof.Machine.execFabricTime ns s
  | .linkStep a b => Sys2Proof.Machine.execLinkStep a b s
  | .retrainingWindowClose a b => Sys2Proof.Machine.execRetrainingWindowClose a b s
  | .hostAccess link die addr n wr => Sys2Proof.Machine.execHostAccess link die addr n wr s
  | .claim m n => Sys2Proof.Machine.execClaim m n s
  | .handover m v => Sys2Proof.Machine.execHandover m v s
  | .commit m n => Sys2Proof.Machine.execCommit m n s
  | .release m v => Sys2Proof.Machine.execRelease m v s
  | .registerWrite m off v => Sys2Proof.Machine.execRegisterWrite m off v s
  | .tail m q v => Sys2Proof.Machine.execTail m q v s
  | .tailWordRead q => Sys2Proof.Machine.execTailWordRead q s
  | .queueEnable m q => Sys2Proof.Machine.execQueueEnable m q s
  | .queueDisable m q => Sys2Proof.Machine.execQueueDisable m q s
  | .stopPacket q => Sys2Proof.Machine.execStopPacket q s
  | .nopPacket q => Sys2Proof.Machine.execNopPacket q s
  | .launchPacket q => Sys2Proof.Machine.execLaunchPacket q s
  | .sliceLaunch q => Sys2Proof.Machine.execSliceLaunch q s
  | .graph q => Sys2Proof.Machine.execGraph q s
  | .waitThreshold q => Sys2Proof.Machine.execWaitThreshold q s
  | .waitQueue q => Sys2Proof.Machine.execWaitQueue q s
  | .waitHandle q => Sys2Proof.Machine.execWaitHandle q s
  | .waitRelease q => Sys2Proof.Machine.execWaitRelease q s
  | .signalStore q => Sys2Proof.Machine.execSignalStore q s
  | .signalAdd q => Sys2Proof.Machine.execSignalAdd q s
  | .call q => Sys2Proof.Machine.execCall q s
  | .pred q => Sys2Proof.Machine.execPred q s
  | .loopPacket q => Sys2Proof.Machine.execLoopPacket q s
  | .ffence q => Sys2Proof.Machine.execFfence q s
  | .resumePacket q => Sys2Proof.Machine.execResumePacket q s
  | .chkpt q => Sys2Proof.Machine.execChkpt q s
  | .timePacket q => Sys2Proof.Machine.execTimePacket q s
  | .phase q => Sys2Proof.Machine.execPhase q s
  | .coalWindowExpiry q => Sys2Proof.Machine.execCoalWindowExpiry q s
  | .jobOpen m ctx rootDie rootAddr pfh tvec sscr saveAddr saveLen => Sys2Proof.Machine.execJobOpen m ctx rootDie rootAddr pfh tvec sscr saveAddr saveLen s
  | .jobClose m ctx => Sys2Proof.Machine.execJobClose m ctx s
  | .fatSet m index addr => Sys2Proof.Machine.execFatSet m index addr s
  | .groupSet m gid ver addr count => Sys2Proof.Machine.execGroupSet m gid ver addr count s
  | .keyLoad m slot addr => Sys2Proof.Machine.execKeyLoad m slot addr s
  | .faultrec m handle addr => Sys2Proof.Machine.execFaultrec m handle addr s
  | .images m ctx addr count => Sys2Proof.Machine.execImages m ctx addr count s
  | .imageFree m ctx addr => Sys2Proof.Machine.execImageFree m ctx addr s
  | .fwStage m addr len => Sys2Proof.Machine.execFwStage m addr len s
  | .fwCommit m => Sys2Proof.Machine.execFwCommit m s
  | .fwAbort m => Sys2Proof.Machine.execFwAbort m s
  | .heatSet m die heat => Sys2Proof.Machine.execHeatSet m die heat s
  | .partition m pid => Sys2Proof.Machine.execPartition m pid s
  | .forceRelease m => Sys2Proof.Machine.execForceRelease m s
  | .scrub m nonce => Sys2Proof.Machine.execScrub m nonce s
  | .recover m => Sys2Proof.Machine.execRecover m s
  | .opkey m hash => Sys2Proof.Machine.execOpkey m hash s
  | .counters m addr ctx => Sys2Proof.Machine.execCounters m addr ctx s
  | .dieReset m die => Sys2Proof.Machine.execDieReset m die s
  | .hangWatchdog die => Sys2Proof.Machine.execHangWatchdog die s
  | .fatalInternalError die => Sys2Proof.Machine.execFatalInternalError die s
  | .dieResetComplete die => Sys2Proof.Machine.execDieResetComplete die s
  | .moduleReset => Sys2Proof.Machine.execModuleReset s
  | .powerUp => Sys2Proof.Machine.execPowerUp s
  | .mgmtImageReceived image => Sys2Proof.Machine.execMgmtImageReceived image s
  | .attestationQuote m => Sys2Proof.Machine.execAttestationQuote m s
  | .arithmeticClockStep die ticks => Sys2Proof.Machine.execArithmeticClockStep die ticks s
  | .portDownPeriodEnd => Sys2Proof.Machine.execPortDownPeriodEnd s
  | .powerLoss => Sys2Proof.Machine.execPowerLoss s
  | .waitReRead q => Sys2Proof.Machine.execWaitReRead q s
  | .gangBarrierArrival hdr slice bar => Sys2Proof.Machine.execGangBarrierArrival hdr slice bar s
  | .gangBarrierCompletion hdr slice bar => Sys2Proof.Machine.execGangBarrierCompletion hdr slice bar s
  | .mailboxCommandDone => Sys2Proof.Machine.execMailboxCommandDone s

end Sys2Proof.Machine
end

