-- ==== Sys2Proof/Machine/Deadlines.lean ====
section
/-! DEFINITION. What happens no later than the manual's figures say, as time goes on (R382): the bounds of a die's reset
(R14), of WC stores (R174), of pre-emption and resumption (R229), the yield window (R70), coalescing windows (R247),
the ports after a reset (R205), Whiting (R252), the array's cycle tables (R81, R94), the wait quantum (R54), tenures
(R73), ageing (R62), the no-progress time of the ports (R206), the moments of a gang slice (R77, R78), the length of a retraining
window (R22), and the locations that are read every 2 µs (R131, R240, R354). -/
namespace Sys2Proof.Machine

/-- One thing that is due: an event, or the end of Whiting, which has no row of its own. -/
inductive Due where
  | event (i : Instr)
  | scrubbed
deriving DecidableEq, Repr

/-- Ticks for bytes of an image at 400 GB/s for each pane (R229). -/
def imageTicks (bytes panes : Nat) : Nat := bytes * 9 / (50 * max 1 panes)
/-- Bytes that a resumption reads, LUTs with them (R142, R229). -/
def Image.readBytes (m : Image) : Nat :=
  m.bytes + (m.frags.map (fun e => if e.2.grid.st = .idle then 0 else 1024 * e.2.grid.count)).foldl (· + ·) 0
/-- Cancels that a launch's home has received come before what its units do by a bound (R234). -/
def cancelsDue (s : State) (lid t : Nat) : List (Nat × Due) :=
  if cancelPending s lid then (List.range s.cancels.length).map (fun i => (t, Due.event (.cancelAtHome i))) else []
/-- The wait quantum of a unit all of whose contexts wait (R54). -/
def quantumDue (s : State) (u : UnitRec) : List (Nat × Due) :=
  let cs := (ctxsOf s u).filter (fun c => c.phase == .running)
  if cs.all (fun c => c.wait == .quantum) then
    (cs.head?.map (fun c => (cs.foldl (fun m x => max m x.since) 0 + 50 * ticksPerUs + 1, Due.event (.waitQuantumExpiry c.cid)))).toList
  else []
/-- By when a unit's markers have returned, its image is written or read (R229), its yield window ends (R70), its wait
quantum is over (R54). -/
def unitDue (s : State) (u : UnitRec) : List (Nat × Due) :=
  match u.cids with
  | [] => []
  | c :: _ => match u.phase with
    | .running => quantumDue s u
    | .window => [(u.deadline, .event (.yieldWindowExpiry c))]
    | .quiescing => [(u.stop + 2 * ticksPerUs, .event (.quiesceComplete c))]
    | .writing =>
      let n := match u.image with
        | some m => m.bytes
        | none => imageBytes s u + lutSize s u
      let t := u.deadline + imageTicks n (u.h * u.w)
      cancelsDue s u.lid t ++ [(t, .event (.imageWriteDone c))]
    | .reading =>
      let t := u.deadline + imageTicks ((u.image.map Image.readBytes).getD 0) (u.h * u.w)
      cancelsDue s u.lid t ++ [(t, .event (.resumptionReadDone c))]
    | _ => []
/-- WC stores become visible no later than 4 µs after they issue, where nothing holds their homes (R174, R22). -/
def wcDue (s : State) (c : Ctx) : List (Nat × Due) :=
  let kept := wcKept s c.who c.wc
  ((c.wc.filter (fun b => !kept.contains b)).map (·.since)).eraseDups.map (fun t =>
    (t + 4 * ticksPerUs, .event (.wcVisibilityTimeout c.cid)))
/-- The array's cycle tables (R81, R94): a brief command takes effect, tokens complete, a command passes its boundary. -/
def arrayDue (e : Nat × Frag) : List (Nat × Due) :=
  let ks := e.2.queue 0 ++ e.2.queue 1
  (ks.filter (fun k => k.st == .passed)).map (fun k => (k.ready, Due.event (.commandBoundary e.1)))
    ++ (match e.2.cur.bind (fun id => ks.find? (fun k => k.id == id)) with
      | none => []
      | some k =>
        (if isBrief k then [(k.ready, Due.event (.commandCompletion e.1 (if (e.2.queue 0).any (fun j => j.id == k.id) then 0 else 1) k.id 0))]
          else [])
        ++ [(e.2.busy, .event (.commandBoundary e.1))]
        ++ (if (mmaFlags k).2.1 then [(e.2.busy, .event (.raggedCounterRead e.1))] else []))
/-- The time limit of a tenure (R73). -/
def tenureDue (s : State) (e : Nat × Frag) : List (Nat × Due) :=
  let t := e.2.tstart + 100 * ticksPerUs
  if e.2.holder.isSome && s.now ≤ t then [(t, .event (.tenureLimit e.1))] else []
/-- Each 2 ms step of a ready launch's wait (R61, R62). -/
def ageDue (s : State) (e : Nat × Launch) : List (Nat × Due) :=
  if isReady s e.1 e.2 then [(e.2.wbase + (e.2.wsteps + 1) * (2000 * ticksPerUs), .event (.priorityAgeingStep e.1))] else []
/-- A port whose head has waited 100 µs since a flit left it drops that head (R206). -/
def portDue (e : Nat × Port) : List (Nat × Due) :=
  if e.2.q.isEmpty then [] else [(e.2.at' + 100 * ticksPerUs, .event (.noProgressTimeout (.port (e.1 / 4) (e.1 % 4))))]
/-- A die's reset takes at most 5 ms (R14), and its units have stopped 2 µs after it began (R229). -/
def dieDue (s : State) (d : Nat) : List (Nat × Due) :=
  ((s.die d).stopAt.map (fun t => (t + 2 * ticksPerUs, Due.event (.dieResetComplete d)))).toList
    ++ ((s.die d).resetAt.map (fun t => (t + 5000 * ticksPerUs, Due.event (.dieResetComplete d)))).toList
/-- A retraining window lasts at most 1 µs (R22). -/
def linkDue (e : Nat × Link) : List (Nat × Due) :=
  (e.2.window.map (fun t => (t + ticksPerUs, Due.event (.retrainingWindowClose (e.1 / 16) (e.1 % 16))))).toList
/-- The moments of a gang slice's part in fabric time: its report, the decision, its start; one that was abandoned is offered
again in time for its next report (R77, R78). -/
def sliceDue (s : State) (e : Nat × Launch) : List (Nat × Due) :=
  match e.2.slice with
  | none => []
  | some sl =>
    let at' (ns : Nat) : Nat := s.fab.nsAt + (ns - s.fab.ns) * ticksPerNs
    if !s.fab.valid || (s.ent? e.1).all (·.complete) then []
    else (if sl.reported || sl.decided then [] else [(at' (sl.t - 20000), Due.event (.sliceReport e.1))])
      ++ (if coordinator sl = s.pkg && !sl.decided then [(at' (sl.t - 10000), .event (.sliceDecision e.1))] else [])
      ++ (if sl.decision = 1 && !sl.started then [(at' sl.t, .event (.sliceStart e.1))] else [])
      ++ (if sl.decision = 2 then [(at' (sl.t + 980000), .event (.sliceReoffer e.1))] else [])
def queueDue (e : Nat × HQueue) : List (Nat × Due) :=
  if e.2.coal = 0 then []
  else (e.2.coalAt.map (fun t => (t + e.2.coal.toNat * ticksPerUs, Due.event (.coalWindowExpiry e.1)))).toList
/-- Everything with a latest moment. -/
def State.deadlines (s : State) : List (Nat × Due) :=
  s.frags.flatMap arrayDue ++ s.units.flatMap (fun e => unitDue s e.2) ++ s.ctxs.flatMap (wcDue s)
    ++ (List.range 12).flatMap (dieDue s) ++ s.queues.flatMap queueDue ++ s.frags.flatMap (tenureDue s)
    ++ s.launches.flatMap (ageDue s) ++ s.fab.ports.flatMap portDue ++ s.links.flatMap linkDue
    ++ s.launches.flatMap (sliceDue s)
    ++ (if s.fab.portsUp || !s.boot.powered then [] else [(s.fab.portsAt + 200 * ticksPerUs, .event .portDownPeriodEnd)])
    ++ (s.boot.scrubAt.map (fun b => (b.1 + b.2 * ticksPerUs, Due.scrubbed))).toList

/-- What is due first by a tick, but for what has been tried; of two at one moment the first in the list. -/
def State.dueBy (s : State) (t : Nat) (tried : List (Nat × Due)) : Option (Nat × Due) :=
  (s.deadlines.filter (fun d => d.1 ≤ t && !tried.contains d)).foldl (fun m d => match m with
    | none => some d
    | some e => some (if d.1 < e.1 then d else e)) none

/-- An event happens. -/
def happen (i : Instr) (s : State) : State :=
  match exec i s with
  | .next t => t
  | _ => s
/-- Stores and records that held homes kept follow as soon as these are open (R14, R22). -/
def runDue (s : State) (d : Nat × Due) : State :=
  let s1 : State := { s with now := max s.now d.1 }
  (match d.2 with
  | .event i => happen i s1
  | .scrubbed => finishScrub s1).retryLate.retryRecords

/-- Locations that are read at least every 2 µs: by watches, by WAITGE, by queue threads (R131, R240, R354, R380). -/
def State.rereads (s : State) : List Instr :=
  s.frags.flatMap (fun e => ((Store.get [] e.2.q 5).filter (fun k => k.st == .started)).map (fun k => Instr.kwatchRead e.1 k.id))
    ++ (s.ctxs.filter (fun c => c.wait == .quantum)).map (fun c => Instr.waitgeRead c.cid)
    ++ (s.queues.filter (fun e => e.2.st == .run && e.2.twaddr != 0)).map (fun e => Instr.tailWordRead e.1)
    ++ (s.queues.filter (fun e => e.2.st == .blocked)).map (fun e => Instr.waitReRead e.1)
def rereadAll (s : State) : State := (s.rereads.foldl (fun s i => happen i s) s).switchTo s.cur.cid

/-- What is due by a tick happens at its moment, one thing after another; what that makes due follows. What something
holds up is tried once: it stays due. -/
def settleDue (t : Nat) : Nat → List (Nat × Due) → State → State
  | 0, _, s => s
  | n + 1, tried, s => match s.dueBy t tried with
    | none => s
    | some d => settleDue t n (d :: tried) (runDue s d)
/-- Time goes on to a tick: what is due by then has happened, what is read every 2 µs has been read, held stores and
records are written if their homes accept them, messages whose window is over have left. -/
def State.elapse (s : State) (t : Nat) : State :=
  let s1 : State := { settleDue t 4096 [] s with now := t }
  let s2 := if s.now / (2 * ticksPerUs) = t / (2 * ticksPerUs) then s1 else rereadAll s1
  s2.retryLate.retryRecords.sendDue

end Sys2Proof.Machine
end

