-- ==== Sys2Proof/Machine/Step.lean ====
section
/-! DEFINITION. One step: the next entry of the schedule, or, where nothing is scheduled, one instruction of the
context that moves (assumption 1). -/
namespace Sys2Proof.Machine

/-- The instruction at the PC of the context that moves is fetched, decoded and executed. -/
def issueStep (s : State) : Host.Outcome State Fault Refusal := issueWith exec s

/-- A context issues, with at most `n` element accesses of a vector instruction (R180). -/
def partStep (s : State) (n : Nat) : Host.Outcome State Fault Refusal :=
  match issueStep { s with vlim := some n } with
  | .next t => .next { t with vlim := none }
  | o => o

/-- What one entry of the schedule does. -/
def act (a : Act) (s : State) : Host.Outcome State Fault Refusal :=
  match a with
  | .issue cid => if (s.switchTo cid).cur.cid = cid then issueStep (s.switchTo cid) else .next s
  | .part cid n => if (s.switchTo cid).cur.cid = cid then partStep (s.switchTo cid) n else .next s
  | .event i => if i.isWord then .next s else exec i s
  | .evict cid line => .next (s.modCtx cid (fun c => { c with icache := Tab.erase c.icache line }))
  | .corrected dram die => .next (correctedError s dram die)
  | .refetched => .next (s.count (fun e => { e with refetch := satInc e.refetch }))
  | .uncorrectable k => .next (strikeWord s k)
  | .badPlane seq second => .next (strikePlane s seq second)
  | .serve die port => .next (servePort s die port)
  | .deliver idx => .next (deliverPkt s idx)
  | .lend ent pkg lpb => .next (lendPart s ent pkg lpb)
  | .child hdr ent exp lpb => .next (childHere s hdr ent exp lpb)
  | .readAhead q k => .next (readAheadStep s q k)
  | .hostStore link a data => .next (setBytes s (hostKey link a) (data.map (·.toNat)))
  | .hostLinks bad => .next { s with hostBad := bad }

/-- The time at which the next step acts, and the schedule after it. -/
def State.tick (s : State) : State :=
  match s.turns with
  | [] => if s.cur.phase = .running then s.elapse (s.now + (s.die (s.cur.seq / 16)).tpc) else s
  | t :: ts => ({ s with turns := ts } : State).elapse (s.now + t.dt)
/-- One step: time goes on, then the next entry of the schedule acts, or the context that moves issues. -/
def step (s : State) : Host.Outcome State Fault Refusal :=
  match s.turns with
  | [] => if s.tick.cur.phase = .running then issueStep s.tick else .next s.tick
  | t :: _ => act t.act s.tick

/-- `s` with an instruction placed where the next step fetches: a 64-bit word at the PC of a running unit, one
placed for it if none can fetch there; a longer pattern is a command packet at the head of queue 0. -/
def State.withFetchWord (s : State) (nbits w : Nat) : State :=
  if nbits ≤ 64 then
    let s1 := { s with turns := [] }
    storeAtPc (if fetchable s1 then s1 else placeProbe s1) w
  else placePacket s w

end Sys2Proof.Machine
end

