-- ==== Sys2Proof/Safety.lean ====
section
/-! DEFINITION. The words in which claims speak of a step: what lets an instruction issue, what its outcome gives,
which parts of a state stand unchanged, and the standing invariant of memory. -/
namespace Sys2Proof

/-- The standing invariant: memory keeps its canonical form. -/
def MemInv (s : Machine.State) : Prop := Machine.Memory.wf s.mem = true

/-- A step that neither faults nor refuses. -/
def SafeStep (s : Machine.State) : Prop := ∃ t, Machine.step s = .next t

namespace Machine

/-- The context that moves may issue (R221, R232) and the word's guard holds (R258). -/
def Issues (s : State) (gd : Guard) : Prop :=
  s.cur.phase = .running ∧ s.cur.halted = false ∧ s.cur.pfault = none ∧ guardTrue s.cur gd = true

/-- The outcome is a next state, and `p` holds of it. -/
def Gives (o : Out) (p : State → Prop) : Prop := ∃ t, o = .next t ∧ p t

/-- Every byte of memory and every accumulator word reads as before. -/
def SameMem (s t : State) : Prop :=
  (∀ k, memByte t k = memByte s k) ∧ ∀ w, Store.get 0 t.accs w = Store.get 0 s.accs w

/-- The state but for the registers of the context that moves. -/
def OnlyCur (s t : State) : Prop := t = { s with cur := t.cur } ∧ SameMem s t

/-- Only g[d] is written, with v (g0 discards it, R260), and the PC moves on to PC + 8. -/
def RegStep (s t : State) (d : GReg) (v : W64) : Prop :=
  t.cur.rg d = (if d = 0#6 then 0 else v) ∧ (∀ r, r ≠ d → t.cur.rg r = s.cur.rg r) ∧
  t.cur = { s.cur with g := t.cur.g, pc := s.cur.pc + 8, wait := .none } ∧ OnlyCur s t

/-- As `RegStep`, with arithmetic flags set besides (R161). -/
def RegFlagStep (s t : State) (d : GReg) (v : W64) (fl : BitVec 8) : Prop :=
  t.cur.rg d = (if d = 0#6 then 0 else v) ∧ (∀ r, r ≠ d → t.cur.rg r = s.cur.rg r) ∧
  t.cur.aflags = s.cur.aflags ||| fl.zeroExtend 64 ∧
  t.cur = { s.cur with g := t.cur.g, aflags := t.cur.aflags, pc := s.cur.pc + 8, wait := .none } ∧ OnlyCur s t

/-- Only p[d] is written (p0 discards it), and the PC moves on. -/
def PredStep (s t : State) (d : PNum) (b : Bool) : Prop :=
  t.cur.rp d = (if d = 0#3 then true else b) ∧ (∀ r, r ≠ d → t.cur.rp r = s.cur.rp r) ∧
  t.cur = { s.cur with p := t.cur.p, pc := s.cur.pc + 8, wait := .none } ∧ OnlyCur s t

/-- Only m[d] is written, with arithmetic flags, and the PC moves on. -/
def MaskStep (s t : State) (d : MNum) (x : BitVec 128) (fl : BitVec 8) : Prop :=
  t.cur.rm d = x ∧ (∀ r, r ≠ d → t.cur.rm r = s.cur.rm r) ∧ t.cur.aflags = s.cur.aflags ||| fl.zeroExtend 64 ∧
  t.cur = { s.cur with m := t.cur.m, aflags := t.cur.aflags, pc := s.cur.pc + 8, wait := .none } ∧ OnlyCur s t

/-- Only v[d] is written, lane by lane under the mask, with a tag and side fields, and arithmetic flags are set; the
PC moves on. -/
def VecStep (s t : State) (d : VNum) (mk : Option MNum) (tag : Tag) (sides : W16 × W16 × W32) (fl : BitVec 8)
    (f : Nat → W32) : Prop :=
  (t.cur.rv d).tag = tag ∧ (t.cur.rv d).side0 = sides.1 ∧ (t.cur.rv d).side1 = sides.2.1 ∧ (t.cur.rv d).sup = sides.2.2 ∧
  (∀ i < 128, (t.cur.rv d).lane i = if laneOn s.cur mk i then f i else (s.cur.rv d).lane i) ∧
  (∀ r, r ≠ d → t.cur.rv r = s.cur.rv r) ∧ t.cur.aflags = s.cur.aflags ||| fl.zeroExtend 64 ∧
  t.cur = { s.cur with v := t.cur.v, aflags := t.cur.aflags, pc := s.cur.pc + 8, wait := .none } ∧ OnlyCur s t

/-- Control goes to a PC; nothing else changes. -/
def PcStep (s t : State) (pc : W64) : Prop :=
  t.cur = { s.cur with pc := pc, wait := .none } ∧ OnlyCur s t

/-- A precise trap enters the handler (R213, R214). -/
def TrapStep (s t : State) (word : W64) (cause : Nat) (taddr tdata : W64) : Prop :=
  t.cur = { s.cur with
    tpc := s.cur.pc, tword := word, tcause := BitVec.ofNat 64 cause, taddr := taddr, tdata := tdata, sm := true,
    pc := s.cur.tvec, wait := .none, pfault := none } ∧ OnlyCur s t

/-- Whether a write at a location may change the byte of memory under a key: the byte itself, or under a page's key
its 16-byte block (R177). -/
def Loc.touches (l : Loc) (k : Nat) : Prop :=
  match l with
  | .mem key slot phys => if slot = 0 then k = key else key - phys % 16 ≤ k ∧ k < key - phys % 16 + 16
  | .acc _ _ => False

/-- `n` consecutive bytes of memory from a key, under key slot 0. -/
def Plain (ls : List Loc) (key n : Nat) : Prop :=
  ls.length = n ∧ ∀ i < n, ∃ phys, ls[i]? = some (.mem (key + i) 0 phys)

/-- Of memory only bytes that a write at one of the locations touches change; no accumulator word does. -/
def OnlyMemAt (s t : State) (ls : List Loc) : Prop :=
  t = { s with cur := t.cur, mem := t.mem, ecc := t.ecc, twSeen := t.twSeen } ∧
  (∀ e ∈ t.ecc, e ∈ s.ecc) ∧ (∀ e ∈ t.twSeen, e ∈ s.twSeen) ∧
  (∀ k, (∀ l ∈ ls, ¬ l.touches k) → memByte t k = memByte s k) ∧
  ∀ w, Store.get 0 t.accs w = Store.get 0 s.accs w

/-- A store to checked locations: no register but the PC changes, and of memory only bytes at the locations. -/
def StoreStep (s t : State) (ls : List Loc) : Prop :=
  t.cur = { s.cur with pc := s.cur.pc + 8, wait := .none } ∧ OnlyMemAt s t ls

/-- An atomic at checked locations: g[d] takes the old value, and of memory only bytes at the locations change. -/
def AtomicStep (s t : State) (d : GReg) (old : W64) (ls : List Loc) : Prop :=
  t.cur.rg d = (if d = 0#6 then 0 else old) ∧ (∀ r, r ≠ d → t.cur.rg r = s.cur.rg r) ∧
  t.cur = { s.cur with g := t.cur.g, pc := s.cur.pc + 8, wait := .none } ∧ OnlyMemAt s t ls

/-- The instruction does not complete at this step; nothing but the mark of the wait changes. -/
def StallStep (s t : State) (k : WaitKind) : Prop :=
  t.cur = { s.cur with wait := k, since := t.cur.since } ∧ OnlyCur s t

/-- Held bytes become visible where they go now (R171, R174): under key slot 0 each byte of memory takes its latest held
one. -/
def Flushed (s t : State) (going : List (Loc × Nat)) : Prop :=
  (∀ e ∈ going, ∃ k p, e.1 = Loc.mem k 0 p) →
  ∀ k, memByte t k =
    ((going.reverse.find? (fun e => e.1.eccKey == k)).map (fun e => BitVec.ofNat 8 e.2)).getD (memByte s k)

/-- The unit is no instance of a REPLICA launch: its stores are performed and not folded (R55, R56). -/
def NotReplica (s : State) : Prop := isReplica s = false ∧ s.cur.sec = false

/-- The bytes that a vector store writes are none of those that translate its own elements: whatever they become, each
element is stored where its check found it (R171). -/
def StableUnder (s : State) (rs : List VecAcc) : Prop :=
  ∀ t : State, t = { s with cur := t.cur, vlim := t.vlim, mem := t.mem, ecc := t.ecc, eccPart := t.eccPart, twSeen := t.twSeen } →
    (∀ k, (∀ x ∈ rs, ∀ l ∈ x.locs, ¬ l.touches k) → memByte t k = memByte s k) →
    ∀ x ∈ rs, spansWith (access t s.cur.who .store) x.addr x.n = .ok x.span

/-- As `StoreStep`, for a store of several elements, whose writer the model notes while an ECC word is bad (R178). -/
def PiecesStep (s t : State) (ls : List Loc) : Prop := StoreStep { s with eccPart := t.eccPart } t ls

/-- Checked accesses of a vector instruction to bytes that its combining buffer does not hold back: no leaf of
memory type WC. -/
def notWc (leaf : Option Leaf) : Prop := ∀ l, leaf = some l → l.mt ≠ 1

/-- The key of the scratchpad byte at a window offset of a context's fragment: panes of 16 MiB in row-major order (R10,
R103, R163). -/
def padAt (c : Ctx) (o : Nat) : Nat :=
  2 ^ 42 + (c.seq + 4 * (o / 2 ^ 24 / c.w) + o / 2 ^ 24 % c.w) * 2 ^ 24 + o % 2 ^ 24

/-- Byte `j` of the vector record that holds a register (R313). -/
def recordByte (r : VReg) (j : Nat) : Nat :=
  let elem (n : Nat) : Nat := (r.lane (j / n)).toNat / 256 ^ (j % n) % 256
  let pair : Nat := (r.lane (2 * j)).toNat % 16 + 16 * ((r.lane (2 * j + 1)).toNat % 16)
  let low (x : W16) : Nat := x.toNat % 256
  let high (x : W16) : Nat := x.toNat / 256
  match r.tag with
  | .bf16 => elem 2
  | .fp16 => elem 2
  | .e4m3 => elem 1
  | .e5m2 => elem 1
  | .ob8 => if j < 128 then elem 1 else if j = 128 then low r.side0 else low r.side1
  | .ob4 => if j < 64 then pair else if j = 64 then low r.side0 else low r.side1
  | .e2m1 => if j < 64 then pair else if j = 64 then high r.side0 else high r.side1
  | .qc4 => if j < 64 then pair else if j = 64 then high r.side0 else if j = 65 then high r.side1
      else if j < 68 then 0 else r.sup.toNat / 256 ^ (j - 68) % 256
  | _ => elem 4

/-- No join and no waiting LAUNCH is due to complete, and the next command number is not in use yet: what every step
leaves behind (R117, R119). -/
def TokensSettled (s : State) : Prop :=
  settledJoin s = none ∧ faultedPend s = none ∧ (∀ j ∈ s.joins, j.id ≠ s.nextId ∧ .pend s.nextId ∉ j.ins) ∧
  (∀ p ∈ s.pend, .pend s.nextId ∉ p.ins) ∧ (∀ r, (s.cur.rk r).pend ≠ s.nextId) ∧
  Store.wf Token.reset s.cur.k = true ∧ s.nextId ≠ 0

/-- A command has joined the tail of a queue with its operands and inputs captured; its token is pending; nothing
else changed (R80, R112, R114, R115). -/
def Enqueued (s t : State) (home q : Nat) (ko : KNum) (i : Instr) (ga gb res : W64) (ins : List Inp) : Prop :=
  t.cur = { s.cur with k := t.cur.k, pc := s.cur.pc + 8, wait := .none } ∧
  t.cur.rk ko = ⟨s.nextId, Done.ok⟩ ∧ (∀ r, r ≠ ko → t.cur.rk r = s.cur.rk r) ∧
  t = { s with cur := t.cur, frags := t.frags, nextId := s.nextId + 1 } ∧
  (∃ k, t.queue home q = s.queue home q ++ [k] ∧ k.id = s.nextId ∧ k.op = i ∧ k.word = wordOf i ∧ k.pc = s.cur.pc ∧
    k.ga = ga ∧ k.gb = gb ∧ k.res = res ∧ k.ins = ins ∧ k.st = .queued ∧ k.cid = s.cur.cid ∧ k.uid = s.cur.uid) ∧
  (∀ f r, f ≠ home ∨ r ≠ q → t.queue f r = s.queue f r) ∧ SameMem s t

/-- The tables of fragments and of the moving context's tokens are in canonical form, and no TJOIN and no LAUNCH waits
for a token. -/
def Orderly (s : State) : Prop :=
  Store.wf Frag.reset s.frags = true ∧ Store.wf Token.reset s.cur.k = true ∧ s.joins = [] ∧ s.pend = []

/-- A command is in no queue any more, and every register of the moving context that names its token reads the
status and origin record it completed with (R116). -/
def Completed (s t : State) (id : Nat) (d : Done) : Prop :=
  (∀ r, (s.cur.rk r).pend = id → t.cur.rk r = ⟨0, d⟩) ∧ ∀ e ∈ t.frags, ∀ q ∈ e.2.q, ∀ k ∈ q.2, k.id ≠ id

/-- A command behind some others of its queue: its unit runs and its issuer has not ended, its inputs are complete with
success, and no page service holds it (R80, R113, R117). -/
def ReadyBehind (s : State) (seq q : Nat) (js : List Cmd) (k : Cmd) : Prop :=
  Orderly s ∧ s.queue seq q = js ++ [k] ∧ k.id ≠ 0 ∧ k.page = none ∧ k.bad = none ∧ s.stopping k.uid = false ∧ issuerGone s k = false ∧
  inputsDone k.ins = true ∧ firstFault k.ins = none

/-- Such a command alone in its queue. -/
def ReadyCmd (s : State) (seq q : Nat) (k : Cmd) : Prop := ReadyBehind s seq q [] k

/-- The only command of a fragment's queues stands in one of the two array queues, and the fragment is not being saved; no
row is on its way in a chain (R36, R81, R87, R107). -/
def ArrayTurn (s : State) (seq q : Nat) (k : Cmd) : Prop :=
  q < 2 ∧ ReadyCmd s seq q k ∧ (s.frag seq).q = [(q, [k])] ∧ 0 < tickOf s seq ∧
  (∀ x ∈ s.chains, x.flight = []) ∧ edgeStuck s seq = false ∧ s.stops k = false

/-- The command that reports a fault of its own: cause and progress, with its PC and word (R116). -/
def Cmd.faulted (k : Cmd) (cause prog : Nat) : Done := ⟨statusWord cause prog, k.pc, k.word⟩

/-- Every element of a stream has locations of its own in plain memory, element `j` from key `key j` on, which the command's
translation gives whatever the bytes of memory become (R123, R171). -/
def StreamAt (s : State) (k : Cmd) (op : MemOp) (d : Sd) (key : Nat → Nat) : Prop :=
  ∀ j < d.count', ∃ ls, Plain ls (key j) d.size ∧
    ∀ t : State, t = { s with mem := t.mem, eccPart := t.eccPart, twSeen := t.twSeen } →
      useLoc t k op (d.elem j).1 d.size = .ok ls
/-- Element `j` of a stream at such keys: a nibble of a byte for 4-bit elements (R123). -/
def streamVal (s : State) (d : Sd) (key : Nat → Nat) (j : Nat) : Nat :=
  let v := memNat s (key j) d.size
  if d.four then (if (d.elem j).2 then v / 16 else v % 16) else v
/-- Element `i` of one stream at key `x` and element `j` of another at key `y` share no bit. -/
def elemsApart (d e : Sd) (i j x y : Nat) : Prop :=
  x + d.size ≤ y ∨ y + e.size ≤ x ∨ (d.four = true ∧ (d.elem i).2 ≠ (e.elem j).2)
/-- The command's launch is no REPLICA launch: its stores are performed (R55, R56). -/
def ownWrites (s : State) (k : Cmd) : Prop :=
  k.sec = false ∧ ((s.launch? k.lid).map (·.lpb.replica)).getD false = false

/-- A handler can run: the context is in user mode and TVEC is not 0 (R213). -/
def HandlerReady (s : State) : Prop := s.cur.sm = false ∧ s.cur.tvec ≠ 0

/-- A packet of another package's die arrives in order at the gateway of a compute die, or for the control die (15) at one
that passes it on, over its open link: the ports are up, the gateway's die is not in reset, and the packet's incarnation is
not stale (R14, R16, R22, R204, R205). -/
def Comes (s : State) (gw : Nat) (h : FHdr) : Prop :=
  h.srcPkg ≠ s.pkg ∧ s.fab.portsUp = true ∧ (gw < 12 ∨ gw = 15) ∧ (s.die (gateOf s gw)).resetAt = none ∧
  staleSrc s gw h = false ∧ (gw = 15 → ctlAway s (gateOf s 15) = false)

/-- One packet more waits in the ports: a reply to the requester that the header names, in the port that R190 chooses. -/
def Replies (s t : State) (rdie : Nat) (h : FHdr) (m : FMsg) : Prop :=
  let g := gateOf s rdie
  let p := choosePort s g
  (t.port g p).q = (s.port g p).q ++
    [⟨⟨h.reqPkg, { h with srcPkg := s.pkg, srcDie := rdie, inc := (s.die rdie).inc, seq := 0 }, m⟩, g, 16, none, 0, 0⟩] ∧
  (∀ k, k ≠ 4 * g + p → Store.get Port.reset t.fab.ports k = Store.get Port.reset s.fab.ports k) ∧ t.fab.out = s.fab.out

/-- A packet with a property waits in some port of this package. -/
def Leaves (t : State) (p : FPkt → Prop) : Prop := ∃ die i, ∃ o ∈ (t.port die i).q, p o.pkt

/-- Of the state only the fabric's part and bytes at the locations change. -/
def RemoteStep (s t : State) (ls : List Loc) : Prop :=
  t = { s with fab := t.fab, mem := t.mem, ecc := t.ecc, twSeen := t.twSeen, accs := t.accs } ∧
  ∀ k, (∀ l ∈ ls, ¬ l.touches k) → memByte t k = memByte s k

/-- The queue's thread runs and its next packet has the two words `w`: a well-formed one that step `i` takes (R241,
R243). -/
def PacketTurn (s : State) (q : Nat) (w : W64 × W64) (i : Instr) : Prop :=
  let h := s.hq q
  q < 32 ∧ h.st = .run ∧ h.opening = false ∧ (h.levels = [] → h.head.toNat < h.efftail) ∧
  (Tab.get? h.ahead (packetKey h 0) = some w ∨
    (Tab.get? h.ahead (packetKey h 0) = none ∧ readPacket s h 0 = .ok (some w))) ∧
  packetOk (Packet.ofWords w.1 w.2) = true ∧ (Packet.ofWords w.1 w.2).step? q = some i

/-- The state with that packet held as read (R242). -/
def withPacket (s : State) (q : Nat) (w : W64 × W64) : State :=
  s.modHq q (fun h => { h with ahead := Tab.set h.ahead (packetKey h 0) w })

/-- The thread went past its packet: on in the innermost buffer, or HEAD is one higher. -/
def Taken (s t : State) (q : Nat) : Prop :=
  (t.hq q).levels = (stepLevels (s.hq q).levels).1 ∧
  (t.hq q).head = if (stepLevels (s.hq q).levels).2 then (s.hq q).head + 1 else (s.hq q).head

/-- Only one queue and the messages to hosts change. -/
def OnlyQueue (s t : State) (q : Nat) : Prop :=
  t = { s with queues := t.queues, msis := t.msis } ∧ ∀ r, r ≠ q → t.hq r = s.hq r

/-- The owner may give a mailbox command: supply, a running firmware, no command running (R238, R248). -/
def MayCommand (s : State) (m : W16) : Prop :=
  isOwner s m = true ∧ s.boot.running.isSome = true ∧ s.mbox.status ≠ 0
/-- The management interface may give one. -/
def MayManage (s : State) : Prop := s.boot.powered = true ∧ s.mbox.status ≠ 0

end Machine
end Sys2Proof
end

