-- ==== Sys2Proof/Certificates/Slice0/Obligations.lean ====
section
/-! DEFINITION. What is claimed of the model: statements for the provers, each citing the rules of spec/ that it
formalises or rests on. -/
open Sys2Proof Sys2Proof.Machine

/- Scalar instructions -/

/-- R277, R318, R324, R326, R332, R335, R361: the two-register operations complete with the listed 64-bit value in
g[D] (discarded for g0, R260), change nothing else and go on to PC + 8. Shift counts are taken modulo 64. -/
def Obligations.ScalarTwoRegister : Prop :=
  ∀ (s : State) (gd : Guard) (d a b : GReg), Issues s gd →
    let x := s.cur.rg a
    let y := s.cur.rg b
    Gives (exec (.add gd d a b) s) (fun t => RegStep s t d (x + y)) ∧
    Gives (exec (.sub gd d a b) s) (fun t => RegStep s t d (x - y)) ∧
    Gives (exec (.and gd d a b) s) (fun t => RegStep s t d (x &&& y)) ∧
    Gives (exec (.andn gd d a b) s) (fun t => RegStep s t d (x &&& ~~~y)) ∧
    Gives (exec (.or gd d a b) s) (fun t => RegStep s t d (x ||| y)) ∧
    Gives (exec (.xor gd d a b) s) (fun t => RegStep s t d (x ^^^ y)) ∧
    Gives (exec (.mul gd d a b) s) (fun t => RegStep s t d (BitVec.ofNat 64 (x.toNat * y.toNat))) ∧
    Gives (exec (.mulhu gd d a b) s) (fun t => RegStep s t d (BitVec.ofNat 64 (x.toNat * y.toNat / 2 ^ 64))) ∧
    Gives (exec (.mulh gd d a b) s) (fun t => RegStep s t d (BitVec.ofInt 64 ((x.toInt * y.toInt) / 2 ^ 64))) ∧
    Gives (exec (.max gd d a b) s) (fun t => RegStep s t d (BitVec.ofInt 64 (max x.toInt y.toInt))) ∧
    Gives (exec (.min gd d a b) s) (fun t => RegStep s t d (BitVec.ofInt 64 (min x.toInt y.toInt))) ∧
    Gives (exec (.maxu gd d a b) s) (fun t => RegStep s t d (BitVec.ofNat 64 (max x.toNat y.toNat))) ∧
    Gives (exec (.minu gd d a b) s) (fun t => RegStep s t d (BitVec.ofNat 64 (min x.toNat y.toNat))) ∧
    Gives (exec (.shl gd d a b) s) (fun t => RegStep s t d (BitVec.ofNat 64 (x.toNat * 2 ^ (y.toNat % 64)))) ∧
    Gives (exec (.shr gd d a b) s) (fun t => RegStep s t d (BitVec.ofNat 64 (x.toNat / 2 ^ (y.toNat % 64)))) ∧
    Gives (exec (.shra gd d a b) s) (fun t => RegStep s t d (BitVec.ofInt 64 (x.toInt / 2 ^ (y.toNat % 64))))

/-- R278, R301, R316, R331, R332, R326, R361: the operations of one register, an immediate or a predicate complete
with the listed value in g[D]; immediates of 32 bits are sign-extended, LIH keeps the low half. -/
def Obligations.ScalarImmediate : Prop :=
  ∀ (s : State) (gd : Guard) (d a b : GReg) (imm : W32) (sh : BitVec 6) (c : PNum) (width : ExtW) (sgn : Bool),
    Issues s gd →
    let x := s.cur.rg a
    let y := s.cur.rg b
    let i := imm.signExtend 64
    let bits := match width with | .b => 8 | .h => 16 | .w => 32
    Gives (exec (.addi gd d a imm) s) (fun t => RegStep s t d (x + i)) ∧
    Gives (exec (.andi gd d a imm) s) (fun t => RegStep s t d (x &&& i)) ∧
    Gives (exec (.ori gd d a imm) s) (fun t => RegStep s t d (x ||| i)) ∧
    Gives (exec (.xori gd d a imm) s) (fun t => RegStep s t d (x ^^^ i)) ∧
    Gives (exec (.shli gd d a sh) s) (fun t => RegStep s t d (BitVec.ofNat 64 (x.toNat * 2 ^ sh.toNat))) ∧
    Gives (exec (.shri gd d a sh) s) (fun t => RegStep s t d (BitVec.ofNat 64 (x.toNat / 2 ^ sh.toNat))) ∧
    Gives (exec (.shrai gd d a sh) s) (fun t => RegStep s t d (BitVec.ofInt 64 (x.toInt / 2 ^ sh.toNat))) ∧
    Gives (exec (.li gd d imm) s) (fun t => RegStep s t d i) ∧
    Gives (exec (.lih gd d a imm) s) (fun t => RegStep s t d (BitVec.ofNat 64 (imm.toNat * 2 ^ 32 + x.toNat % 2 ^ 32))) ∧
    Gives (exec (.ext gd d a width sgn) s) (fun t => RegStep s t d
      (if sgn then (x.setWidth bits).signExtend 64 else (x.setWidth bits).zeroExtend 64)) ∧
    Gives (exec (.sel gd d a b c) s) (fun t => RegStep s t d (if s.cur.rp c then x else y))

/-- R294, R327: CLZ writes the number of zero bits above the most significant set bit, 64 for 0; POPC writes the
number of set bits. -/
def Claims.BitCounts : Prop :=
  ∀ (s : State) (gd : Guard) (d a : GReg), Issues s gd →
    let x := s.cur.rg a
    Gives (exec (.clz gd d a) s) (fun t => ∃ n ≤ 64, RegStep s t d (BitVec.ofNat 64 n) ∧
      (∀ j, 64 - n ≤ j → j < 64 → x.getLsbD j = false) ∧ (n < 64 → x.getLsbD (63 - n) = true)) ∧
    Gives (exec (.popc gd d a) s) (fun t =>
      RegStep s t d (BitVec.ofNat 64 ((List.range 64).filter (fun j => x.getLsbD j)).length))

/-- R159, R296, R330: division truncates towards zero; by zero a quotient is all ones, a remainder the dividend, and
IDZ is set; the most negative value by -1 wraps. No other flag changes. -/
def Claims.Division : Prop :=
  ∀ (s : State) (gd : Guard) (d a b : GReg), Issues s gd →
    let x := s.cur.rg a
    let y := s.cur.rg b
    let fl := if y = 0 then fIDZ else 0
    Gives (exec (.div gd d a b) s) (fun t => RegFlagStep s t d
      (if y = 0 then BitVec.allOnes 64 else BitVec.ofInt 64 (Int.tdiv x.toInt y.toInt)) fl) ∧
    Gives (exec (.divu gd d a b) s) (fun t => RegFlagStep s t d
      (if y = 0 then BitVec.allOnes 64 else BitVec.ofNat 64 (x.toNat / y.toNat)) fl) ∧
    Gives (exec (.rem gd d a b) s) (fun t => RegFlagStep s t d
      (if y = 0 then x else BitVec.ofInt 64 (Int.tmod x.toInt y.toInt)) fl) ∧
    Gives (exec (.remu gd d a b) s) (fun t => RegFlagStep s t d
      (if y = 0 then x else BitVec.ofNat 64 (x.toNat % y.toNat)) fl)

/-- R295, R321, R328: CMP and CMPI write the comparison to p[D]; PSET and MLOG write SUB[2a + b] of the two source
bits, MLOG lane by lane. -/
def Obligations.PredicatesAndMasks : Prop :=
  ∀ (s : State) (gd : Guard) (d p q : PNum) (a b : GReg) (cond : Cond) (imm : W32) (md ma mb : MNum) (tbl : BitVec 4),
    Issues s gd →
    let holds (x y : W64) : Bool := match cond with
      | .eq => decide (x = y)
      | .ne => decide (x ≠ y)
      | .lt => decide (x.toInt < y.toInt)
      | .ge => decide (y.toInt ≤ x.toInt)
      | .ltu => decide (x.toNat < y.toNat)
      | .geu => decide (y.toNat ≤ x.toNat)
    let table (u v : Bool) : Bool := tbl.getLsbD (2 * u.toNat + v.toNat)
    Gives (exec (.cmp gd d a b cond) s) (fun t => PredStep s t d (holds (s.cur.rg a) (s.cur.rg b))) ∧
    Gives (exec (.cmpi gd d a cond imm) s) (fun t => PredStep s t d (holds (s.cur.rg a) (imm.signExtend 64))) ∧
    Gives (exec (.pset gd d p q tbl) s) (fun t => PredStep s t d (table (s.cur.rp p) (s.cur.rp q))) ∧
    Gives (exec (.mlog gd md ma mb tbl) s) (fun t => ∃ x, MaskStep s t md x 0 ∧
      ∀ i < 128, x.getLsbD i = table ((s.cur.rm ma).getLsbD i) ((s.cur.rm mb).getLsbD i))

/-- R257, R290, R307, R317, R325: BR and BRL go to PC + 8 × offset, JR and JRL to g[A] + offset where that is a
multiple of 8; BRL and JRL link PC + 8 in g63, taken after the target is formed; LOOP decrements and branches unless
the result is 0; NOP only moves on. -/
def Obligations.ControlFlow : Prop :=
  ∀ (s : State) (gd : Guard) (a : GReg) (off : W32), Issues s gd →
    let near := s.cur.pc + 8 * off.signExtend 64
    let far := s.cur.rg a + off.signExtend 64
    let v := s.cur.rg a - 1
    let links (t : State) (pc : W64) : Prop :=
      t.cur.rg 63#6 = s.cur.pc + 8 ∧ (∀ r, r ≠ 63#6 → t.cur.rg r = s.cur.rg r) ∧
      t.cur = { s.cur with g := t.cur.g, pc := pc, wait := .none } ∧ OnlyCur s t
    Gives (exec (.br gd off) s) (fun t => PcStep s t near) ∧
    Gives (exec (.brl gd off) s) (fun t => links t near) ∧
    (far.toNat % 8 = 0 → Gives (exec (.jr gd a off) s) (fun t => PcStep s t far)) ∧
    (far.toNat % 8 = 0 → Gives (exec (.jrl gd a off) s) (fun t => links t far)) ∧
    Gives (exec (.loop gd a off) s) (fun t => t.cur.rg a = (if a = 0#6 then 0 else v) ∧
      (∀ r, r ≠ a → t.cur.rg r = s.cur.rg r) ∧
      t.cur = { s.cur with g := t.cur.g, pc := if v = 0 then s.cur.pc + 8 else near, wait := .none } ∧ OnlyCur s t) ∧
    Gives (exec (.nop gd) s) (fun t => PcStep s t (s.cur.pc + 8))

/-- R257, R214: a JR or JRL whose target is not a multiple of 8 traps with ALIGN, TADDR the target, access kind 3; it
neither branches nor links. -/
def Claims.JumpAlignment : Prop :=
  ∀ (s : State) (gd : Guard) (a : GReg) (off : W32), Issues s gd → HandlerReady s →
    let far := s.cur.rg a + off.signExtend 64
    far.toNat % 8 ≠ 0 →
    Gives (exec (.jr gd a off) s) (fun t => TrapStep s t (wordOf (.jr gd a off)) 0x03 far 3) ∧
    Gives (exec (.jrl gd a off) s) (fun t => TrapStep s t (wordOf (.jrl gd a off)) 0x03 far 3)

/-- R213, R214, R336, R339: SYS traps with its immediate in TDATA; TRAPF traps with AFLAGS AND AMASK where that is not
0, else only moves on. Taking a trap saves the PC, the word, the cause, TADDR and TDATA, sets SM and goes to TVEC. -/
def Claims.SoftwareTraps : Prop :=
  ∀ (s : State) (gd : Guard) (code : BitVec 28), Issues s gd → HandlerReady s →
    let f := s.cur.aflags &&& s.cur.amask
    Gives (exec (.sys gd code) s) (fun t => TrapStep s t (wordOf (.sys gd code)) 0x0D 0 (code.zeroExtend 64)) ∧
    Gives (exec (.trapf gd) s) (fun t =>
      if f = 0 then PcStep s t (s.cur.pc + 8) else TrapStep s t (wordOf (.trapf gd)) 0x0C 0 f)

/-- R299: ERET in supervisor mode sets SM to 0 and goes to TPC; no other register changes. -/
def Claims.EretReturns : Prop :=
  ∀ (s : State) (gd : Guard), Issues s gd → s.cur.sm = true →
    Gives (exec (.eret gd) s) (fun t =>
      t.cur = { s.cur with sm := false, pc := s.cur.tpc, wait := .none } ∧ OnlyCur s t)

/-- R299, R329, R219, R261 step 4: in user mode ERET, QMARK, and MFC and MTC of numbers 0x100 and above trap with PRIV
into the handler; TDATA is the register number for MFC and MTC, else 0. -/
def Claims.PrivilegeTraps : Prop :=
  ∀ (s : State) (gd : Guard) (mask : BitVec 6) (d a : GReg) (num : BitVec 12), Issues s gd → HandlerReady s →
    Gives (exec (.eret gd) s) (fun t => TrapStep s t (wordOf (.eret gd)) 0x02 0 0) ∧
    Gives (exec (.qmark gd mask) s) (fun t => TrapStep s t (wordOf (.qmark gd mask)) 0x02 0 0) ∧
    (0x100 ≤ num.toNat →
      Gives (exec (.mfc gd d num) s) (fun t => TrapStep s t (wordOf (.mfc gd d num)) 0x02 0 (num.zeroExtend 64)) ∧
      Gives (exec (.mtc gd a num) s) (fun t => TrapStep s t (wordOf (.mtc gd a num)) 0x02 0 (num.zeroExtend 64)))

/- Control registers -/

/-- R37, R38, R84, R215, R219, R319: MFC writes the value of a listed control register to g[D]; numbers of 0x100 and
above need supervisor mode. -/
def Obligations.ControlRegisterReads : Prop :=
  ∀ (s : State) (gd : Guard) (d : GReg), Issues s gd →
    let c := s.cur
    let f := s.frag c.arr
    let reads (n : BitVec 12) (v : W64) : Prop := Gives (exec (.mfc gd d n) s) (fun t => RegStep s t d v)
    (∀ k < 16, reads (BitVec.ofNat 12 (0x010 + k)) (Store.get 0 c.lparam k)) ∧
    (∀ e ∈ ([(0x000#12, u64 c.unit), (0x001#12, u64 c.nunits), (0x002#12, c.lhandle),
        (0x003#12, u64 (shapeCode f.h f.w)), (0x004#12, u64 (c.arr % 16)), (0x005#12, u64 (c.seq / 16)),
        (0x006#12, u64 s.pkg), (0x007#12, u64 c.compid), (0x008#12, u64 c.nfrag), (0x009#12, u64 (128 * f.h)),
        (0x00A#12, u64 (128 * f.w)), (0x00B#12, u64 c.slot), (0x020#12, c.aflags), (0x021#12, c.amask),
        (0x022#12, c.rmode), (0x023#12, u64 (2 * f.geom + if f.dual then 1 else 0)), (0x024#12, c.splive),
        (0x025#12, c.acclive), (0x030#12, u64 (s.cycle (c.seq / 16))), (0x031#12, s.ftime (c.seq / 16))] : List (BitVec 12 × W64)),
      reads e.1 e.2) ∧
    (c.sm = true →
      ∀ e ∈ ([(0x100#12, c.tcause), (0x101#12, c.tpc), (0x102#12, c.tword), (0x103#12, c.taddr), (0x104#12, c.tdata),
          (0x105#12, c.tvec), (0x106#12, u64 ((if c.pfh then 2 else 0) + if c.sm then 1 else 0)), (0x107#12, c.sscr),
          (0x108#12, c.ctxid.zeroExtend 64)] : List (BitVec 12 × W64)),
        reads e.1 e.2)

/-- R215, R219, R319: MTC of a legal value writes the register and nothing else; a value that the register does not
admit traps with MODE, TDATA the value. TSTAT and CTXID stay as they are. -/
def Claims.ListedWrites : Prop :=
  ∀ (s : State) (gd : Guard) (a : GReg), Issues s gd →
    let x := s.cur.rg a
    let c := s.cur
    let on (c : Ctx) : Ctx := { c with pc := c.pc + 8, wait := .none }
    let writes (n : BitVec 12) (legal : Prop) (new : Ctx) : Prop :=
      (legal → Gives (exec (.mtc gd a n) s) (fun t => t.cur = on new ∧ OnlyCur s t)) ∧
      (¬ legal → HandlerReady s ∧ n.toNat < 0x100 →
        Gives (exec (.mtc gd a n) s) (fun t => TrapStep s t (wordOf (.mtc gd a n)) 0x16 0 x))
    writes 0x020 (x.toNat < 256) { c with aflags := x } ∧
    writes 0x021 (x.toNat < 256) { c with amask := x } ∧
    writes 0x022 (x.toNat < 5) { c with rmode := x } ∧
    writes 0x024 (x.toNat ≤ 2 ^ 24 ∧ x.toNat % 64 = 0) { c with splive := x } ∧
    writes 0x025 (x.toNat ≤ 4096) { c with acclive := x } ∧
    (c.sm = true →
      writes 0x100 (x.toNat < 128) { c with tcause := x } ∧
      writes 0x101 True { c with tpc := x } ∧
      writes 0x102 True { c with tword := x } ∧
      writes 0x103 True { c with taddr := x } ∧
      writes 0x104 True { c with tdata := x } ∧
      writes 0x105 (x.toNat % 8 = 0) { c with tvec := x } ∧
      writes 0x106 (x.toNat < 4) c ∧
      writes 0x107 True { c with sscr := x } ∧
      writes 0x108 (x.toNat < 65536) c)

/-- R84, R319: once both array queues have drained, an MTC of AMODE that names another geometry sets it, makes both
weight planes invalid and clears both halves of every bank of the fragment; where DUAL becomes 1, both queues have the
configuration that stood, and where it becomes 0 that of AFG is the single one; of the same value it has no effect but to
move on; one of 6 and above traps with MODE; before the queues have drained it stalls. -/
def Claims.ArrayModeWrite : Prop :=
  ∀ (s : State) (gd : Guard) (a : GReg), Issues s gd →
    let x := (s.cur.rg a).toNat
    let f := s.frag s.cur.arr
    let idle := drained s s.cur 0 = true ∧ drained s s.cur 1 = true
    (¬ idle → Gives (exec (.mtc gd a 0x023) s) (fun t => StallStep s t .stall)) ∧
    (idle → 6 ≤ x → HandlerReady s →
      Gives (exec (.mtc gd a 0x023) s) (fun t => TrapStep s t (wordOf (.mtc gd a 0x023)) 0x16 0 (s.cur.rg a))) ∧
    (idle → x < 6 → Gives (exec (.mtc gd a 0x023) s) (fun t =>
      let g := t.frag s.cur.arr
      t.cur = { s.cur with pc := s.cur.pc + 8, wait := .none } ∧
      t = { s with cur := t.cur, frags := t.frags, accs := t.accs, ecc := t.ecc } ∧ (∀ e ∈ t.ecc, e ∈ s.ecc) ∧
      g.geom = x / 2 ∧ g.dual = decide (x % 2 = 1) ∧ (∀ i, i ≠ s.cur.arr → t.frag i = s.frag i) ∧
      g = { f with geom := g.geom, dual := g.dual, plane0 := { f.plane0 with valid := g.plane0.valid }
                   plane1 := { f.plane1 with valid := g.plane1.valid }, edge1 := g.edge1, lastQ := g.lastQ } ∧
      (f.dual = false → g.dual = true → g.edge1 = f.edge0) ∧ (g.dual = f.dual → g.edge1 = f.edge1) ∧
      (f.geom = x / 2 → f.dual = decide (x % 2 = 1) → t = { s with cur := t.cur }) ∧
      (f.geom = x / 2 → ∀ k, Store.get 0 t.accs k = Store.get 0 s.accs k) ∧
      (f.geom ≠ x / 2 ∨ f.dual ≠ decide (x % 2 = 1) → g.plane0.valid = false ∧ g.plane1.valid = false) ∧
      (f.geom ≠ x / 2 → ∀ k, (k / 2 ^ 20 ∈ panesOf s.cur.arr f.h f.w → Store.get 0 t.accs k = 0) ∧
        (k / 2 ^ 20 ∉ panesOf s.cur.arr f.h f.w → Store.get 0 t.accs k = Store.get 0 s.accs k))))

/- Scalar memory -/

/-- R311: LD of checked locations writes their bytes, the lowest address in bits [7:0], sign- or zero-extended, and
changes nothing else; its own latest WC stores show first (R174). -/
def Claims.ScalarLoads : Prop :=
  ∀ (s : State) (gd : Guard) (d a : GReg) (sz : BitVec 2) (sgn : Bool) (hint : BitVec 4) (off : W32)
    (ls : List Loc) (leaf : Option Leaf), Issues s gd →
    let n := 2 ^ sz.toNat
    let addr := s.cur.rg a + off.signExtend 64
    scalarAccess s .load addr n = .ok (ls, leaf) →
    let x := loadLocs s ls % 2 ^ (8 * n)
    Gives (exec (.ld gd d a sz sgn hint off) s) (fun t =>
      RegStep s t d (if sgn then (BitVec.ofNat (8 * n) x).signExtend 64 else (BitVec.ofNat (8 * n) x).zeroExtend 64)) ∧
    ∀ key, Plain ls key n → s.cur.wc = [] → loadLocs s ls = memNat s key n

/-- R311, R174, R185: ST of checked locations changes no register but the PC and no byte of memory but those at its
locations, which take the low bytes of g[D]; to a WC page the bytes are held instead; ST.sys stores alike where no
WC store is held; a REPLICA secondary stores nothing in global memory (R55). -/
def Claims.ScalarStores : Prop :=
  ∀ (s : State) (gd : Guard) (d a : GReg) (sz : BitVec 2) (sys : Bool) (off : W32) (ls : List Loc)
    (leaf : Option Leaf), Issues s gd →
    let n := 2 ^ sz.toNat
    let addr := s.cur.rg a + off.signExtend 64
    let v := (s.cur.rg d).toNat % 2 ^ (8 * n)
    scalarAccess s .store addr n = .ok (ls, leaf) →
    (NotReplica s → notWc leaf → (sys = true → s.cur.wc = []) →
      Gives (exec (.st gd d a sz sys off) s) (fun t =>
        StoreStep s t ls ∧ ∀ key, Plain ls key n → memNat t key n = v)) ∧
    (NotReplica s → (∃ l, leaf = some l ∧ l.mt = 1) → sys = false → ∀ key, Plain ls key n →
      Gives (exec (.st gd d a sz sys off) s) (fun t =>
        (∃ held : List WcByte, held.length = n ∧
          (∀ i (b : WcByte), held[i]? = some b → b.va = addr + u64 i ∧ b.phys = key + i ∧
            b.first = addr ∧ b.byte.toNat = v / 256 ^ i % 256 ∧ b.since = s.now) ∧
          t.cur = { s.cur with wc := s.cur.wc ++ held, pc := s.cur.pc + 8, wait := .none }) ∧
        OnlyCur s t)) ∧
    (isReplica s = true → s.cur.sec = true → addr.toNat < 2 ^ 54 → sys = false →
      Gives (exec (.st gd d a sz sys off) s) (fun t =>
        t.cur = { s.cur with pc := s.cur.pc + 8, wait := .none } ∧ SameMem s t ∧ t.cur.wc = s.cur.wc))

/-- R281, R292: AMO and CAS of checked locations write the zero-extended old value to g[D] and the new value to the
locations, and change nothing else; a CAS that does not compare equal leaves memory as it was. -/
def Claims.Atomics : Prop :=
  ∀ (s : State) (gd : Guard) (d a b c : GReg) (op : AmoOp) (wide : Bool) (ls : List Loc) (leaf : Option Leaf),
    Issues s gd → isReplica s = false →
    let n := if wide then 8 else 4
    let addr := s.cur.rg a
    scalarAccess s .atomic addr n = .ok (ls, leaf) →
    let old := readLocs s ls
    let x := (s.cur.rg b).toNat % 2 ^ (8 * n)
    let y := (s.cur.rg c).toNat % 2 ^ (8 * n)
    let signed (v : Nat) : Int := (BitVec.ofNat (8 * n) v).toInt
    let new := match op with
      | .add => (old + x) % 2 ^ (8 * n)
      | .and => old &&& x
      | .or => old ||| x
      | .xor => old ^^^ x
      | .min => if signed old ≤ signed x then old else x
      | .max => if signed x ≤ signed old then old else x
      | .minu => Nat.min old x
      | .maxu => Nat.max old x
      | .xchg => x
      | .badd => if old + x ≤ y then old + x else old
    Gives (exec (.amo gd d a b c op wide) s) (fun t =>
      AtomicStep s t d (u64 old) ls ∧ ∀ key, Plain ls key n → old = memNat s key n ∧ memNat t key n = new) ∧
    Gives (exec (.cas gd d a b c wide) s) (fun t =>
      AtomicStep s t d (u64 old) ls ∧ (old ≠ y → SameMem s t) ∧
      ∀ key, Plain ls key n → old = y → memNat t key n = x)

/-- R174, R184, R302, R354: WAITGE goes on once the value read reaches g[D] and else waits; its re-read does the
same; FENCE with drained queues goes on, with the held WC stores visible where it names .wc or .sys and the
instruction cache empty where it names .ifetch, and .eng stalls while a queue holds an entry. A WC store becomes visible at
its time-out: the bytes of the oldest store time that nothing holds, at any moment that the schedule names (the model's
choice, assumption 10). A byte whose home a link's window or a reset closes is held until then (R14, R22), and the FENCE
does not go on before; when it lands it goes to the place that the tables give then, over a later store there (the model's
choice, assumption 75). -/
def Obligations.WaitsAndFences : Prop :=
  ∀ (s : State) (gd : Guard), Issues s gd →
    (∀ (d a : GReg) (sz : BitVec 2) (sgn : Bool) (hint : BitVec 4) (off : W32) (ls : List Loc) (leaf : Option Leaf),
      let n := 2 ^ sz.toNat
      let i : Instr := .waitge gd d a sz sgn hint off
      scalarAccess s .watch (s.cur.rg a + off.signExtend 64) n = .ok (ls, leaf) →
      let x := BitVec.ofNat (8 * n) (readLocs s ls)
      let met := if sgn then (s.cur.rg d).toInt ≤ x.toInt else (s.cur.rg d).toNat ≤ x.toNat
      let after (t : State) : Prop := if met then PcStep s t (s.cur.pc + 8) else StallStep s t .quantum
      Gives (exec i s) after ∧
      (s.cur.wait = .quantum → ∀ w, fetchWord s = .ok (w, s) → decode w = .ok i →
        Gives (exec (.waitgeRead s.cur.cid) s) after)) ∧
    (∀ wc sys eng ifetch : Bool,
      let i : Instr := .fence gd wc sys eng ifetch
      (eng = true → allDrained s s.cur = false → wc = false → sys = false →
        Gives (exec i s) (fun t => StallStep s t .stall)) ∧
      (wc = true ∨ sys = true → wcKept s s.cur.who s.cur.wc ≠ [] → Gives (exec i s) (fun t =>
        t.cur = { s.cur with wc := wcKept s s.cur.who s.cur.wc, wait := .stall, since := t.cur.since } ∧
        Flushed s t (wcGoing s s.cur.who s.cur.wc))) ∧
      (((wc = true ∨ sys = true) → wcKept s s.cur.who s.cur.wc = []) → (eng = true → allDrained s s.cur = true) →
        Gives (exec i s) (fun t =>
        t.cur = { s.cur with wc := if wc || sys then [] else s.cur.wc, pc := s.cur.pc + 8, wait := .none,
                             icache := if ifetch then [] else s.cur.icache } ∧
        t = { s with cur := t.cur, mem := t.mem, ecc := t.ecc, twSeen := t.twSeen, accs := t.accs } ∧
        Flushed s t (if wc || sys then wcGoing s s.cur.who s.cur.wc else [])))) ∧
    (let kept := wcKept s s.cur.who s.cur.wc
     let out : Instr := .wcVisibilityTimeout s.cur.cid
     ((∀ x ∈ s.cur.wc, x ∈ kept) → exec out s = .next s) ∧
     ∀ b, s.cur.wc.find? (fun x => !kept.contains x) = some b →
      Gives (exec out s) (fun t =>
        t.cur = { s.cur with wc := s.cur.wc.filter (fun x => x.since != b.since || kept.contains x) } ∧
        t = { s with cur := t.cur, mem := t.mem, ecc := t.ecc, twSeen := t.twSeen, accs := t.accs } ∧
        Flushed s t (wcPlaces s s.cur.who kept (s.cur.wc.filter (fun x => x.since = b.since)))))

/-- R163, R164, R165, R169, R172, R214: an access that is not a multiple of its size traps with ALIGN, one in no window
with WINDOW; where the walk ends at a level without a valid entry it traps with XLATE, where the leaf's owner is
another context with PERM. TADDR is the address; TDATA is the access kind and 16 times the level. -/
def Claims.AccessTraps : Prop :=
  ∀ (s : State) (gd : Guard) (d a : GReg) (sz : BitVec 2) (sgn : Bool) (hint : BitVec 4) (off : W32),
    Issues s gd → HandlerReady s →
    let n := 2 ^ sz.toNat
    let addr := s.cur.rg a + off.signExtend 64
    let both (cause rd wr : Nat) : Prop :=
      Gives (exec (.ld gd d a sz sgn hint off) s) (fun t =>
        TrapStep s t (wordOf (.ld gd d a sz sgn hint off)) cause addr (u64 rd)) ∧
      Gives (exec (.st gd d a sz false off) s) (fun t =>
        TrapStep s t (wordOf (.st gd d a sz false off)) cause addr (u64 wr))
    (addr.toNat % n ≠ 0 → both 0x03 0 1) ∧
    (addr.toNat % n = 0 → 2 ^ 54 ≤ addr.toNat → addr.toNat < 0xFFFFF00000000000 → both 0x04 0 1) ∧
    (addr.toNat % n = 0 → addr.toNat < 2 ^ 54 → s.cur.pfh = true → translateHeld s s.cur.ctxid addr.toNat = false →
      (∀ lv, translate s s.cur.ctxid addr.toNat = .error lv → both 0x05 (16 * lv) (1 + 16 * lv)) ∧
      (∀ l lv, translate s s.cur.ctxid addr.toNat = .ok (l, lv) → l.owner ≠ s.cur.ctxid →
        both 0x06 (16 * lv) (1 + 16 * lv)))

/-- R172, R221: under the firmware setting an XLATE fault of a load does not trap: the context waits for control-die
firmware with the fault noted, and once the page is declined the trap is taken, once firmware reports it mapped the
instruction may execute again. Entries whose die is in reset or behind a retraining link are not written yet (R14, R22). -/
def Claims.PageService : Prop :=
  ∀ (s : State) (gd : Guard) (d a : GReg) (sz : BitVec 2) (sgn : Bool) (hint : BitVec 4) (off : W32) (lv : Nat),
    Issues s gd → s.cur.pfh = false →
    let n := 2 ^ sz.toNat
    let addr := s.cur.rg a + off.signExtend 64
    let w := wordOf (.ld gd d a sz sgn hint off)
    addr.toNat % n = 0 → addr.toNat < 2 ^ 54 → translateHeld s s.cur.ctxid addr.toNat = false →
    translate s s.cur.ctxid addr.toNat = .error lv →
    Gives (exec (.ld gd d a sz sgn hint off) s) (fun t =>
      t.cur = { s.cur with wait := .page, since := t.cur.since, pfault := some (0x05, addr, u64 (16 * lv), w) } ∧
      OnlyCur s t ∧
      (∀ es, entriesHeld t (some es) = false →
        Gives (exec (.firmwarePageServiceDone s.cur.cid none (some es)) t) (fun u =>
        u.cur = { s.cur with since := t.cur.since, wait := .none } ∧
        u = { s with cur := u.cur, mem := u.mem, ecc := u.ecc, twSeen := u.twSeen } ∧ (es = [] → OnlyCur s u))) ∧
      (HandlerReady s → Gives (exec (.firmwarePageServiceDone s.cur.cid none none) t) (fun u =>
        u.cur.tcause = 0x05 ∧ u.cur.tpc = s.cur.pc ∧ u.cur.tword = w ∧ u.cur.taddr = addr ∧
        u.cur.tdata = u64 (16 * lv) ∧ u.cur.sm = true ∧ u.cur.pc = s.cur.tvec ∧ OnlyCur s u)))

/-- R120, R168, R221: firmware's answer that maps a page completes whatever context or engine command waits at it: the
entry's two words stand in the page table, no other byte of memory changes, and the wait ends, so that the access is made
again. While the entry's die is in reset or behind a retraining link nothing changes (R14, R22). -/
def Claims.PageServiceCompletes : Prop :=
  ∀ (s : State) (cid die a : Nat) (w0 w1 : W64) (cmd : Option Nat),
    let maps := some [(die, a, w0, w1)]
    let i (cid : Nat) (cmd : Option Nat) : Instr := .firmwarePageServiceDone cid cmd maps
    let wrote (t : State) : Prop :=
      let k := die * 2 ^ 38 + a
      memNat t k 8 = w0.toNat ∧ memNat t (k + 8) 8 = w1.toNat ∧
      ∀ x, x < k ∨ k + 16 ≤ x → memByte t x = memByte s x
    (heldBy s 15 die = true → exec (i cid cmd) s = .next s) ∧
    (heldBy s 15 die = false → die < 12 → a % 16 = 0 → a + 16 ≤ 192000000000 →
      (∀ p, s.cur.pfault = some p → Gives (exec (i s.cur.cid none) s) (fun t =>
        t.cur = { s.cur with pfault := none, wait := .none } ∧
        t = { s with cur := t.cur, mem := t.mem, ecc := t.ecc, twSeen := t.twSeen } ∧ wrote t)) ∧
      (∀ seq q k p, s.frags = [(seq, { s.frag seq with q := [(q, [k])] })] → k.page = some p →
        s.stops k = false → s.stopping k.uid = false → Gives (exec (i cid (some k.id)) s) (fun t =>
          t = { s with frags := t.frags, mem := t.mem, ecc := t.ecc, twSeen := t.twSeen } ∧
          t.queue seq q = [{ k with page := none }] ∧ (∀ r, r ≠ q → t.queue seq r = []) ∧ wrote t)))

/-- R167, R168, R169: four levels of valid entries give the leaf of a 64 KiB page, every field from its bits. -/
def Claims.PageWalk : Prop :=
  ∀ (s : State) (ctx : W16) (j : Job) (va : Nat) (d2 d1 d0 a2 a1 a0 : Nat) (l : Leaf), s.job? ctx = some j →
    va < 2 ^ 54 → d2 < 12 → d1 < 12 → d0 < 12 → a2 % 2 ^ 16 = 0 → a1 % 2 ^ 13 = 0 → a0 % 2 ^ 9 = 0 →
    a2 + 2 ^ 16 ≤ 192000000000 → a1 + 2 ^ 13 ≤ 192000000000 → a0 + 2 ^ 9 ≤ 192000000000 →
    l.log2 = 16 → l.slot < 64 → l.die < 12 → l.striped = false → l.mt < 4 → (l.ms = true → l.mt = 0) →
    l.addr % 2 ^ 16 = 0 → l.addr + 2 ^ 16 ≤ 192000000000 →
    let entry (die tab index w0 w1 : Nat) : Prop :=
      memNat s (die * 2 ^ 38 + (tab + 16 * index)) 8 = w0 ∧ memNat s (die * 2 ^ 38 + (tab + 16 * index) + 8) 8 = w1
    entry j.rootDie j.rootAddr (va / 2 ^ 42) (1 + 2 ^ 12 * d2) a2 →
    entry d2 a2 (va / 2 ^ 30 % 2 ^ 12) (1 + 2 ^ 12 * d1) a1 →
    entry d1 a1 (va / 2 ^ 21 % 2 ^ 9) (1 + 2 ^ 12 * d0) a0 →
    entry d0 a0 (va / 2 ^ 16 % 2 ^ 5)
      (3 + 2 ^ 4 * l.rd.toNat + 2 ^ 5 * l.w.toNat + 2 ^ 6 * l.x.toNat + 2 ^ 7 * l.mt + 2 ^ 9 * l.ms.toNat +
        2 ^ 10 * l.cmp.toNat + 2 ^ 12 * l.die + 2 ^ 24 * l.slot + 2 ^ 32 * l.owner.toNat) l.addr →
    translate s ctx va = .ok (l, 0)

/-- R103, R163, R166: every byte of the scratchpad window, panes in row-major order, is there for loads, stores and
atomics and for no fetch; a store there followed by a load of the same size and address gives the value stored. -/
def Claims.ScratchpadWindow : Prop :=
  ∀ (s : State) (gd : Guard) (a v d : GReg) (sz : BitVec 2) (o : Nat), Issues s gd → s.ecc = [] →
    NotReplica s → s.cur.wc = [] →
    let n := 2 ^ sz.toNat
    let addr := s.cur.rg a
    let pane := s.cur.seq + 4 * (o / 2 ^ 24 / s.cur.w) + o / 2 ^ 24 % s.cur.w
    addr.toNat = 0xFFFFF00000000000 + o → o < 2 ^ 24 * (s.cur.h * s.cur.w) → s.cur.h * s.cur.w ≤ 16 → o % n = 0 →
    Gives (exec (.st gd v a sz false 0) s) (fun t =>
      memNat t (2 ^ 42 + pane * 2 ^ 24 + o % 2 ^ 24) n = (s.cur.rg v).toNat % 2 ^ (8 * n) ∧
      (∀ k, (k < 2 ^ 42 + pane * 2 ^ 24 + o % 2 ^ 24 ∨ 2 ^ 42 + pane * 2 ^ 24 + o % 2 ^ 24 + n ≤ k) →
        memByte t k = memByte s k) ∧
      Gives (exec (.ld gd d a sz false 0 0) t) (fun u =>
        u.cur.rg d = if d = 0#6 then 0 else BitVec.ofNat 64 ((s.cur.rg v).toNat % 2 ^ (8 * n)))) ∧
    access s s.cur.who .fetch addr n = .fail 0x04 addr 3

/- Vector memory -/

/-- R148, R149, R313, R314: LDV of a checked record writes tag, lanes, side fields and super-scale as the record's
layout gives them and no other register, or traps with TAG on an OB4 zero point above 15; STV of a register of that
tag that does not write what translates its own record changes no register but the PC and no byte of memory but those
at the record's locations, and one of another tag traps with TAG. -/
def Claims.VectorRecords : Prop :=
  ∀ (s : State) (gd : Guard) (d : VNum) (a : GReg) (tag : Tag) (hint : BitVec 4) (off : W32)
    (rs : List VecAcc), Issues s gd → s.cur.vec = none → s.vlim = none → tag ≠ .invalid →
    let addr := s.cur.rg a + off.signExtend 64
    let size := match tag with
      | .i32 => 4
      | .w32 => 4
      | .fp32 => 4
      | .bf16 => 2
      | .fp16 => 2
      | _ => 1
    addr.toNat % size = 0 →
    (accessRecord s .load tag addr = .ok rs → (∀ x ∈ recordReads tag rs, eccBad s x.locs = false) →
      let v (i : Nat) : Nat := ((rs.map (fun e => loadLocs s e.locs))[i]?).getD 0
      let nibble (i : Nat) : W32 := u32 (v (i / 2) / 16 ^ (i % 2) % 16)
      let zero (i : Nat) : W16 := BitVec.ofNat 16 (v i)
      let scale (i : Nat) : W16 := BitVec.ofNat 16 (256 * v i)
      let loads (sides : W16 × W16 × W32) (f : Nat → W32) : Prop :=
        Gives (exec (.ldv gd d a tag hint off) s) (fun t => VecStep s t d none tag sides 0 f)
      match tag with
      | .ob8 => loads (zero 128, zero 129, 0) (fun i => u32 (v i))
      | .ob4 => (v 64 % 256 < 16 → v 65 % 256 < 16 → loads (zero 64, zero 65, 0) nibble) ∧
        (16 ≤ v 64 % 256 ∨ 16 ≤ v 65 % 256 → HandlerReady s →
          Gives (exec (.ldv gd d a tag hint off) s) (fun t => TrapStep s t (wordOf (.ldv gd d a tag hint off)) 0x08 0 0xA))
      | .e2m1 => loads (scale 64, scale 65, 0) nibble
      | .qc4 => loads (scale 64, scale 65, u32 (v 68)) nibble
      | _ => loads (0, 0, 0) (fun i => u32 (v i))) ∧
    (accessRecord s .store tag addr = .ok rs → NotReplica s → (∀ e ∈ rs, ∀ p ∈ e.span, notWc p.leaf) →
      ((s.cur.rv d).tag = tag → StableUnder s rs → Gives (exec (.stv gd d a tag off) s) (fun t =>
        PiecesStep s t (rs.map (fun e => e.locs)).flatten)) ∧
      ((s.cur.rv d).tag ≠ tag → HandlerReady s → Gives (exec (.stv gd d a tag off) s) (fun t =>
        TrapStep s t (wordOf (.stv gd d a tag off)) 0x08 0 (tagData (s.cur.rv d).tag))))

/-- R347: VLDX writes each selected lane from its own element's location and keeps the others; VSTX that does not write
what translates its own elements changes no register but the PC and no byte of memory but those at the selected lanes'
locations; an index register that is not of an integer tag traps with TAG. -/
def Claims.VectorIndexed : Prop :=
  ∀ (s : State) (gd : Guard) (d b : VNum) (a : GReg) (fmt : Tag) (mk : Option MNum)
    (rs : List VecAcc), Issues s gd → s.cur.vec = none → s.vlim = none →
    let idx := s.cur.rv b
    let n := elemBytes fmt
    let lane (i : Nat) : W64 :=
      s.cur.rg a + (if idx.tag = .i32 then (idx.lane i).signExtend 64 else (idx.lane i).zeroExtend 64) * u64 n
    let addrs := ((List.range 128).filter (fun i => laneOn s.cur mk i)).map (fun i => (i, lane i))
    (idx.tag = .i32 ∨ idx.tag = .w32 →
      (accessLanes s .load n addrs = .ok rs → (∀ x ∈ rs, eccBad s x.locs = false) → mk = none ∨ (s.cur.rv d).tag = fmt →
        Gives (exec (.vldx gd d a b fmt mk) s) (fun t => VecStep s t d mk fmt (0, 0, 0) 0 (fun i =>
          ((rs.find? (fun e => e.lane == i)).map (fun e => u32 (loadLocs s e.locs))).getD 0))) ∧
      (accessLanes s .store n addrs = .ok rs → (s.cur.rv d).tag = fmt → NotReplica s →
        (∀ e ∈ rs, ∀ p ∈ e.span, notWc p.leaf) → StableUnder s rs →
        Gives (exec (.vstx gd d a b fmt mk) s) (fun t => PiecesStep s t (rs.map (fun e => e.locs)).flatten))) ∧
    (idx.tag ≠ .i32 → idx.tag ≠ .w32 → HandlerReady s →
      Gives (exec (.vldx gd d a b fmt mk) s) (fun t =>
        TrapStep s t (wordOf (.vldx gd d a b fmt mk)) 0x08 0 (tagData idx.tag)) ∧
      Gives (exec (.vstx gd d a b fmt mk) s) (fun t =>
        TrapStep s t (wordOf (.vstx gd d a b fmt mk)) 0x08 0 (tagData idx.tag)))

/-- R103, R163, R263, R313, R314, R347: the four vector memory instructions complete on aligned data in the scratchpad
window, whatever the registers hold. LDV gives lanes and side fields from the record's bytes; STV stores the record;
VLDX gives each selected lane its element; VSTX stores the selected lanes' elements, of two at one place the higher.
No other register but the PC and no other byte of memory changes. -/
def Claims.VectorMemoryCompletes : Prop :=
  ∀ (s : State) (gd : Guard) (d b : VNum) (a : GReg) (tag : Tag) (hint : BitVec 4) (off : W32) (mk : Option MNum)
    (o : Nat) (ol : Nat → Nat), Issues s gd → s.cur.vec = none → s.vlim = none → s.ecc = [] → s.cur.wc = [] →
    s.cur.h ≤ 4 → s.cur.w ≤ 4 → tag ≠ .invalid →
    let size := 2 ^ 24 * (s.cur.h * s.cur.w)
    let n := max 1 (elemBytes tag)
    let byte (j : Nat) : Nat := (memByte s (padAt s.cur (o + j))).toNat
    let r := s.cur.rv d
    let idx := s.cur.rv b
    let lane (i : Nat) : W64 :=
      s.cur.rg a + (if idx.tag = .i32 then (idx.lane i).signExtend 64 else (idx.lane i).zeroExtend 64) * u64 n
    ((s.cur.rg a + off.signExtend 64).toNat = 0xFFFFF00000000000 + o → o % n = 0 → o + vecBytes tag ≤ size →
      ((tag = .ob4 → byte 64 < 16 ∧ byte 65 < 16) →
        Gives (exec (.ldv gd d a tag hint off) s) (fun t =>
          (t.cur.rv d).tag = tag ∧ (∀ j < vecBytes tag, tag = .qc4 → j < 66 ∨ 68 ≤ j → recordByte (t.cur.rv d) j = byte j) ∧
          (∀ j < vecBytes tag, tag ≠ .qc4 → recordByte (t.cur.rv d) j = byte j) ∧
          (∀ i < 128, ((t.cur.rv d).lane i).toNat < 2 ^ elemBits tag) ∧ cutSides tag (t.cur.rv d) = t.cur.rv d ∧
          (∀ q, q ≠ d → t.cur.rv q = s.cur.rv q) ∧
          t.cur = { s.cur with v := t.cur.v, pc := s.cur.pc + 8, wait := .none } ∧ OnlyCur s t)) ∧
      (NotReplica s → r.tag = tag →
        Gives (exec (.stv gd d a tag off) s) (fun t =>
          t = { s with cur := t.cur, mem := t.mem, twSeen := t.twSeen, eccPart := t.eccPart } ∧
          t.cur = { s.cur with pc := s.cur.pc + 8, wait := .none } ∧
          (∀ j < vecBytes tag, (memByte t (padAt s.cur (o + j))).toNat = recordByte r j) ∧
          (∀ k, (∀ j < vecBytes tag, k ≠ padAt s.cur (o + j)) → memByte t k = memByte s k)))) ∧
    (tag.isPlain = true → idx.tag = .i32 ∨ idx.tag = .w32 →
      (∀ i < 128, laneOn s.cur mk i = true →
        (lane i).toNat = 0xFFFFF00000000000 + ol i ∧ ol i % n = 0 ∧ ol i + n ≤ size) →
      (mk = none ∨ r.tag = tag →
        Gives (exec (.vldx gd d a b tag mk) s) (fun t =>
          VecStep s t d mk tag (0, 0, 0) 0 (fun i => u32 (memNat s (padAt s.cur (ol i)) n)))) ∧
      (NotReplica s → r.tag = tag →
        Gives (exec (.vstx gd d a b tag mk) s) (fun t =>
          t = { s with cur := t.cur, mem := t.mem, twSeen := t.twSeen, eccPart := t.eccPart } ∧
          t.cur = { s.cur with pc := s.cur.pc + 8, wait := .none } ∧
          (∀ i < 128, laneOn s.cur mk i = true → (∀ l < 128, laneOn s.cur mk l = true → i < l → ol l ≠ ol i) →
            memNat t (padAt s.cur (ol i)) n = (r.lane i).toNat % 2 ^ (8 * n)) ∧
          (∀ k, (∀ i < 128, laneOn s.cur mk i = true → k < padAt s.cur (ol i) ∨ padAt s.cur (ol i) + n ≤ k) →
            memByte t k = memByte s k))))

/-- R98, R171, R180: the elements of a vector access take their places one by one, in ascending order. A step that makes
only the first n accesses of an LDV or STV leaves the PC and the rest to be done; of memory only the first n elements of
the store are there; the next steps of the same instruction go on from there, the load with the values already read. In
the accumulator window a load stops between two of its aligned 8-byte parts only. -/
def Claims.VectorElementsInOrder : Prop :=
  ∀ (s : State) (gd : Guard) (d : VNum) (a : GReg) (tag : Tag) (hint : BitVec 4) (off : W32) (rs : List VecAcc)
    (n : Nat), Issues s gd → s.cur.vec = none → s.vlim = some n → n < rs.length → tag ≠ .invalid →
    let addr := s.cur.rg a + off.signExtend 64
    let reads := recordReads tag rs
    let vals (l : List VecAcc) : List Nat := l.map (fun e => loadLocs s e.locs)
    let parts (l : List VecAcc) : List Nat := l.flatMap (fun e => accParts e.piece)
    addr.toNat % max 1 (elemBytes tag) = 0 → (∀ x ∈ rs, eccBad s x.locs = false) →
    (accessRecord s .load tag addr = .ok rs → n < reads.length →
      let left (t : State) (m : Nat) : Prop :=
        t.cur.vec = some ⟨.ldv gd d a tag hint off, (reads.drop m).map VecAcc.piece, vals (reads.take m), []⟩ ∧
        t.cur = { s.cur with vec := t.cur.vec, wait := .stall, since := t.cur.since } ∧ OnlyCur s t ∧
        (tag ≠ .ob4 → Gives (exec (.ldv gd d a tag hint off) { t with vlim := none }) (fun u =>
          u.cur.vec = none ∧ u.cur.pc = s.cur.pc + 8 ∧ u.cur.rv d = recordReg tag (vals reads)))
      ((∀ x ∈ rs, accParts x.piece = []) → Gives (exec (.ldv gd d a tag hint off) s) (fun t => left t n)) ∧
      (tag ≠ .ob4 → Gives (exec (.ldv gd d a tag hint off) s) (fun t =>
        (t.cur.vec = none ∧ t.cur.rv d = recordReg tag (vals reads)) ∨
        ∃ m, left t m ∧ ∀ g ∈ parts (reads.take m), g ∉ parts (reads.drop m)))) ∧
    (accessRecord s .store tag addr = .ok rs → NotReplica s → (∀ e ∈ rs, ∀ p ∈ e.span, notWc p.leaf) →
      (s.cur.rv d).tag = tag → StableUnder s rs →
      Gives (exec (.stv gd d a tag off) s) (fun t =>
        (∃ p, t.cur.vec = some p ∧ p.instr = .stv gd d a tag off ∧ p.accs = (rs.drop n).map VecAcc.piece) ∧
        t.cur.pc = s.cur.pc ∧ OnlyMemAt { s with eccPart := t.eccPart } t ((rs.take n).map (fun e => e.locs)).flatten ∧
        Gives (exec (.stv gd d a tag off) { t with vlim := none }) (fun u =>
          u.cur.vec = none ∧ u.cur.pc = s.cur.pc + 8 ∧
          OnlyMemAt { t with eccPart := u.eccPart } { u with vlim := t.vlim } ((rs.drop n).map (fun e => e.locs)).flatten)))

/- Vector arithmetic -/

/-- R145, R151, R158, R263, R341: on registers of one floating tag each operation writes, in every selected lane, the
exact result rounded once to FMT under the rounding mode in force, keeps the other lanes, sets the OR of the selected
lanes' flags and writes no other register. -/
def Claims.VectorFloat : Prop :=
  ∀ (s : State) (gd : Guard) (d a b c : VNum) (fmt : Tag) (rm : Rm) (sat : Bool) (mk : Option MNum), Issues s gd →
    (s.cur.rv a).tag.isFloat = true → mk = none ∨ (s.cur.rv d).tag = fmt →
    let x i := (s.cur.rv a).val i
    let y i := (s.cur.rv b).val i
    let z i := (s.cur.rv c).val i
    let mode := if rm = .dyn then rmOf s.cur.rmode else rm
    let down := decide (mode = .rdn)
    let lanes (i : Instr) (f : Nat → Val × BitVec 8) : Prop :=
      let g (j : Nat) := roundResult fmt mode sat (f j) false
      Gives (exec i s) (fun t => VecStep s t d mk fmt (0, 0, 0) (laneFlags s.cur mk g) (fun j => u32 (g j).1))
    let quiet (v : Val) : BitVec 8 := if v.isSig then fNV else 0
    lanes (.vabs gd d a fmt rm sat mk) (fun i => (absVal (x i), quiet (x i))) ∧
    lanes (.vneg gd d a fmt rm sat mk) (fun i => ((x i).neg, quiet (x i))) ∧
    ((s.cur.rv b).tag = (s.cur.rv a).tag →
      lanes (.vadd gd d a b fmt rm sat mk) (fun i => addVal down (x i) (y i)) ∧
      lanes (.vsub gd d a b fmt rm sat mk) (fun i => addVal down (x i) (y i).neg) ∧
      lanes (.vmul gd d a b fmt rm sat mk) (fun i => mulVal (x i) (y i)) ∧
      lanes (.vmin gd d a b fmt rm sat mk) (fun i => pickNum false (x i) (y i)) ∧
      lanes (.vmax gd d a b fmt rm sat mk) (fun i => pickNum true (x i) (y i)) ∧
      ((s.cur.rv c).tag = (s.cur.rv a).tag →
        lanes (.vfma gd d a b c fmt rm sat mk) (fun i =>
          let p := mulVal (x i) (y i)
          let r := addVal down p.1 (z i)
          (r.1, p.2 ||| r.2))))

/-- R154, R158, R341, R346: VRCP, VRSQ, VEXP and VLOG write in every selected lane of FMT the function's value as
rounded once, VCVT the converted value of any tag but INVALID; other lanes and registers stay. -/
def Claims.VectorFunctions : Prop :=
  ∀ (s : State) (gd : Guard) (d a : VNum) (fmt : Tag) (rm : Rm) (sat : Bool) (mk : Option MNum), Issues s gd →
    mk = none ∨ (s.cur.rv d).tag = fmt →
    let mode := if rm = .dyn then rmOf s.cur.rmode else rm
    let lanes (i : Instr) (g : Nat → Nat × BitVec 8) : Prop :=
      Gives (exec i s) (fun t => VecStep s t d mk fmt (0, 0, 0) (laneFlags s.cur mk g) (fun j => u32 (g j).1))
    let func (f : Val → FRes) (j : Nat) : Nat × BitVec 8 := roundF fmt mode sat (f ((s.cur.rv a).val j))
    ((s.cur.rv a).tag.isFloat = true →
      lanes (.vrcp gd d a fmt rm sat mk) (func rcpVal) ∧
      lanes (.vrsq gd d a fmt rm sat mk) (func rsqVal) ∧
      lanes (.vexp gd d a fmt rm sat mk) (func expVal) ∧
      lanes (.vlog gd d a fmt rm sat mk) (func logVal)) ∧
    ((s.cur.rv a).tag ≠ .invalid → badZero (s.cur.rv a) = false →
      lanes (.vcvt gd d a fmt rm sat mk) (fun j => convert fmt mode sat ((s.cur.rv a).val j)))

/-- R343: the integer operations work lane by lane modulo 2^32 on two registers of one integer tag, which the
destination takes; shift counts are the low five bits of the lane; no flag is set. -/
def Obligations.VectorInteger : Prop :=
  ∀ (s : State) (gd : Guard) (d a b : VNum) (mk : Option MNum), Issues s gd →
    let t0 := (s.cur.rv a).tag
    t0 = .i32 ∨ t0 = .w32 → (s.cur.rv b).tag = t0 → mk = none ∨ (s.cur.rv d).tag = t0 →
    let lanes (i : Instr) (f : W32 → W32 → W32) : Prop :=
      Gives (exec i s) (fun t =>
        VecStep s t d mk t0 (0, 0, 0) 0 (fun j => f ((s.cur.rv a).lane j) ((s.cur.rv b).lane j)))
    lanes (.viadd gd d a b mk) (fun x y => x + y) ∧
    lanes (.visub gd d a b mk) (fun x y => x - y) ∧
    lanes (.vimul gd d a b mk) (fun x y => x * y) ∧
    lanes (.vand gd d a b mk) (fun x y => x &&& y) ∧
    lanes (.vor gd d a b mk) (fun x y => x ||| y) ∧
    lanes (.vxor gd d a b mk) (fun x y => x ^^^ y) ∧
    lanes (.vshl gd d a b mk) (fun x y => BitVec.ofNat 32 (x.toNat * 2 ^ (y.toNat % 32))) ∧
    lanes (.vshr gd d a b mk) (fun x y => BitVec.ofNat 32 (x.toNat / 2 ^ (y.toNat % 32))) ∧
    lanes (.vshra gd d a b mk) (fun x y => BitVec.ofInt 32 (x.toInt / 2 ^ (y.toNat % 32)))

/-- R344, R348, R351, R352, R353: VBC, VPERM, VSEL, VTAG, VTAG_READ and VXTR move lane codes, tags and side fields as
listed; none of them sets a flag. -/
def Obligations.VectorMoves : Prop :=
  ∀ (s : State) (gd : Guard) (d a b : VNum) (g h : GReg) (m : MNum) (fmt : Tag) (mk : Option MNum), Issues s gd →
    let x := s.cur.rv a
    let y := s.cur.rv b
    (mk = none ∨ (s.cur.rv d).tag = fmt → Gives (exec (.vbc gd d g fmt mk) s) (fun t =>
      VecStep s t d mk fmt (0, 0, 0) 0 (fun _ => u32 ((s.cur.rg g).toNat % 2 ^ elemBits fmt)))) ∧
    (x.tag ≠ .invalid →
      (y.tag = .i32 ∨ y.tag = .w32 → mk = none ∨ (s.cur.rv d).tag = x.tag →
        (x.tag.isQuant = true → ∀ i < 128, laneOn s.cur mk i = true → (y.lane i).toNat % 128 / 64 = i / 64) →
        Gives (exec (.vperm gd d a b mk) s) (fun t =>
          VecStep s t d mk x.tag (x.side0, x.side1, x.sup) 0 (fun i => x.lane ((y.lane i).toNat % 128)))) ∧
      (y.tag = x.tag → (x.tag.isQuant = true → y.side0 = x.side0 ∧ y.side1 = x.side1 ∧ y.sup = x.sup) →
        Gives (exec (.vsel gd d a b m) s) (fun t => VecStep s t d none x.tag (x.side0, x.side1, x.sup) 0
          (fun i => if (s.cur.rm m).getLsbD i then x.lane i else y.lane i))) ∧
      Gives (exec (.vtag gd d a fmt) s) (fun t =>
        let side (v : W16) : W16 := match fmt with
          | .e2m1 => v &&& 0xFF00
          | .qc4 => v &&& 0xFF00
          | .ob8 => v &&& 0x00FF
          | .ob4 => v &&& 0x00FF
          | _ => 0
        VecStep s t d none fmt (side x.side0, side x.side1, if fmt = .qc4 then x.sup else 0) 0
          (fun i => u32 ((x.lane i).toNat % 2 ^ elemBits fmt))) ∧
      Gives (exec (.vtagRead gd g a) s) (fun t => RegStep s t g
        (BitVec.ofNat 64 (x.tag.bits.toNat + 2 ^ 8 * x.side0.toNat + 2 ^ 24 * x.side1.toNat))) ∧
      Gives (exec (.vxtr gd g a h) s) (fun t =>
        RegStep s t g ((x.lane ((s.cur.rg h).toNat % 128)).zeroExtend 64)))

/-- R345, R349, R350: VCMP writes the comparison of every lane to m[D] with the OR of their NV flags; VQNT writes the
quantised lanes under the side fields it chooses, or keeps where it is masked; VRED folds the 128 lanes in the fixed
tree of adjacent pairs into g[D]. -/
def Claims.CompareQuantiseReduce : Prop :=
  ∀ (s : State) (gd : Guard) (d a b : VNum) (g : GReg) (m : MNum) (cond : VCond) (fmt : Tag) (op : RedOp) (rm : Rm)
    (sat : Bool) (mk : Option MNum), Issues s gd →
    let x := s.cur.rv a
    let y := s.cur.rv b
    let mode := if rm = .dyn then rmOf s.cur.rmode else rm
    (x.tag.isFloat = true ∨ x.tag = .i32 ∨ x.tag = .w32 → y.tag = x.tag →
      Gives (exec (.vcmp gd m a b cond) s) (fun t => ∃ r : BitVec 128,
        (∀ i < 128, r.getLsbD i = (cmpFloat cond (x.val i) (y.val i)).1) ∧
        MaskStep s t m r ((List.range 128).foldl (fun acc i => acc ||| (cmpFloat cond (x.val i) (y.val i)).2) 0))) ∧
    (x.tag.isFloat = true → mk = none ∨ ((s.cur.rv d).tag = fmt ∧ badZero (s.cur.rv d) = false) →
      let old := s.cur.rv d
      let sides := if mk = none then chooseSides fmt mode x else (old.side0, old.side1, old.sup)
      let f (i : Nat) := quantise fmt ((if i < 64 then sides.1 else sides.2.1).toNat / 256)
        ((if i < 64 then sides.1 else sides.2.1).toNat % 256) sides.2.2 mode (x.val i)
      Gives (exec (.vqnt gd d a fmt rm sat mk) s) (fun t =>
        VecStep s t d mk fmt sides (laneFlags s.cur mk f) (fun i => u32 (f i).1))) ∧
    (x.tag = .i32 → Gives (exec (.vred gd g a op rm) s) (fun t => RegStep s t g
      (((treeFold (redInt op true) 7 ((List.range 128).map x.lane)).headD 0).signExtend 64))) ∧
    (x.tag = .w32 → Gives (exec (.vred gd g a op rm) s) (fun t => RegStep s t g
      (((treeFold (redInt op false) 7 ((List.range 128).map x.lane)).headD 0).zeroExtend 64))) ∧
    (x.tag.isFloat = true → Gives (exec (.vred gd g a op rm) s) (fun t =>
      let f := match op with
        | .sum => redAdd mode
        | .max => redPick true
        | .min => redPick false
      let r := (treeFold f 7 ((List.range 128).map (fun i => (x.val i, 0#8)))).headD (Val.zero false, 0)
      RegFlagStep s t g (u64 (roundResult .fp32 mode false (r.1, 0) false).1) r.2))

/-- R345: finite values compare as the numbers they stand for, −0 as +0, without a flag; with a NaN only NE and UNORD hold,
and NV is set by the ordered comparisons and by a signalling NaN. -/
def Claims.ComparisonIsOrder : Prop :=
  ∀ (n1 n2 : Bool) (m1 m2 : Nat) (e1 e2 q : Int), q ≤ e1 → q ≤ e2 →
    let x := Val.fin n1 m1 e1
    let y := Val.fin n2 m2 e2
    let worth (n : Bool) (m : Nat) (e : Int) : Int := (if n then -1 else 1) * (m : Int) * 2 ^ (e - q).toNat
    let a := worth n1 m1 e1
    let b := worth n2 m2 e2
    cmpFloat .lt x y = (decide (a < b), 0) ∧ cmpFloat .le x y = (decide (a ≤ b), 0) ∧
    cmpFloat .gt x y = (decide (b < a), 0) ∧ cmpFloat .ge x y = (decide (b ≤ a), 0) ∧
    cmpFloat .eq x y = (decide (a = b), 0) ∧ cmpFloat .ne x y = (decide (a ≠ b), 0) ∧ cmpFloat .unord x y = (false, 0) ∧
    ∀ s sig z, ∀ p ∈ [(Val.nan s sig, z), (z, Val.nan s sig)],
      let nv : BitVec 8 := if sig = true ∨ z.isSig = true then 0x01 else 0
      cmpFloat .lt p.1 p.2 = (false, 0x01) ∧ cmpFloat .le p.1 p.2 = (false, 0x01) ∧ cmpFloat .gt p.1 p.2 = (false, 0x01) ∧
      cmpFloat .ge p.1 p.2 = (false, 0x01) ∧ cmpFloat .eq p.1 p.2 = (false, nv) ∧ cmpFloat .ne p.1 p.2 = (true, nv) ∧
      cmpFloat .unord p.1 p.2 = (true, nv)

/-- R349: the side fields that an unmasked VQNT chooses for half h. OB8 and OB4: z is the least zero point up to its maximum
that brings no rounded finite lane below 0. E2M1: E is 0xFF with a NaN or an infinity in the half, 127 with zeros only, else
floor(log2) of the largest magnitude plus 125, cut to 0 and 254. QC4: F is the largest magnitude of the register, exact, and
s the least with (s + 1) × F at least 256 times that of the half; F is NaN with a NaN or an infinity, 1.0 with zeros only,
and s is 0. -/
def Claims.QuantisationSides : Prop :=
  ∀ (x : VReg) (rm : Rm) (h : Nat), x.tag.isFloat = true → h < 2 →
    let lane (i : Nat) : Prop := 64 * h ≤ i ∧ i < 64 * h + 64
    let side (t : Tag) : Nat := (if h = 0 then (chooseSides t rm x).1 else (chooseSides t rm x).2.1).toNat
    let top (p : Nat → Prop) (i : Nat) : Prop := p i ∧ ∀ j, p j → ltVal (absVal (x.val i)) (absVal (x.val j)) = false
    let finite (i : Nat) : Prop := isFin (x.val i) = true
    (∀ t zmax, (t, zmax) ∈ [(Tag.ob8, 255), (Tag.ob4, 15)] →
      let wants (i : Nat) : Int := min zmax (-(roundedInt rm (x.val i)))
      side t ≤ zmax ∧ (∀ i, lane i → finite i → wants i ≤ side t) ∧
      (side t = 0 ∨ ∃ i, lane i ∧ finite i ∧ wants i = side t)) ∧
    ((∃ i, lane i ∧ ¬ finite i) → side .e2m1 = 256 * 255) ∧
    ((∀ i, lane i → (x.val i).isZero = true) → side .e2m1 = 256 * 127) ∧
    (∀ i n m e, (∀ j, lane j → finite j) → top lane i → x.val i = .fin n m e → 0 < m →
      (side .e2m1 : Int) = 256 * max 0 (min 254 (e + Nat.log2 m + 125))) ∧
    ((∃ i < 128, ¬ finite i) → chooseSides .qc4 rm x = (0, 0, 0x7FC00000)) ∧
    ((∀ i < 128, (x.val i).isZero = true) → chooseSides .qc4 rm x = (0, 0, 0x3F800000)) ∧
    (∀ i k n m e n2 m2 e2 (q : Int), (∀ j < 128, finite j) → top (· < 128) i → top lane k → x.val i = .fin n m e → 0 < m →
      x.val k = .fin n2 m2 e2 → q ≤ e → q ≤ e2 →
      let sup := (m : Int) * 2 ^ (e - q).toNat
      let amax := (m2 : Int) * 2 ^ (e2 - q).toNat
      eqVal (decodeFloat .fp32 (chooseSides .qc4 rm x).2.2.toNat) (.fin false m e) = true ∧
      ∃ c < 256, side .qc4 = 256 * c ∧ 256 * amax ≤ (c + 1) * sup ∧ (0 < c → c * sup < 256 * amax))

/-- Comparisons, quantisation, reductions. -/
def Obligations.VectorCompareQuantiseReduce : Prop :=
  Claims.CompareQuantiseReduce ∧ Claims.ComparisonIsOrder ∧ Claims.QuantisationSides

/-- R148, R150, R214, R263, R341, R343, R344, R345, R346, R348, R349, R350: a vector operation traps with TAG into the
handler and writes nothing where a source, in the order of its operands, has a tag that it does not accept (TDATA that tag's
code), where a source's tag differs from the first one's (TDATA the tag that differs), and where it is masked and the
destination's tag is not the one it writes (TDATA the destination's); a conversion of an OB4 register with an illegal zero
point and a masked VQNT into one, a VPERM of a block-scaled register across its halves, and a VSEL of two with different
side fields trap so too. The first of these that holds gives TDATA; the zero point traps whatever lanes are selected (the
model's choice, assumption 105). -/
def Obligations.TagTraps : Prop :=
  ∀ (s : State) (gd : Guard) (d a b c : VNum) (g h : GReg) (m : MNum) (fmt : Tag) (op : RedOp) (cond : VCond) (rm : Rm)
    (sat : Bool) (mk : Option MNum), Issues s gd → HandlerReady s →
    let tag (v : VNum) : Tag := (s.cur.rv v).tag
    let traps (i : Instr) (t : Tag) : Prop :=
      Gives (exec i s) (fun u => TrapStep s u (wordOf i) 0x08 0 (t.bits.zeroExtend 64))
    let whole (t : Tag) : Bool := t == .i32 || t == .w32
    let offends (ok : Tag → Bool) (srcs : List VNum) : Option Tag :=
      match (srcs.map tag).find? (fun t => !ok t) with
      | some t => some t
      | none => (srcs.map tag).find? (fun t => t != tag a)
    let checks (i : Instr) (ok : Tag → Bool) (srcs : List VNum) (writes : Tag) : Prop :=
      (∀ t, offends ok srcs = some t → traps i t) ∧
      (offends ok srcs = none → mk ≠ none → tag d ≠ writes → traps i (tag d))
    let bad (v : VNum) : Prop :=
      tag v = .ob4 ∧ (16 ≤ (s.cur.rv v).side0.toNat % 256 ∨ 16 ≤ (s.cur.rv v).side1.toNat % 256)
    (∀ i ∈ [Instr.vadd gd d a b fmt rm sat mk, .vsub gd d a b fmt rm sat mk, .vmul gd d a b fmt rm sat mk,
        .vmin gd d a b fmt rm sat mk, .vmax gd d a b fmt rm sat mk], checks i Tag.isFloat [a, b] fmt) ∧
    checks (.vfma gd d a b c fmt rm sat mk) Tag.isFloat [a, b, c] fmt ∧
    (∀ i ∈ [Instr.vabs gd d a fmt rm sat mk, .vneg gd d a fmt rm sat mk, .vrcp gd d a fmt rm sat mk,
        .vrsq gd d a fmt rm sat mk, .vexp gd d a fmt rm sat mk, .vlog gd d a fmt rm sat mk, .vqnt gd d a fmt rm sat mk],
      checks i Tag.isFloat [a] fmt) ∧
    ((tag a).isFloat = true → mk ≠ none → tag d = fmt → bad d → traps (.vqnt gd d a fmt rm sat mk) .ob4) ∧
    (∀ i ∈ [Instr.viadd gd d a b mk, .visub gd d a b mk, .vimul gd d a b mk, .vand gd d a b mk, .vor gd d a b mk,
        .vxor gd d a b mk, .vshl gd d a b mk, .vshr gd d a b mk, .vshra gd d a b mk], checks i whole [a, b] (tag a)) ∧
    (∀ t, offends (fun t => t.isFloat || whole t) [a, b] = some t → traps (.vcmp gd m a b cond) t) ∧
    ((tag a).isFloat = false → whole (tag a) = false → traps (.vred gd g a op rm) (tag a)) ∧
    (mk ≠ none → tag d ≠ fmt → traps (.vbc gd d g fmt mk) (tag d)) ∧
    (tag a = .invalid → ∀ i ∈ [Instr.vcvt gd d a fmt rm sat mk, .vtag gd d a fmt, .vtagRead gd g a, .vxtr gd g a h,
      .vperm gd d a b mk, .vsel gd d a b m], traps i .invalid) ∧
    (bad a → traps (.vcvt gd d a fmt rm sat mk) .ob4) ∧
    (tag a ≠ .invalid → ¬ bad a → mk ≠ none → tag d ≠ fmt → traps (.vcvt gd d a fmt rm sat mk) (tag d)) ∧
    (tag a ≠ .invalid →
      (whole (tag b) = false → traps (.vperm gd d a b mk) (tag b)) ∧
      (whole (tag b) = true → mk ≠ none → tag d ≠ tag a → traps (.vperm gd d a b mk) (tag d)) ∧
      (whole (tag b) = true → (mk = none ∨ tag d = tag a) → (tag a).isQuant = true →
        (∃ i < 128, laneOn s.cur mk i = true ∧ ((s.cur.rv b).lane i).toNat % 128 / 64 ≠ i / 64) →
        traps (.vperm gd d a b mk) (tag a)) ∧
      (tag b ≠ tag a → traps (.vsel gd d a b m) (tag b)) ∧
      (tag b = tag a → (tag a).isQuant = true →
        ((s.cur.rv b).side0, (s.cur.rv b).side1, (s.cur.rv b).sup) ≠ ((s.cur.rv a).side0, (s.cur.rv a).side1, (s.cur.rv a).sup) →
        traps (.vsel gd d a b m) (tag b)))

/- Arithmetic itself -/

/-- R151, R158: sums and products of finite values are exact: the result is again an integer times a power of two, of
that very worth. -/
def Claims.ExactSumsAndProducts : Prop :=
  ∀ (down n1 n2 : Bool) (m1 m2 : Nat) (e1 e2 q : Int),
    let worth (n : Bool) (m : Nat) (e : Int) : Int := (if n then -1 else 1) * (m : Int) * 2 ^ (e - q).toNat
    (q ≤ e1 → q ≤ e2 → ∃ n m e, (addVal down (.fin n1 m1 e1) (.fin n2 m2 e2)) = (.fin n m e, 0) ∧
      (m = 0 ∨ q ≤ e) ∧ worth n m e = worth n1 m1 e1 + worth n2 m2 e2) ∧
    ∃ n m e, mulVal (.fin n1 m1 e1) (.fin n2 m2 e2) = (.fin n m e, 0) ∧ m = m1 * m2 ∧ e = e1 + e2 ∧ n = (n1 != n2)

/-- R151: rounding a magnitude m to a multiple of 2^j is within one multiple of it, below it under RTZ, nearest under
RNE with ties to the even multiple, and never below under RUP of a positive value. -/
def Claims.RoundingIsNearest : Prop :=
  ∀ (m j : Nat) (neg : Bool), 0 < j →
    let d := 2 ^ j
    let k (rm : Rm) := (roundAt rm neg m 0 j false).1
    (k .rtz * d ≤ m ∧ m < (k .rtz + 1) * d) ∧
    (2 * (k .rne * d) ≤ 2 * m + d ∧ 2 * m ≤ 2 * (k .rne * d) + d) ∧
    (2 * (k .rne * d) = 2 * m + d ∨ 2 * m = 2 * (k .rne * d) + d → k .rne % 2 = 0) ∧
    (neg = false → m ≤ k .rup * d ∧ k .rup * d < m + d) ∧
    (∀ rm, (roundAt rm neg m 0 j false).2 = true ↔ m % d ≠ 0)

/-- R144, R151: a finite code of a floating format converts to its own format unchanged, in every rounding mode and
without a flag. -/
def Claims.RepresentableUnchanged : Prop :=
  ∀ (t : Tag) (rm : Rm) (c : Nat), t ∈ [Tag.fp32, Tag.bf16, Tag.fp16, Tag.e4m3, Tag.e5m2] → c < 2 ^ elemBits t →
    (∃ n m e, decodeFloat t c = .fin n m e) → convert t rm false (decodeFloat t c) = (c, 0)

/-- R151, R153: what a finite value converts to, where that is finite, is in RNE no farther from it than any other value of
the format, in RTZ, RDN and RUP the nearest one on the side of the mode. -/
def Claims.ConversionNearest : Prop :=
  ∀ (t : Tag) (rm : Rm) (c : Nat) (n n1 n2 : Bool) (m m1 m2 : Nat) (e e1 e2 q : Int),
    t ∈ [Tag.fp32, Tag.bf16, Tag.fp16, Tag.e4m3, Tag.e5m2] → q ≤ e → q ≤ e1 → q ≤ e2 →
    decodeFloat t (convert t rm false (.fin n m e)).1 = .fin n1 m1 e1 → decodeFloat t c = .fin n2 m2 e2 →
    let worth (n : Bool) (m : Nat) (e : Int) : Int := (if n then -1 else 1) * (m : Int) * 2 ^ (e - q).toNat
    let x := worth n m e
    let a := worth n1 m1 e1
    let b := worth n2 m2 e2
    (rm = .rne → (a - x).natAbs ≤ (b - x).natAbs) ∧
    (rm = .rtz → a.natAbs ≤ x.natAbs ∧ (b.natAbs ≤ x.natAbs → b.natAbs ≤ a.natAbs)) ∧
    (rm = .rdn → a ≤ x ∧ (b ≤ x → b ≤ a)) ∧ (rm = .rup → x ≤ a ∧ (x ≤ b → a ≤ b))

/-- R158: what VEXP rounds, of a value v / 2^k with a magnitude from 2^−60 to 2^9, is 2 to that power exactly where it is an
integer, and else lies with it between two neighbouring multiples of a power of two, at 150 bits; what VLOG rounds is the
exponent of a power of two, and else lies with the logarithm between two neighbouring multiples of 2^−110. -/
def Claims.ExponentialBounds : Prop :=
  (∀ (n : Bool) (m : Nat) (e : Int), 0 < m → -60 ≤ e + Nat.log2 m → e + Nat.log2 m < 9 →
    let k := (-e).toNat
    let v : Int := (if n then -1 else 1) * (m : Int) * 2 ^ (e + k).toNat
    (∃ w : Int, v = w * 2 ^ k ∧ expVal (.fin n m e) = .exact (.fin false 1 w) 0) ∨
    (¬ (2 ^ k : Int) ∣ v ∧ ∃ (r d : Nat) (q : Int), expVal (.fin n m e) = .cut false r q ∧ 2 ^ 150 ≤ r ∧ (d : Int) = v - q * 2 ^ k ∧
      r ^ 2 ^ k ≤ 2 ^ d ∧ 2 ^ d < (r + 1) ^ 2 ^ k)) ∧
  ∀ (m : Nat) (e : Int), 0 < m →
    let l := Nat.log2 m
    (m = 2 ^ l → logVal (.fin false m e) = .exact (Val.ofInt (e + l)) 0) ∧
    (m ≠ 2 ^ l → ∃ b < 2 ^ 110, 2 ^ (l * 2 ^ 110 + b) ≤ m ^ 2 ^ 110 ∧ m ^ 2 ^ 110 < 2 ^ (l * 2 ^ 110 + b + 1) ∧
      let t : Int := (e + l) * 2 ^ 110 + b
      logVal (.fin false m e) = if 0 ≤ t then .cut false t.toNat (-110) else .cut true (t.natAbs - 1) (-110))

/-- R158: the reciprocal of a finite value is bounded by two neighbouring multiples, or exact; so is the reciprocal
square root of a positive one: what VRCP and VRSQ round is known on both sides. -/
def Claims.ReciprocalBounds : Prop :=
  ∀ (n : Bool) (m : Nat) (e : Int), 0 < m →
    (∃ q k : Nat, (rcpVal (.fin n m e) = .exact (.fin n q (-k - e)) 0 ∧ q * m = 2 ^ k) ∨
      (rcpVal (.fin n m e) = .cut n q (-k - e) ∧ q * m < 2 ^ k ∧ 2 ^ k < (q + 1) * m ∧ 2 ^ 40 ≤ q)) ∧
    (e % 2 = 0 → ∃ r k : Nat, (rsqVal (.fin false m e) = .exact (.fin false r (-k - e / 2)) 0 ∧ r * r * m = 2 ^ (2 * k)) ∨
      (rsqVal (.fin false m e) = .cut false r (-k - e / 2) ∧ r * r * m < 2 ^ (2 * k) ∧
        2 ^ (2 * k) < (r + 1) * (r + 1) * m))

/- Tokens and commands at issue -/

/-- R115, R119, R337: TJOIN makes a token that is complete at once where its inputs are, with the first fault among
them, and pending else; TSTAT reads a complete token's status without consuming it; TWAIT goes on over complete
tokens, and traps with TOKEN on the first faulted one, which it consumes, and no other. A pending token makes TSTAT and
TWAIT wait. -/
def Obligations.TokenInstructions : Prop :=
  ∀ (s : State) (gd : Guard) (ko ka kb kc : KNum) (d : GReg), Issues s gd →
    let tok (k : KNum) : Token := s.cur.rk k
    let ins := [ka, kb, kc].map tok
    let bad := (ins.filter (fun t => statusCode t.done.status != 0)).head?
    (TokensSettled s → ko ≠ 0#5 → (tok ko).pend = 0 → Gives (exec (.tjoin gd ko ka kb kc) s) (fun t =>
      t.cur = { s.cur with k := t.cur.k, pc := s.cur.pc + 8, wait := .none } ∧ SameMem s t ∧
      (∀ r, r ≠ ko → t.cur.rk r = s.cur.rk r) ∧
      ((∀ x ∈ ins, x.pend = 0) → t.cur.rk ko = ⟨0, (bad.map (·.done)).getD Done.ok⟩ ∧ t.joins = s.joins) ∧
      ((∃ x ∈ ins, x.pend ≠ 0) → t.cur.rk ko = ⟨s.nextId, Done.ok⟩ ∧
        t.joins = s.joins ++ [⟨s.nextId, s.cur.cid, ins.map Token.inp⟩]))) ∧
    ((tok ko).pend ≠ 0 → Gives (exec (.tjoin gd ko ka kb kc) s) (fun t => StallStep s t .stall)) ∧
    ((tok ka).pend = 0 → Gives (exec (.tstat gd d ka) s) (fun t =>
      RegStep s t d ((tok ka).done.status.zeroExtend 64))) ∧
    ((tok ka).pend ≠ 0 → Gives (exec (.tstat gd d ka) s) (fun t => StallStep s t .quantum)) ∧
    ((∃ x ∈ ins, x.pend ≠ 0) → Gives (exec (.twait gd ka kb kc) s) (fun t => StallStep s t .quantum)) ∧
    ((∀ x ∈ ins, x.pend = 0) →
      (bad = none → Gives (exec (.twait gd ka kb kc) s) (fun t => PcStep s t (s.cur.pc + 8))) ∧
      (HandlerReady s → ∀ k, [ka, kb, kc].find? (fun k => statusCode (tok k).done.status != 0) = some k →
        Gives (exec (.twait gd ka kb kc) s) (fun t =>
          t.cur.rk k = Token.reset ∧ (∀ r, r ≠ k → t.cur.rk r = tok r) ∧
          TrapStep { s with cur := { s.cur with k := t.cur.k } } t (tok k).done.oword 0x09 (tok k).done.opc
            ((tok k).done.status.zeroExtend 64))))

/-- R80, R112, R114, R115, R118: an engine command that issues stands last in its queue with its operands and input
tokens captured, its output token is pending, and nothing else changes; it stalls while the output token is pending
or the queue holds 16 entries. -/
def Claims.EngineQueues : Prop :=
  ∀ (s : State) (gd : Guard) (ko ka kb kc : KNum) (ga gb : GReg) (add : Bool) (res : Option GReg), Issues s gd →
    ko ≠ 0#5 →
    let a := s.cur.rg ga
    let b := s.cur.rg gb
    let r := (res.map s.cur.rg).getD 0
    let ins := [ka, kb, kc].map (fun k => (s.cur.rk k).inp)
    let issues (i : Instr) (q : Nat) (ga gb res : W64) : Prop :=
      let free := (s.cur.rk ko).pend = 0 ∧ (s.queue s.cur.seq q).length < 16
      (free → Gives (exec i s) (fun t => Enqueued s t s.cur.seq q ko i ga gb res ins)) ∧
      (¬ free → Gives (exec i s) (fun t => StallStep s t .stall))
    issues (.xcopy gd ko ka kb kc ga gb res) 2 a b r ∧
    issues (.xcast gd ko ka kb kc ga gb res) 2 a b r ∧
    issues (.strm gd ko ka kb kc ga gb) 4 a b 0 ∧
    issues (.gcfg gd ko ka kb kc ga) 4 a 0 0 ∧
    issues (.gspill gd ko ka kb kc ga) 4 a 0 0 ∧
    issues (.gstart gd ko ka kb kc) 4 0 0 0 ∧
    issues (.gstop gd ko ka kb kc) 4 0 0 0 ∧
    issues (.kwatch gd ko ka kb kc ga gb) 5 a b 0 ∧
    (isReplica s = false →
      issues (.xred gd ko ka kb kc ga gb res) 2 a b r ∧
      issues (.xfetch gd ko ka kb kc ga) 3 a 0 0 ∧
      issues (.xsend gd ko ka kb kc ga gb add res) 3 a b r ∧
      issues (.arrive gd ko ka kb kc ga gb) 3 a b 0)

/-- R72, R73, R80, R88, R112: an array command enters the foreground or background queue of the fragment whose array
the context uses: outside a shared launch at once, within one only under the lease, counted in the tenure; a context
on the request list stalls and another traps with LEASE. WSWAP in dual-queue mode traps with MODE, but for a context
without the lease, which stalls or traps as for the other commands. -/
def Obligations.ArrayCommandsIssue : Prop :=
  ∀ (s : State) (gd : Guard) (ko ka kb kc : KNum) (ga gb : GReg) (bg chn rag cin set : Bool), Issues s gd →
    ko ≠ 0#5 → (s.cur.rk ko).pend = 0 →
    let q := if bg then 1 else 0
    let arr := s.cur.arr
    let f := s.frag arr
    let a := s.cur.rg ga
    let b := s.cur.rg gb
    let ins := [ka, kb, kc].map (fun k => (s.cur.rk k).inp)
    (s.queue arr q).length < 16 →
    let issues (i : Instr) (ga gb : W64) : Prop :=
      (isShared s = false → Gives (exec i s) (fun t => Enqueued s t arr q ko i ga gb 0 ins)) ∧
      (isShared s = true → f.holder = some s.cur.cid → tenureOver s f = false → Gives (exec i s) (fun t =>
        Enqueued s t arr q ko i ga gb 0 ins ∧ (t.frag arr).tcount = f.tcount + 1)) ∧
      (isShared s = true → f.holder ≠ some s.cur.cid → s.cur.cid ∈ f.reqs →
        Gives (exec i s) (fun t => StallStep s t .stall)) ∧
      (isShared s = true → f.holder ≠ some s.cur.cid → s.cur.cid ∉ f.reqs → HandlerReady s →
        Gives (exec i s) (fun t => TrapStep s t (wordOf i) 0x0A 0 0))
    issues (.wload gd ko ka kb kc ga gb bg) a b ∧
    issues (.mma gd ko ka kb kc ga gb bg chn rag cin set) a b ∧
    issues (.aswap gd ko ka kb kc bg) 0 0 ∧
    issues (.aclr gd ko ka kb kc gb bg) 0 b ∧
    issues (.adrain gd ko ka kb kc ga gb bg) a b ∧
    issues (.edge gd ko ka kb kc ga bg) a 0 ∧
    (f.dual = false → issues (.wswap gd ko ka kb kc bg) 0 0) ∧
    (f.dual = true →
      let i : Instr := .wswap gd ko ka kb kc bg
      (isShared s = false ∨ f.holder = some s.cur.cid → HandlerReady s → Gives (exec i s) (fun t =>
        TrapStep s t (wordOf i) 0x16 0 0)) ∧
      (isShared s = true → f.holder ≠ some s.cur.cid → s.cur.cid ∈ f.reqs →
        Gives (exec i s) (fun t => StallStep s t .stall)) ∧
      (isShared s = true → f.holder ≠ some s.cur.cid → s.cur.cid ∉ f.reqs → HandlerReady s →
        Gives (exec i s) (fun t => TrapStep s t (wordOf i) 0x0A 0 0)))

/-- R58, R112, R309: LAUNCH makes its output token pending and notes the LPB address and its inputs; a 17th pending one
stalls; in a REPLICA launch it, the atomics, XRED, XFETCH, XSEND and ARRIVE trap with MODE. -/
def Claims.LaunchIssue : Prop :=
  ∀ (s : State) (gd : Guard) (ko ka kb kc : KNum) (ga gb gc : GReg) (op : AmoOp) (wide add : Bool) (res : Option GReg),
    Issues s gd → ko ≠ 0#5 →
    let i : Instr := .launch gd ko ka kb kc ga
    let ins := [ka, kb, kc].map (fun k => (s.cur.rk k).inp)
    let mine := (s.pend.filter (fun p => p.cid == s.cur.cid)).length
    (isReplica s = false → mine < 16 → (s.cur.rk ko).pend = 0 → TokensSettled s → inputFault ins = none →
      Gives (exec i s) (fun t =>
        t.cur = { s.cur with k := t.cur.k, pc := s.cur.pc + 8, wait := .none } ∧ SameMem s t ∧
        t.cur.rk ko = ⟨s.nextId, Done.ok⟩ ∧ (∀ r, r ≠ ko → t.cur.rk r = s.cur.rk r) ∧ t.nextId = s.nextId + 1 ∧
        ∃ p, t.pend = s.pend ++ [p] ∧ p.id = s.nextId ∧ p.lpb = s.cur.rg ga ∧ p.ins = ins ∧ p.child = none ∧
          p.cid = s.cur.cid ∧ p.lid = s.cur.lid ∧ p.pc = s.cur.pc ∧ p.word = wordOf i)) ∧
    (isReplica s = false → 16 ≤ mine → Gives (exec i s) (fun t => StallStep s t .stall)) ∧
    (isReplica s = true → HandlerReady s →
      ∀ j ∈ [i, .amo gd ga gb gc gc op wide, .cas gd ga gb gc gc wide, .xred gd ko ka kb kc ga gb res,
          .xfetch gd ko ka kb kc ga, .xsend gd ko ka kb kc ga gb add res, .arrive gd ko ka kb kc ga gb],
        Gives (exec j s) (fun t => TrapStep s t (wordOf j) 0x16 0 0))

/- Lease, barriers, cancels, markers -/

/-- R72, R283: AQ takes a free lease or joins the tail of the request list once; AREL passes the lease to the head of
the list or leaves it; outside a shared launch both only move on. -/
def Claims.LeaseInstructions : Prop :=
  ∀ (s : State) (gd : Guard), Issues s gd →
    let me := s.cur.cid
    let arr := s.cur.arr
    let f := s.frag arr
    let only (t : State) : Prop :=
      t.cur = { s.cur with pc := s.cur.pc + 8, wait := .none } ∧ t = { s with cur := t.cur, frags := t.frags } ∧
      (∀ i, i ≠ arr → t.frag i = s.frag i) ∧
      t.frag arr = { f with holder := (t.frag arr).holder, reqs := (t.frag arr).reqs, tcount := (t.frag arr).tcount,
                            tstart := (t.frag arr).tstart }
    (isShared s = false → Gives (exec (.aq gd) s) (fun t => PcStep s t (s.cur.pc + 8)) ∧
      Gives (exec (.arel gd) s) (fun t => PcStep s t (s.cur.pc + 8))) ∧
    (isShared s = true →
      Gives (exec (.aq gd) s) (fun t => only t ∧
        (f.holder = none → me ∉ f.reqs → (t.frag arr).holder = some me ∧ (t.frag arr).reqs = f.reqs) ∧
        (f.holder = some me ∨ me ∈ f.reqs → t.frag arr = f) ∧
        (∀ h, f.holder = some h → h ≠ me → me ∉ f.reqs →
          (t.frag arr).holder = some h ∧ (t.frag arr).reqs = f.reqs ++ [me])) ∧
      Gives (exec (.arel gd) s) (fun t => only t ∧
        (f.holder = some me → (t.frag arr).holder = f.reqs.head? ∧ (t.frag arr).reqs = f.reqs.tail) ∧
        (f.holder ≠ some me → (t.frag arr).holder = f.holder ∧ (t.frag arr).reqs = f.reqs.filter (· != me))))

/-- R287, R288, R289: the arrival that completes a companion-scope generation raises it, empties its count and lets the BAR
go on; an earlier arrival is counted and a BAR that also waits then waits, and executed again it adds no arrival: it waits
until its generation has passed; a launch-scope BAR outside gang and shared
launches traps with SCOPE, so does a gang-scope one outside a gang. -/
def Claims.Barriers : Prop :=
  ∀ (s : State) (gd : Guard) (id : BitVec 4) (u : UnitRec), Issues s gd → s.unit? s.cur.uid = some u →
    s.cur.pc ∉ s.cur.barAt →
    let b := Store.get Barrier.reset u.bars id.toNat
    let parts := liveContexts s u
    let byte (c : Ctx) : Byte := Store.get 0 c.bars id.toNat
    let bar (t : State) : Barrier := ((t.unit? s.cur.uid).map (fun u => Store.get Barrier.reset u.bars id.toNat)).getD Barrier.reset
    (let w : State := { s with cur := { s.cur with barAt := s.cur.pc :: s.cur.barAt } }
     (byte s.cur).getLsbD 7 = true → Gives (exec (.bar gd .both .comp id) w) (fun t =>
      if b.gen % 128 = (byte s.cur).toNat % 128 then StallStep w t .quantum
      else t.cur.pc = s.cur.pc + 8 ∧ t.cur.barAt = s.cur.barAt ∧ byte t.cur = byte s.cur &&& 0x7F ∧ bar t = b ∧ SameMem s t)) ∧
    ((byte s.cur).getLsbD 7 = false →
    (b.count + 1 = parts → Gives (exec (.bar gd .both .comp id) s) (fun t =>
      bar t = ⟨b.gen + 1, 0⟩ ∧ (byte t.cur).getLsbD 7 = false ∧ t.cur.pc = s.cur.pc + 8 ∧ t.cur.g = s.cur.g ∧
      SameMem s t)) ∧
    (b.count + 1 < parts →
      Gives (exec (.bar gd .both .comp id) s) (fun t =>
        bar t = ⟨b.gen, b.count + 1⟩ ∧ byte t.cur = BitVec.ofNat 8 (128 + b.gen % 128) ∧ t.cur.pc = s.cur.pc ∧
        t.cur.wait = .quantum ∧ s.cur.pc ∈ t.cur.barAt ∧ SameMem s t) ∧
      Gives (exec (.bar gd .arrive .comp id) s) (fun t =>
        bar t = ⟨b.gen, b.count + 1⟩ ∧ byte t.cur = BitVec.ofNat 8 (128 + b.gen % 128) ∧ t.cur.pc = s.cur.pc + 8 ∧
        SameMem s t)) ∧
    Gives (exec (.bar gd .wait .comp id) s) (fun t => PcStep s t (s.cur.pc + 8)) ∧
    (HandlerReady s → ∀ m : BarMode,
      (isGang s = false → isShared s = false → Gives (exec (.bar gd m .launch id) s) (fun t =>
        TrapStep s t (wordOf (.bar gd m .launch id)) 0x13 0 ((barSel m .launch).zeroExtend 64))) ∧
      (isGang s = false → Gives (exec (.bar gd m .gang id) s) (fun t =>
        TrapStep s t (wordOf (.bar gd m .gang id)) 0x13 0 ((barSel m .gang).zeroExtend 64)))))

/-- R232, R291, R329: CANCEL of the context's own launch is accepted: the cancel is on its way home and the unit issues
nothing more, so it is with any incomplete entity of its job that contains its launch, and a unit whose launch is not
in that entity goes on; without a handle a graph is named only by a unit of its own node. A handle of another level
traps with SCOPE, one that only another job has given with PERM, whatever became of its entity (that a handle which names
nothing any more traps so too, with TADDR and TDATA 0, is the model's choice, assumption 35); one that names nothing and
that this job has given or no job changes nothing. QMARK in supervisor mode goes on
once every command ahead of it in the named queues has completed and else stalls; commands behind it do not hold it. -/
def Obligations.CancelAndMarkers : Prop :=
  ∀ (s : State) (gd : Guard) (a : GReg) (lvl : Level) (mask : BitVec 6) (e : Ent), Issues s gd →
    let h := s.cur.rg a
    let level := match lvl with
      | .launch => 1
      | .graph => 2
      | .phase => 3
      | .job => 4
    (h = 0 → s.ent? s.cur.lid = some e → e.level = .launch → e.complete = false →
      Gives (exec (.cancel gd a .launch) s) (fun t =>
        t.cur = { s.cur with pc := s.cur.pc + 8, wait := .none, halted := true } ∧
        t.cancels = s.cancels ++ [⟨s.cur.lid⟩] ∧ SameMem s t)) ∧
    (h = 0 → s.ent? s.cur.lid = some e → (∀ p x, e.parent = some p → s.ent? p = some x → x.level ≠ .graph) →
      Gives (exec (.cancel gd a .graph) s) (fun t => PcStep s t (s.cur.pc + 8))) ∧
    (∀ x f, h ≠ 0 → h.toNat / 2 ^ 60 = level → entByHandle s s.cur.ctxid h = some x → s.ent? x = some f →
      f.complete = false → Gives (exec (.cancel gd a lvl) s) (fun t =>
        t.cur = { s.cur with pc := s.cur.pc + 8, wait := .none, halted := contains s x s.cur.lid } ∧
        t.cancels = s.cancels ++ [⟨x⟩] ∧ SameMem s t)) ∧
    (h ≠ 0 → h.toNat / 2 ^ 60 ≠ level → HandlerReady s → Gives (exec (.cancel gd a lvl) s) (fun t =>
      TrapStep s t (wordOf (.cancel gd a lvl)) 0x13 0 (lvl.bits.zeroExtend 64))) ∧
    (h ≠ 0 → h.toNat / 2 ^ 60 = level → (∀ x ∈ s.ents, x.2.handle ≠ h) →
      (handleGiven s s.cur.ctxid lvl h = true ∨ handleElsewhere s s.cur.ctxid lvl h = false) →
      Gives (exec (.cancel gd a lvl) s) (fun t => PcStep s t (s.cur.pc + 8))) ∧
    (∀ (job : W16) (n : Nat), h.toNat = level * 2 ^ 60 + n → Store.get 0 s.serials (8 * s.cur.ctxid.toNat + level) < n →
      n ≤ Store.get 0 s.serials (8 * job.toNat + level) → n < 2 ^ 32 → entByHandle s s.cur.ctxid h = none →
      HandlerReady s → Gives (exec (.cancel gd a lvl) s) (fun t => TrapStep s t (wordOf (.cancel gd a lvl)) 0x06 0 0)) ∧
    (s.cur.sm = true →
      let n := s.cur.marker.getD s.nextId
      let ahead := ∃ q < 6, mask.getLsbD q = true ∧ ∃ k ∈ s.queue (if q < 2 then s.cur.arr else s.cur.seq) q, k.id < n
      (¬ ahead → Gives (exec (.qmark gd mask) s) (fun t =>
        t.cur = { s.cur with pc := s.cur.pc + 8, wait := .none, marker := none } ∧ OnlyCur s t)) ∧
      (ahead → Gives (exec (.qmark gd mask) s) (fun t =>
        t.cur = { s.cur with wait := .stall, since := t.cur.since, marker := some n } ∧ OnlyCur s t)))

/- Splits, chains, ends -/

/-- R31, R102, R103, R303: FSPLIT with drained queues halves the fragment and starts a companion at g[A] on the other
half, its g1 the unit, its g2 the parameter, both 64 cycles later; a fragment of one pane in that direction, or a
shared one, traps with SHAPE; an entry that is not a multiple of 8 with ALIGN, whose TDATA of 3 is read from R215's code
of an instruction access (log entry 36). -/
def Claims.SplitStartsCompanion : Prop :=
  ∀ (s : State) (gd : Guard) (d a : GReg) (col : Bool) (u : UnitRec), Issues s gd → s.unit? s.cur.uid = some u →
    allDrained s s.cur = true → chainAt s s.cur.seq = false → u.ncomp < 15 →
    let c := s.cur
    let entry := c.rg a
    let h := if col then c.h else c.h / 2
    let w := if col then c.w / 2 else c.w
    let off := if col then c.w / 2 else 4 * (c.h / 2)
    let small := (if col then c.w else c.h) < 2
    (¬ small → isShared s = false → entry.toNat % 8 = 0 → entry.toNat < 2 ^ 54 →
      Gives (exec (.fsplit gd d a col) s) (fun t =>
        t.cur.h = h ∧ t.cur.w = w ∧ t.cur.pc = c.pc + 8 ∧ t.cur.g = c.g ∧ t.cur.splits = (s.nextId, col) :: c.splits ∧
        t.cur.notBefore = s.now + 64 * (s.die (c.seq / 16)).tpc ∧ SameMem s t ∧
        (t.frag (c.seq + off)).h = h ∧ (t.frag (c.seq + off)).w = w ∧
        (0 < off → (t.frag c.seq).h = h ∧ (t.frag c.seq).w = w ∧ (t.frag c.seq).plane0 = Plane.reset ∧
          (t.frag c.seq).plane1 = Plane.reset ∧ (t.frag c.seq).grid = Grid.reset) ∧
        ∃ x ∈ t.others, x.cid = s.nextId ∧ x.phase = .running ∧ x.uid = c.uid ∧ x.pc = entry ∧ x.seq = c.seq + off ∧
          x.h = h ∧ x.w = w ∧ x.rg 1#6 = u64 c.unit ∧ x.rg 2#6 = c.rg d ∧ x.compid = u.ncomp + 1 ∧ x.sm = false ∧
          x.notBefore = s.now + 64 * (s.die (c.seq / 16)).tpc)) ∧
    (HandlerReady s →
      (small ∨ isShared s = true → Gives (exec (.fsplit gd d a col) s) (fun t =>
        TrapStep s t (wordOf (.fsplit gd d a col)) 0x0B 0 0)) ∧
      (¬ small → isShared s = false → entry.toNat % 8 ≠ 0 → Gives (exec (.fsplit gd d a col) s) (fun t =>
        TrapStep s t (wordOf (.fsplit gd d a col)) 0x03 entry 3)))

/-- R104, R303: FFUSE takes the half of the companion split off last back once it has executed EXIT and all queues of
both have drained, with the OR of their arithmetic flags; it waits before that, and traps with SHAPE where no
companion is left. -/
def Claims.FuseJoinsHalves : Prop :=
  ∀ (s : State) (gd : Guard) (cid : Nat) (col : Bool) (rest : List (Nat × Bool)) (d : Ctx), Issues s gd →
    (s.cur.splits = [] → HandlerReady s → Gives (exec (.ffuse gd) s) (fun t =>
      TrapStep s t (wordOf (.ffuse gd)) 0x0B 0 0)) ∧
    (s.cur.splits = (cid, col) :: rest → s.ctx? cid = some d → d.cid = cid → chainAt s s.cur.seq = false →
      chainAt s d.seq = false →
      (d.phase = .exited → allDrained s d = true → allDrained s s.cur = true → Gives (exec (.ffuse gd) s) (fun t =>
        t.cur.h = (if col then s.cur.h else 2 * s.cur.h) ∧ t.cur.w = (if col then 2 * s.cur.w else s.cur.w) ∧
        t.cur.splits = rest ∧ t.cur.aflags = s.cur.aflags ||| d.aflags ∧ t.cur.pc = s.cur.pc + 8 ∧
        t.cur.g = s.cur.g ∧ (∀ x ∈ t.others, x.cid ≠ cid) ∧ ∀ k, memByte t k = memByte s k)) ∧
      (d.phase = .running → Gives (exec (.ffuse gd) s) (fun t => StallStep s t .begun)))

/-- R105, R107, R293, R340: CHAIN to another fragment of the launch opens a chain and traps with SHAPE on a pane above
15, on its own fragment and in a shared launch; UNCHAIN puts the end marker behind the MMA.chain commands queued
so far of an open chain of its own, and changes no other chain. -/
def Obligations.ChainsOpenAndClose : Prop :=
  ∀ (s : State) (gd : Guard) (a : GReg) (off : BitVec 28), Issues s gd →
    let pane := (s.cur.rg a).toNat
    let dst := 16 * (s.cur.seq / 16) + pane
    let i : Instr := .chain gd a false off
    (∀ x ∈ s.chains, x.src ≠ s.cur.seq) →
    ((∀ x ∈ s.chains, x.dst ≠ dst) → pane < 16 → heldOrigin s s.cur dst = true → dst ≠ s.cur.seq →
      (∀ x ∈ s.chains, x.src ≠ dst) → isShared s = false → Gives (exec i s) (fun t =>
        t.cur = { s.cur with pc := s.cur.pc + 8, wait := .none } ∧
        t = { s with cur := t.cur, chains := s.chains ++ [⟨s.cur.seq, dst, [], false, [], none, [], 0, none⟩] })) ∧
    (HandlerReady s → 15 < pane → Gives (exec i s) (fun t => TrapStep s t (wordOf i) 0x0B 0 0)) ∧
    (HandlerReady s → (∀ x ∈ s.chains, x.dst ≠ dst) → pane < 16 → dst = s.cur.seq ∨ isShared s = true →
      Gives (exec i s) (fun t => TrapStep s t (wordOf i) 0x0B 0 0)) ∧
    ∀ c : Chain, c.src = s.cur.seq → c.marker = none →
      Gives (exec (.unchain gd) { s with chains := c :: s.chains }) (fun t =>
        t.cur = { s.cur with pc := s.cur.pc + 8, wait := .none } ∧
        t.chains = { c with marker := some (chainCmds s s.cur.seq) } :: s.chains)

/-- R49, R174, R300: EXIT of a unit ends its context, keeps the trailer mask with the queues AFG, ABG and GRD (0x13)
always in it, and makes its WC stores visible; of a companion it leaves the context for FFUSE; before that
it takes back a half whose companion has ended, whatever chains stand there (the model's reading, assumption 48), and waits
for one that runs, and for held stores whose home's link or reset keeps them (which land over a later store: the model's
choice, assumption 75). It closes an open chain that the fragment sends as UNCHAIN does, and its input, and in a shared launch
releases the lease. -/
def Claims.ExitEndsUnit : Prop :=
  ∀ (s : State) (gd : Guard) (mask : BitVec 6) (u : UnitRec), Issues s gd → s.unit? s.cur.uid = some u →
    let kept := wcKept s s.cur.who s.cur.wc
    let landed := ∀ x ∈ s.chains, x.flight = []
    (s.cur.splits = [] → kept = [] → s.cur.compid = 0 → Gives (exec (.exit gd mask) s) (fun t =>
      t.cur.phase = .absent ∧
      (∃ v, t.unit? s.cur.uid = some v ∧ v.phase = .exited ∧ v.mask = mask ||| 0x13 ∧ v.cids = []) ∧
      (landed → Flushed s t (wcGoing s s.cur.who s.cur.wc)))) ∧
    (s.cur.splits = [] → kept ≠ [] → Gives (exec (.exit gd mask) s) (fun t =>
      t.cur = { s.cur with wc := kept, wait := .stall, since := t.cur.since } ∧ Flushed s t (wcGoing s s.cur.who s.cur.wc))) ∧
    (s.cur.splits = [] → kept = [] → s.cur.compid ≠ 0 → Gives (exec (.exit gd mask) s) (fun t =>
      t.cur.phase = .exited ∧ t.cur.cid = s.cur.cid ∧ t.cur.aflags = s.cur.aflags ∧ t.cur.wc = [] ∧
      (landed → Flushed s t (wcGoing s s.cur.who s.cur.wc)))) ∧
    (s.cur.splits = [] → kept = [] → landed → s.queue s.cur.seq 5 = [] → Gives (exec (.exit gd mask) s) (fun t =>
      (∀ y ∈ t.chains, y.dst ≠ s.cur.seq) ∧
      (∀ x ∈ s.chains, x.src = s.cur.seq → x.dst ≠ s.cur.seq → x.marker = none →
        { x with marker := some (chainCmds s s.cur.seq) } ∈ t.chains) ∧
      (∀ x ∈ s.chains, x.src ≠ s.cur.seq → x.dst ≠ s.cur.seq → x ∈ t.chains) ∧
      (s.cur.compid = 0 → isShared s = true →
        let f := s.frag s.cur.arr
        let g := t.frag s.cur.arr
        (f.holder = some s.cur.cid → g.holder = f.reqs.head? ∧ g.reqs = f.reqs.tail) ∧
        (f.holder ≠ some s.cur.cid → g.holder = f.holder ∧ g.reqs = f.reqs.filter (· != s.cur.cid))))) ∧
    (∀ cid col rest d, s.cur.splits = (cid, col) :: rest → s.ctx? cid = some d → d.cid = cid →
      let ready := d.phase = .exited ∧ allDrained s d = true ∧ allDrained s s.cur = true
      (ready → Gives (exec (.exit gd mask) s) (fun t =>
        t.cur.h = (if col then s.cur.h else 2 * s.cur.h) ∧ t.cur.w = (if col then 2 * s.cur.w else s.cur.w) ∧
        t.cur.splits = rest ∧ t.cur.aflags = s.cur.aflags ||| d.aflags ∧ t.cur.pc = s.cur.pc ∧ t.cur.wait = .stall ∧
        t.cur.g = s.cur.g ∧ (∀ x ∈ t.others, x.cid ≠ cid) ∧ ∀ k, memByte t k = memByte s k)) ∧
      (¬ ready → Gives (exec (.exit gd mask) s) (fun t => StallStep s t .stall)))

/-- R223, R362: YIELD with no pre-emption decision for its unit only moves on; under one, with drained queues and room
in the save area, the unit stops at the YIELD and its image is to hold 64 bytes and g1 to gN. -/
def Claims.YieldPoints : Prop :=
  ∀ (s : State) (gd : Guard) (n : BitVec 6) (u : UnitRec), Issues s gd → s.unit? s.cur.uid = some u →
    (u.phase ≠ .window → Gives (exec (.yield gd n) s) (fun t => PcStep s t (s.cur.pc + 8))) ∧
    (∀ a len, u.phase = .window → s.now < u.deadline → s.cur.compid = 0 → s.cur.splits = [] →
      chainAt s s.cur.seq = false → isShared s = false → u.space = some (a, len) → 64 + 8 * n.toNat ≤ len →
      u.cids = [s.cur.cid] → s.cur.vec = none →
      (allDrained s s.cur = true → Gives (exec (.yield gd n) s) (fun t =>
        t.cur.phase = .stopped ∧ t.cur.pc = s.cur.pc ∧ t.cur.g = s.cur.g ∧
        ∃ v m, t.unit? s.cur.uid = some v ∧ v.phase = .writing ∧ v.image = some m ∧ m.addr = a ∧
          m.bytes = 64 + 8 * n.toNat ∧ m.yieldN = some n.toNat)) ∧
      (allDrained s s.cur = false → Gives (exec (.yield gd n) s) (fun t => StallStep s t .begun)))

/- Commands in their queues -/

/-- R80, R113, R116, R117, R130, R284: COMMAND_START of an ARRIVE at the head of its queue with complete inputs adds its
increment to the counter and completes its token with success; with a faulted input the command does nothing but
complete with that input's status (at its COMMAND_START: log entry 44). -/
def Claims.CounterArrives : Prop :=
  ∀ (s : State) (seq : Nat) (k : Cmd) (c : Ctx) (gd : Guard) (ko ka kb kc : KNum) (ga gb : GReg), Orderly s →
    s.queue seq 3 = [k] → k.op = .arrive gd ko ka kb kc ga gb → k.st = .queued → k.page = none → k.id ≠ 0 →
    s.stopping k.uid = false → inputsDone k.ins = true → s.ctx? k.cid = some c → c.phase = .running →
    (firstFault k.ins = none → k.ga.toNat % 8 = 0 →
      ∀ ls leaf key, access s k.who .counter k.ga 8 = .ok (ls, leaf) → Plain ls key 8 →
        Gives (exec (.commandStart seq 3) s) (fun t =>
          memNat t key 8 = (memNat s key 8 + k.gb.toNat) % 2 ^ 64 ∧
          (∀ j, j < key ∨ key + 8 ≤ j → memByte t j = memByte s j) ∧ Completed s t k.id Done.ok)) ∧
    (∀ d, firstFault k.ins = some d → statusCode d.status ≠ 0 →
      Gives (exec (.commandStart seq 3) s) (fun t => Completed s t k.id d ∧ SameMem s t))

/-- R114, R124 to R127, R129, R357: COMMAND_START of an XCOPY or XRED with complete inputs reads both descriptors once; counts that
differ end it with DESC, formats that differ or that XRED does not add with TAG, a resume offset that is no multiple of 64
with DESC; else it is started with the descriptors and the translations of its pass and has moved nothing. -/
def Claims.CopiesStart : Prop :=
  ∀ (s : State) (seq : Nat) (k : Cmd) (x d : Sd) (gd : Guard) (ko ka kb kc : KNum) (ga gb : GReg) (res : Option GReg)
    (add : Bool), ReadyCmd s seq 2 k → k.st = .queued → k.blk = [] →
    k.op = (if add then .xred gd ko ka kb kc ga gb res else .xcopy gd ko ka kb kc ga gb res) →
    readSd s k k.ga = .ok x → readDst s k k.gb = .ok d →
    let off := k.res.toNat
    let ends (c : Nat) : Prop := Gives (exec (.commandStart seq 2) s) (fun t =>
      Completed s t k.id (k.faulted c (k.prog / 64)) ∧ SameMem s t)
    (x.fmt = d.fmt → x.count' ≠ d.count' → ends 0x14) ∧
    (x.fmt = d.fmt → x.count' = d.count' → off % 64 ≠ 0 → ends 0x14) ∧
    (x.fmt ≠ d.fmt → off % 64 = 0 → ends 0x08) ∧
    (x.fmt = d.fmt → x.count' = d.count' → off % 64 = 0 →
      (add = true → x.fmt ≠ .fp32 → x.fmt ≠ .i32 → x.fmt ≠ .w32 → ends 0x08) ∧
      (add = false ∨ x.fmt = .fp32 ∨ x.fmt = .i32 ∨ x.fmt = .w32 →
        let lo := elemAt d (max k.prog off)
        let p := passAll s k.who (fun j => [(.engRead, (x.elem j).1, x.size),
          (if add then .xred else .engWrite, (d.elem j).1, x.size)]) (d.count' - lo) lo Pass.start
        p.held = false → p.mtype = none → p.bad = none → Gives (exec (.commandStart seq 2) s) (fun t => SameMem s t ∧
          t.cur = s.cur ∧ ∃ k', t.cmd? seq 2 k.id = some k' ∧ k'.st = .started ∧ k'.src = some x ∧ k'.dsts = [d] ∧
            k'.xl = p.xl ∧ k'.prog = max k.prog off ∧ k'.bad = none)))

/-- R114, R137, R138, R139, R305, R333: COMMAND_START of a STRM with a legal selector and descriptor queues the stream at its
port, where fewer than four stand; a bit above 12 of the selector ends it with DESC. A GCFG of a grid that runs ends with
MODE, one with a bad element block with DESC, else it is started and has loaded nothing. GSTART starts a CONFIGURED grid and
else ends with MODE. -/
def Claims.GridCommandsStart : Prop :=
  ∀ (s : State) (seq : Nat) (k : Cmd) (gd : Guard) (ko ka kb kc : KNum) (ga gb : GReg), ReadyCmd s seq 4 k →
    k.st = .queued → k.src = none →
    let g := s.grid seq
    let go : Instr := .commandStart seq 4
    let ends (c : Nat) : Prop := Gives (exec go s) (fun t => Completed s t k.id (k.faulted c 0) ∧ t.grid seq = g ∧ SameMem s t)
    let begun (t : State) : Prop := SameMem s t ∧ t.cur = s.cur ∧ ∃ k', t.cmd? seq 4 k.id = some k' ∧ k'.st = .started ∧
      k'.op = k.op
    (k.op = .strm gd ko ka kb kc ga gb → k.blk = [] →
      let sel := k.gb.toNat
      let port := sel % 256
      let key := 32 * (sel / 256 % 16) + port
      let out := decide (16 ≤ port)
      (8192 ≤ sel → ends 0x14) ∧
      (∀ d, sel < 8192 → port < 4 ∨ (16 ≤ port ∧ port < 20) → sel / 256 % 16 < k.h * k.w →
        sel / 4096 % 2 = 0 ∨ out = false → (if out then readDst s k k.ga else readSd s k k.ga) = .ok d →
        ((if out then strmOut d.fmt else strmIn d.fmt) = false → ends 0x14) ∧
        ((if out then strmOut d.fmt else strmIn d.fmt) = true → 0 < d.count' → (g.port key).streams.length < 4 →
          let p := passAll s k.who (fun j => [(if out then .engWrite else .engRead, (d.elem j).1, d.size)]) d.count' 0
            Pass.start
          p.held = false → p.mtype = none → p.bad = none → Gives (exec go s) (fun t => begun t ∧
            ((t.grid seq).port key).streams = (g.port key).streams ++ [k.id] ∧
            ((t.grid seq).port key).q = (g.port key).q)))) ∧
    (k.op = .gcfg gd ko ka kb kc ga →
      (g.st = .running → ends 0x16) ∧
      (g.st ≠ .running → k.ga.toNat % 128 ≠ 0 → ends 0x03) ∧
      (∀ bs, g.st ≠ .running → k.ga.toNat % 128 = 0 → gcfgImage s k = .ok bs →
        let bad := ∃ i < k.elems, badBlock k.h k.w i ((bs.drop (128 * i)).take 128) = true
        (bad → ends 0x14) ∧ (¬ bad → Gives (exec go s) (fun t => begun t ∧ t.grid seq = g)))) ∧
    (k.op = .gstart gd ko ka kb kc →
      (g.st ≠ .configured → ends 0x16) ∧
      (g.st = .configured → Gives (exec go s) (fun t => begun t ∧ t.grid seq = { g with st := .running, start := some k.id })))

/-- R193, R195 to R198, R201, R207: COMMAND_START of an XSEND whose blocks pass their checks makes a send to every member of its
target, with nothing sent yet; without an entry for its group it ends with PERM at the destination (0x23). An XFETCH whose
block passes its checks sends its order to the owner and waits for END. -/
def Claims.FabricCommandsStart : Prop :=
  ∀ (s : State) (seq : Nat) (k : Cmd) (gd : Guard) (ko ka kb kc : KNum) (ga gb : GReg) (add : Bool) (res : Option GReg),
    ReadyCmd s seq 3 k → k.st = .queued → k.blk = [] → (∀ f ∈ s.fab.cmds, f.id ≠ k.id) →
    let go : Instr := .commandStart seq 3
    let begun (t : State) : Prop := SameMem s t ∧ t.cur = s.cur ∧ ∃ k', t.cmd? seq 3 k.id = some k' ∧ k'.st = .started ∧
      k'.op = k.op
    let made (t : State) (ms : List Nat) (o : Option FetchOrder) : Prop := ∃ f ∈ t.fab.cmds, f.id = k.id ∧ f.order = o ∧
      f.peers.map (·.pkg) = ms ∧ f.sent = [] ∧ f.nak = none ∧ f.endOff = none ∧ f.commit = false
    (k.op = .xsend gd ko ka kb kc ga gb add res → ∀ tg d, sendPlan s k add = .ok (tg, d) →
      (destinations s tg = none → Gives (exec go s) (fun t => Completed s t k.id (k.faulted 0x23 (k.prog / 64)) ∧ SameMem s t)) ∧
      (∀ ms ver, destinations s tg = some (ms, ver) →
        (d.bytes ≤ k.res.toNat → Gives (exec go s) (fun t => Completed s t k.id Done.ok ∧ SameMem s t)) ∧
        (k.res.toNat < d.bytes →
          let lo := elemAt d (max k.prog k.res.toNat)
          let p := passAll s k.who (fun j => [(.engRead, (d.elem j).1, d.size)]) (d.count' - lo) lo Pass.start
          p.held = false → p.mtype = none → p.bad = none → Gives (exec go s) (fun t => begun t ∧ made t ms none ∧
            t.fab.ports = s.fab.ports ∧ ∃ k', t.cmd? seq 3 k.id = some k' ∧ k'.src = some d ∧ k'.tgt = some tg ∧
              k'.prog = max k.prog k.res.toNat)))) ∧
    (k.op = .xfetch gd ko ka kb kc ga →
      (∀ c a b, fetchPlan s k = .fail c a b → 0 < c → c < 128 → toFirmware s k c = false → Gives (exec go s) (fun t =>
        Completed s t k.id (k.faulted c 0) ∧ SameMem s t)) ∧
      (∀ o, fetchPlan s k = .ok o →
        (destinations s o.recip = none → Gives (exec go s) (fun t => Completed s t k.id (k.faulted 0x23 0) ∧ SameMem s t)) ∧
        (∀ ms ver, destinations s o.recip = some (ms, ver) → seqRoom s (k.seq / 16) [o.source.pkg] = true →
          Gives (exec go s) (fun t => begun t ∧ made t ms (some o) ∧
            Leaves t (fun p => p.dst = o.source.pkg ∧ p.msg = .order o)))))

/-- R141, R305: a GSPILL whose block breaks its limits ends with DESC, one at an address that is no multiple of 16 with ALIGN;
while the port's ring holds a token it waits at the head of its queue; else the port has the block's ring, empty, and the
command completes. A GSTOP completes with every stream of a port and a pending GSTART, which end with CANCELLED, a stream with
the elements that it moved; it detaches every ring, brings every element to its reset state and leaves the grid IDLE. -/
def Claims.RingsAndStops : Prop :=
  ∀ (s : State) (seq : Nat) (js : List Cmd) (k : Cmd) (gd : Guard) (ko ka kb kc : KNum) (ga : GReg),
    ReadyBehind s seq 4 js k → k.st = .queued → k.blk = [] →
    let g := s.grid seq
    let go : Instr := .commandStart seq 4
    let ends (c : Nat) : Prop := Gives (exec go s) (fun t => Completed s t k.id (k.faulted c 0) ∧ t.grid seq = g ∧ SameMem s t)
    (js = [] → k.op = .gspill gd ko ka kb kc ga →
      (k.ga.toNat % 16 ≠ 0 → ends 0x03) ∧
      ∀ b, k.ga.toNat % 16 = 0 → readBlock s k.who .engRead k.ga 16 = .ok b →
        let port := fld b 0 1
        let pane := fld b 1 1
        let base := fld b 4 4
        let size := fld b 8 4
        let key := 32 * pane + port
        let legal := 0x10 ≤ port ∧ port ≤ 0x13 ∧ pane < k.h * k.w ∧ fld b 2 2 = 0 ∧ fld b 12 4 = 0 ∧ base % 64 = 0 ∧
          size % 64 = 0 ∧ 64 ≤ size ∧ base + size ≤ 2 ^ 24 * (k.h * k.w)
        let full := ∃ r, (g.port key).ring = some r ∧ r.toks ≠ []
        (¬ legal → ends 0x14) ∧
        (legal → full → Gives (exec go s) (fun t => t.grid seq = g ∧ SameMem s t ∧ t.cur = s.cur ∧
          ∃ k', t.cmd? seq 4 k.id = some k' ∧ k'.st = .queued)) ∧
        (legal → ¬ full → Gives (exec go s) (fun t => Completed s t k.id Done.ok ∧ SameMem s t ∧
          (t.grid seq).port key = { g.port key with ring := some ⟨base, size, [], 0⟩ } ∧
          (∀ p, p ≠ key → (t.grid seq).port p = g.port p) ∧ t.grid seq = { g with ports := (t.grid seq).ports }))) ∧
    (k.op = .gstop gd ko ka kb kc →
      (∀ j ∈ js, j.st = .started ∧ j.id ≠ 0 ∧ issuerGone s j = false ∧ ∀ gd ko ka kb kc ga, j.op ≠ .gcfg gd ko ka kb kc ga) →
      ((js ++ [k]).map (·.id)).Nodup → (∀ x ∈ g.ports, ∀ i ∈ x.2.streams, ∃ j ∈ js, j.id = i) →
      Gives (exec go s) (fun t => Completed s t k.id Done.ok ∧ t.grid seq = Grid.reset ∧ SameMem s t ∧
        ∀ j ∈ js,
          ((∃ x ∈ g.ports, j.id ∈ x.2.streams) → Completed s t j.id (j.faulted 0x26 j.prog)) ∧
          ((∀ x ∈ g.ports, j.id ∉ x.2.streams) → g.start = some j.id → Completed s t j.id (j.faulted 0x26 0)) ∧
          ((∀ x ∈ g.ports, j.id ∉ x.2.streams) → g.start ≠ some j.id →
            ∃ j' ∈ t.queue seq 4, j'.id = j.id ∧ j'.st = .started)))

/-- R131, R164 to R172, R308: COMMAND_START of a KWATCH at an address that is no multiple of 8 ends it with ALIGN, one whose checks
fail with their cause; else it reads the location: where that has reached the threshold it completes with success, else the
watch is active. -/
def Claims.WatchesStart : Prop :=
  ∀ (s : State) (seq : Nat) (k : Cmd) (gd : Guard) (ko ka kb kc : KNum) (ga gb : GReg), ReadyCmd s seq 5 k → k.st = .queued →
    k.op = .kwatch gd ko ka kb kc ga gb →
    let go : Instr := .commandStart seq 5
    let ends (c : Nat) : Prop := Gives (exec go s) (fun t => Completed s t k.id (k.faulted c 0) ∧ SameMem s t)
    (k.ga.toNat % 8 ≠ 0 → ends 0x03) ∧
    (k.ga.toNat % 8 = 0 →
      (∀ c a b, accessChecks s k.who .watch k.ga 8 = .fail c a b → 0 < c → c < 128 → toFirmware s k c = false → ends c) ∧
      (∀ ls leaf, accessChecks s k.who .watch k.ga 8 = .ok (ls, leaf) →
        let k1 : Cmd := { k with xl := (leaf.map (fun l => (k.ga.toNat / 65536, l))).toList }
        ∀ cs, useLoc s k1 .watch k.ga 8 = .ok cs →
          (k.gb.toNat ≤ readLocs s cs → Gives (exec go s) (fun t => Completed s t k.id Done.ok ∧ SameMem s t)) ∧
          (readLocs s cs < k.gb.toNat → Gives (exec go s) (fun t => SameMem s t ∧ t.cur = s.cur ∧
            t.cmd? seq 5 k.id = some { k1 with st := .started, ready := s.now }))))

/-- R114, R125 to R128, R357: COMMAND_START of an XCAST reads its source's descriptor, its block and the descriptors of its
receivers once; a block or counts that break R128's limits, or a resume offset that is no multiple of 64, end it with DESC,
another format at a receiver with TAG, an address of the block that is no multiple of 64 with ALIGN; else it is started with
them and the translations of its pass, receiver by receiver within each element, and has moved nothing. -/
def Claims.CastsStart : Prop :=
  ∀ (s : State) (seq : Nat) (k : Cmd) (x : Sd) (gd : Guard) (ko ka kb kc : KNum) (ga gb : GReg) (res : Option GReg)
    (bs : List Nat) (ds : List Sd), ReadyCmd s seq 2 k → k.st = .queued → k.blk = [] →
    k.op = .xcast gd ko ka kb kc ga gb res → readSd s k k.ga = .ok x →
    let off := k.res.toNat
    let go : Instr := .commandStart seq 2
    let ends (c : Nat) : Prop := Gives (exec go s) (fun t => Completed s t k.id (k.faulted c (k.prog / 64)) ∧ SameMem s t)
    (k.gb.toNat % 64 ≠ 0 → ends 0x03) ∧
    (k.gb.toNat % 64 = 0 → readRun s k.who .engRead 64 4 k.gb = .ok bs →
      let n := fld bs 0 4
      let common := fld bs 8 8
      let slice := fld bs 16 8
      let stride := fld bs 24 8
      let legal := 1 ≤ n ∧ n ≤ 16 ∧ zeroFrom bs 4 4 = true ∧ zeroFrom bs (0x20 + 8 * n) (8 * (16 - n)) = true ∧
        zeroFrom bs 0xA0 96 = true
      (¬ legal → ends 0x14) ∧
      (legal → ds.length = n → (∀ i d, ds[i]? = some d → readDst s k (u64 (fld bs (0x20 + 8 * i) 8)) = .ok d) →
        let fits := (∀ d ∈ ds, d.count' = common + slice) ∧ common + (n - 1) * stride + slice ≤ x.count'
        (¬ fits → ends 0x14) ∧
        (fits → off % 64 ≠ 0 → ends 0x14) ∧
        (fits → off % 64 = 0 → (∃ d ∈ ds, d.fmt ≠ x.fmt) → ends 0x08) ∧
        (fits → off % 64 = 0 → (∀ d ∈ ds, d.fmt = x.fmt) →
          let from' (r j : Nat) : Nat := if j < common then j else common + r * stride + (j - common)
          let lo := elemAt x (max k.prog off)
          let p := passAll s k.who (fun j => (ds.zipIdx.map (fun e =>
            [(.engRead, (x.elem (from' e.2 j)).1, x.size), (.engWrite, (e.1.elem j).1, x.size)])).flatten)
            (common + slice - lo) lo Pass.start
          p.held = false → p.mtype = none → p.bad = none → Gives (exec go s) (fun t => SameMem s t ∧ t.cur = s.cur ∧
            ∃ k', t.cmd? seq 2 k.id = some k' ∧ k'.st = .started ∧ k'.src = some x ∧ k'.dsts = ds ∧
              k'.cast = (common, slice, stride) ∧ k'.xl = p.xl ∧ k'.prog = max k.prog off ∧ k'.bad = none))))

/-- Starts of queued commands. -/
def Obligations.CommandStarts : Prop :=
  Claims.CounterArrives ∧ Claims.CopiesStart ∧ Claims.CastsStart ∧ Claims.GridCommandsStart ∧ Claims.RingsAndStops ∧
  Claims.WatchesStart ∧ Claims.FabricCommandsStart

/-- R81, R88, R95, R96, R97, R99, R116, R151, R275, R297: COMMAND_BOUNDARY starts an ASWAP, WSWAP, ACLR or EDGE at the head of
either array queue on a free array: ACLR beyond the rows of the bank ends with SHAPE, EDGE takes its configuration from its
block, or ends with DESC. At its boundary ASWAP exchanges the halves of every south-edge bank, WSWAP the two planes, ACLR
makes its rows of the working half +0, and each completes with success. -/
def Claims.BriefCommands : Prop :=
  ∀ (s : State) (seq q : Nat) (k : Cmd) (gd : Guard) (ko ka kb kc : KNum) (ga gb : GReg) (bg : Bool),
    ArrayTurn s seq q k → (s.frag seq).busy ≤ s.now →
    let f := s.frag seq
    let next : Instr := .commandBoundary seq
    let base := k.gb.toNat % 65536
    let rows := k.gb.toNat / 65536 % 65536
    let same (t : State) : Prop := ∀ w, Store.get 0 t.accs w = Store.get 0 s.accs w
    let planes (t : State) : Prop := (t.frag seq).plane0 = f.plane0 ∧ (t.frag seq).plane1 = f.plane1
    let begun (t : State) : Prop := (t.frag seq).cur = some k.id ∧ s.now ≤ (t.frag seq).busy ∧ t.accVis = s.accVis ∧
      (t.frag seq).active = f.active ∧ planes t ∧ SameMem s t ∧
      ∃ k', t.cmd? seq q k.id = some k' ∧ k'.st = .started ∧ k'.op = k.op
    let ends (c : Nat) : Prop := Gives (exec next s) (fun t => Completed s t k.id (k.faulted c 0) ∧ planes t ∧ SameMem s t)
    (f.cur = none → k.st = .queued →
      (k.op = .aswap gd ko ka kb kc bg ∨ k.op = .wswap gd ko ka kb kc bg → Gives (exec next s) begun) ∧
      (k.op = .aclr gd ko ka kb kc gb bg →
        (2 ^ 32 ≤ k.gb.toNat → ends 0x14) ∧
        (k.gb.toNat < 2 ^ 32 → rows ≠ 0 → f.arows < base + rows → ends 0x0B) ∧
        (k.gb.toNat < 2 ^ 32 → rows = 0 ∨ base + rows ≤ f.arows → Gives (exec next s) begun)) ∧
      (k.op = .edge gd ko ka kb kc ga bg → k.blk = [] →
        (k.ga.toNat % 64 ≠ 0 → ends 0x03) ∧
        ∀ b, k.ga.toNat % 64 = 0 → readBlock s k.who .engRead k.ga 64 = .ok b →
          let act := fld b 16 1
          let rm := fld b 18 1
          let lo := u32 (fld b 20 4)
          let hi := u32 (fld b 24 4)
          let sc := fld b 0 8
          let bi := fld b 8 8
          (3 ≤ act ∨ 16 ≤ rm ∨ rm % 8 = 5 ∨ rm % 8 = 6 ∨ fld b 19 1 ≠ 0 ∨ zeroFrom b 28 36 = false → ends 0x14) ∧
          (∀ fmt ss bs, act < 3 → (act = 2 → (bits32 lo).isNan = false ∧ (bits32 hi).isNan = false ∧
            ltVal (bits32 hi) (bits32 lo) = false) → rm < 16 → rm % 8 ≠ 5 → rm % 8 ≠ 6 → fld b 19 1 = 0 → zeroFrom b 28 36 = true →
            tagOf (fld b 17 1) = some fmt → fmt ∈ [Tag.fp32, .bf16, .fp16, .e4m3, .e5m2, .i32] →
            (sc ≠ 0 → sc % 4 = 0 ∧ readRun s k.who .engRead 4 f.nmax (u64 sc) = .ok ss) →
            (bi ≠ 0 → bi % 4 = 0 ∧ readRun s k.who .engRead 4 f.nmax (u64 bi) = .ok bs) →
            Gives (exec next s) (fun t => begun t ∧
              let e := (t.frag seq).edgeOf q
              let arr (a : Nat) (l : List Nat) (r : Option (Store W32)) : Prop := (a = 0 → r = none) ∧
                (a ≠ 0 → ∃ w, r = some w ∧ ∀ i < f.nmax, Tab.get? w i = some (u32 (fld l (4 * i) 4)))
              arr sc ss e.scale ∧ arr bi bs e.bias ∧ e.act = act ∧ e.ofmt = fmt ∧ e.sat = decide (8 ≤ rm) ∧ e.lo = lo ∧
              e.hi = hi ∧ (rm % 8 ≠ 7 → e.rm = rmOf (u64 (rm % 8))) ∧
              (rm % 8 = 7 → ∀ c, s.ctx? k.cid = some c → e.rm = rmOf c.rmode) ∧
              (f.dual = true → (t.frag seq).edgeOf (1 - q) = f.edgeOf (1 - q)))))) ∧
    (f.cur = some k.id → k.st = .started →
      (k.op = .aswap gd ko ka kb kc bg → Gives (exec next s) (fun t => Completed s t k.id Done.ok ∧ same t ∧ planes t ∧
        ∀ i < f.w, Store.get 0 t.accVis (seq + 4 * (f.h - 1) + i) = 1 - Store.get 0 s.accVis (seq + 4 * (f.h - 1) + i))) ∧
      (k.op = .wswap gd ko ka kb kc bg → Gives (exec next s) (fun t => Completed s t k.id Done.ok ∧ same t ∧ planes t ∧
        (t.frag seq).active = !f.active)) ∧
      (k.op = .edge gd ko ka kb kc ga bg → Gives (exec next s) (fun t => Completed s t k.id Done.ok ∧ same t ∧ planes t ∧
        (t.frag seq).edge0 = f.edge0 ∧ (t.frag seq).edge1 = f.edge1)) ∧
      (k.op = .aclr gd ko ka kb kc gb bg → Gives (exec next s) (fun t => Completed s t k.id Done.ok ∧ planes t ∧
        let inside (w : Nat) : Prop := ∃ r n, base ≤ r ∧ r < base + rows ∧ n < f.nmax ∧ w = accKey s seq false r n
        ∀ w, (inside w → Store.get 0 t.accs w = 0) ∧ (¬ inside w → Store.get 0 t.accs w = Store.get 0 s.accs w))))

/-- R83, R88, R90, R94, R355: a WLOAD that starts on a free array makes the plane that its queue loads invalid; a format without
a geometry ends it with TAG, one of another geometry with MODE, extents outside the fragment with SHAPE; else the plane
holds the K × N codes of its stream, N fastest. At its boundary it leaves the array, and its plane is valid and its token
complete once that is due. -/
def Claims.WeightsLoad : Prop :=
  ∀ (s : State) (seq q : Nat) (k : Cmd) (gd : Guard) (ko ka kb kc : KNum) (ga gb : GReg) (bg : Bool),
    ArrayTurn s seq q k → k.op = .wload gd ko ka kb kc ga gb bg → (s.frag seq).busy ≤ s.now →
    let f := s.frag seq
    let next : Instr := .commandBoundary seq
    let kk := k.gb.toNat % 65536
    let n := k.gb.toNat / 65536 % 65536
    let pl := f.loadPlane q
    let keeps (t : State) (i : Nat) : Prop := (t.frag seq).plane i = f.plane i
    (f.cur = none → k.st = .queued → k.blk = [] → k.gb.toNat < 2 ^ 32 → ∀ d, readSd s k k.ga = .ok d →
      let ends (c : Nat) : Prop := Gives (exec next s) (fun t => Completed s t k.id (k.faulted c 0) ∧
        ((t.frag seq).plane pl).valid = false ∧ keeps t (1 - pl) ∧ SameMem s t)
      (geomOf d.fmt = none → ends 0x08) ∧
      (∀ g, geomOf d.fmt = some g → g ≠ f.geom → ends 0x16) ∧
      (geomOf d.fmt = some f.geom → kk = 0 ∨ f.kfrag < kk ∨ n = 0 ∨ f.nmax < n → ends 0x0B) ∧
      (∀ v : Nat → Nat, geomOf d.fmt = some f.geom → 0 < kk → kk ≤ f.kfrag → 0 < n → n ≤ f.nmax → n ≤ 2048 →
        d.count' = kk * n → sided d.fmt = false → (∀ j < kk * n, readElem s k d j = .ok (v j)) →
        Gives (exec next s) (fun t => SameMem s t ∧ keeps t (1 - pl) ∧ (t.frag seq).cur = some k.id ∧
          (∃ k', t.cmd? seq q k.id = some k' ∧ k'.st = .started) ∧
          let p := (t.frag seq).plane pl
          p.valid = false ∧ p.fmt = d.fmt ∧ p.k = kk ∧ p.n = n ∧ p.by' = k.id ∧
          ∀ i < kk, ∀ c < n, p.code i c = v (i * n + c)))) ∧
    (f.cur = some k.id → k.st = .started → Gives (exec next s) (fun t => SameMem s t ∧ (t.frag seq).cur = none ∧
      (s.now < k.ready → keeps t 0 ∧ keeps t 1 ∧ ∃ k', t.cmd? seq q k.id = some k' ∧ k'.st = .passed ∧ k'.fin = some Done.ok) ∧
      (k.ready ≤ s.now → Completed s t k.id Done.ok ∧ ((t.frag seq).plane k.cast.1).valid =
        (decide ((f.plane k.cast.1).by' = k.id) || (f.plane k.cast.1).valid))))

/-- R81, R88, R89, R92, R93, R94, R97, R107, R110, R111, R116, R156, R157, R322: an MMA that starts on an invalid plane, on activations
of another K, or with .chain where no chain of its own is open, ends with SHAPE; a row limit without .cin, or a ragged counter
at 0 or at no multiple of 8, ends it with DESC; else it is started with its rows, a ragged one with at most 16 of those that its
counter names. Each row that has entered is multiplied by the plane. It goes to its row of the working half: in float mode the
ordered sum, added to what stands there unless .set replaces it, in integer mode the exact sum, saturated to 32 bits; no other
word changes. With .chain it goes through the edge unit of its queue to the chain, K_frag + W + 12 cycles after it entered,
and no word changes. The command keeps the flags: ANV for a result of exponent 255, SAT for a saturated one, NV for a
signalling operand, or those of the edge unit. With its last row, which a ragged MMA has taken where its last read showed
closed, it leaves the array once its boundary has come. A row beyond the stream or the bank, and one that cannot be read, end
it with the rows done (the model's choice, assumption 80). -/
def Claims.ArrayProducts : Prop :=
  ∀ (s : State) (seq q : Nat) (k : Cmd) (gd : Guard) (ko ka kb kc : KNum) (ga gb : GReg) (bg chn rag set : Bool) (d : Sd),
    ArrayTurn s seq q k → k.op = .mma gd ko ka kb kc ga gb bg chn rag false set →
    let f := s.frag seq
    let opens (x : Chain) : Prop := x.src = seq ∧ (x.marker = none ∨ ∃ l, x.marker = some l ∧ k.id ∈ l)
    (f.cur = none → k.st = .queued → k.blk = [] → k.gb.toNat < 2 ^ 32 → f.busy ≤ s.now →
      let next : Instr := .commandBoundary seq
      let p := f.plane (f.usePlane q)
      let m := ((d.dims.drop 1).map (·.1)).foldl (· * ·) 1
      let ends (c : Nat) : Prop := Gives (exec next s) (fun t => Completed s t k.id (k.faulted c k.prog) ∧ SameMem s t)
      (65536 ≤ k.gb.toNat → ends 0x14) ∧
      (k.gb.toNat < 65536 → p.valid = false → ends 0x0B) ∧
      (k.gb.toNat < 65536 → p.valid = true → readSd s k k.ga = .ok d →
        (d.fmt ∉ [Tag.bf16, .fp16, .e4m3, .e5m2, .ob8] → ends 0x08) ∧
        (d.fmt ∈ [Tag.bf16, .fp16, .e4m3, .e5m2] →
          ((d.dims.head?.map (·.1)).getD 0 ≠ p.k → ends 0x0B) ∧
          ((d.dims.head?.map (·.1)).getD 0 = p.k →
            (rag = true → d.count = 0 ∨ d.count.toNat % 8 ≠ 0 → ends 0x14) ∧
            let counter := passOps s k.who 0 Pass.start (if rag then [(.watch, d.count, 8)] else [])
            let pass := passAll s k.who (fun j => [(.engRead, (d.elem j).1, d.size)]) d.count' 0 counter
            ∀ cb, (rag = true → d.count ≠ 0 ∧ d.count.toNat % 8 = 0 ∧ counter.mtype = none ∧ counter.bad = none ∧
                useBlock s { k with src := some d, xl := pass.xl } .watch d.count 8 = .ok cb) →
              pass.held = false → pass.mtype = none → pass.bad = none →
              let n := fld cb 0 8 % 2 ^ 63
              let rows := if rag then min n 16 else m
              (chn = true → (∀ x ∈ s.chains, ¬ opens x) → ends 0x0B) ∧
              ((chn = true → ∃ x ∈ s.chains, opens x) → Gives (exec next s) (fun t => SameMem s t ∧
                (t.frag seq).cur = some k.id ∧ s.now + (rows - k.prog) * tickOf s seq ≤ (t.frag seq).busy ∧
                ∃ k', t.cmd? seq q k.id = some k' ∧ k'.st = .started ∧ k'.src = some d ∧ k'.prog = k.prog ∧
                  k'.cast = (f.usePlane q, rows, m) ∧
                  (rag = true → k'.ragN = n ∧ k'.ragC = decide (2 ^ 63 ≤ fld cb 0 8)))))))) ∧
    (f.cur = some k.id → k.st = .started → k.src = some d → s.ecc = [] → k.prog < rowsEntered s seq k →
      let p := f.plane k.cast.1
      let row := k.gb.toNat % 65536 + k.prog
      let go : Instr := .commandCompletion seq q k.id (k.prog + 1)
      let int := isOb d.fmt && isOb p.fmt
      let last : Prop := if rag then k.ragC = true ∧ k.ragN ≤ k.prog + 1 else k.prog + 1 = k.cast.2.2
      let ends (c : Nat) : Prop := Gives (exec go s) (fun t => Completed s t k.id (k.faulted c k.prog) ∧ SameMem s t)
      let took (t : State) (fl : BitVec 8) : Prop := ∃ k', t.cmd? seq q k.id = some k' ∧ k'.prog = k.prog + 1 ∧
        k'.flags = k.flags ||| fl ∧ (k'.st = .passed ↔ last ∧ f.busy ≤ s.now) ∧
        (k'.st = .passed → k'.fin = some Done.ok ∧ (t.frag seq).cur = none)
      (k.cast.2.2 ≤ k.prog → ends 0x0B) ∧
      (∀ acts, k.prog < k.cast.2.2 → p.bad = false → readAct s k d k.prog p.k p.k 0 = .ok acts →
        (chn = false → f.arows ≤ row → ends 0x0B) ∧
        (chn = false → p.n ≤ f.nmax → row < f.arows →
          let old (n : Nat) : W32 := Store.get 0 s.accs (accKey s seq false row n)
          let float (n : Nat) : W32 := codeOf (if set then (orderedSum p n acts).1
            else (addVal false (bits32 (old n)) (orderedSum p n acts).1).1)
          let exact (n : Nat) : Int := intSum p n acts + (if set then 0 else (old n).toInt)
          let cut (n : Nat) : Int := max (-2 ^ 31) (min (2 ^ 31 - 1) (exact n))
          let some' (g : Nat → Bool) (b : BitVec 8) : BitVec 8 := if (List.range p.n).any g then b else 0
          let flags := if int then some' (fun n => exact n != cut n) fSAT
            else some' (fun n => (float n).toNat / 2 ^ 23 % 256 == 255) fANV |||
              some' (fun n => (orderedSum p n acts).2 != 0 || (!set && (bits32 (old n)).isSig)) fNV
          Gives (exec go s) (fun t => (∀ key, memByte t key = memByte s key) ∧ t.chains = s.chains ∧
            (∀ n < p.n, Store.get 0 t.accs (accKey s seq false row n) = if int then BitVec.ofInt 32 (cut n) else float n) ∧
            (∀ w, (∀ n < p.n, w ≠ accKey s seq false row n) → Store.get 0 t.accs w = Store.get 0 s.accs w) ∧ took t flags)) ∧
        (chn = true → (∀ x ∈ s.chains, ¬ opens x) → ends 0x0B) ∧
        (∀ c, chn = true → s.chains = [c] → opens c →
          let edge (n : Nat) : Nat × BitVec 8 := edgeOut (f.edgeOf q) int
            (if int then BitVec.ofInt 32 (intSum p n acts) else codeOf (orderedSum p n acts).1) n
          let due := k.ready - (k.cast.2.1 - k.prog) * tickOf s seq + (f.kfrag + f.fragW + 12) * tickOf s seq
          Gives (exec go s) (fun t => SameMem s t ∧
            t.chains = [{ c with flight := [⟨k.id, due, (f.edgeOf q).ofmt, (List.range p.n).map (fun n => (edge n).1)⟩] }] ∧
            ∃ fl, took t fl ∧ ∀ b < 8, fl.getLsbD b = (List.range p.n).any (fun n =>
              (edge n).2.getLsbD b || (!int && (orderedSum p n acts).2.getLsbD b))))) ∧
      (∀ c a b, k.prog < k.cast.2.2 → 0 < c → c < 128 → readAct s k d k.prog p.k p.k 0 = .fail c a b → ends c))

/-- R81, R88, R89, R93, R94, R107, R322: an MMA.cin that starts on an invalid plane, or whose row limit L is 0 or goes beyond the
bank, ends with SHAPE; else it is started with L rows to take. In each cycle it takes the oldest row of its chain's FIFO as an
activation row: one of a format that is none of an MMA's ends it with TAG, one of another length than the plane's K with
SHAPE (such a row stays in the FIFO, the model's choice, assumption 80); else the row leaves the FIFO and its product goes to
the bank row, or with .chain to the chain that the fragment sends. With L rows taken it leaves the array, and so it does when it
consumes the end marker behind every row, which closes the chain; its status says which, and how many rows it took. While no
row and no marker has come it waits. -/
def Claims.ChainedProducts : Prop :=
  ∀ (s : State) (seq q : Nat) (k : Cmd) (gd : Guard) (ko ka kb kc : KNum) (ga gb : GReg) (bg chn set : Bool),
    ArrayTurn s seq q k → k.op = .mma gd ko ka kb kc ga gb bg chn false true set → (s.frag seq).busy ≤ s.now →
    let f := s.frag seq
    let base := k.gb.toNat % 65536
    let limit := k.gb.toNat / 65536
    let opens (x : Chain) : Prop := x.src = seq ∧ (x.marker = none ∨ ∃ l, x.marker = some l ∧ k.id ∈ l)
    (f.cur = none → k.st = .queued →
      let next : Instr := .commandBoundary seq
      let p := f.plane (f.usePlane q)
      let ends (c : Nat) : Prop := Gives (exec next s) (fun t => Completed s t k.id (k.faulted c k.prog) ∧ SameMem s t)
      (2 ^ 32 ≤ k.gb.toNat → ends 0x14) ∧
      (k.gb.toNat < 2 ^ 32 → p.valid = false → ends 0x0B) ∧
      (k.gb.toNat < 2 ^ 32 → limit = 0 ∨ f.arows < base + limit → ends 0x0B) ∧
      (chn = true → k.gb.toNat < 2 ^ 32 → (∀ x ∈ s.chains, ¬ opens x) → ends 0x0B) ∧
      (k.gb.toNat < 2 ^ 32 → p.valid = true → 0 < limit → base + limit ≤ f.arows →
        (chn = true → ∃ x ∈ s.chains, opens x) → Gives (exec next s) (fun t => SameMem s t ∧ t.chains = s.chains ∧
          (t.frag seq).cur = some k.id ∧ ∃ k', t.cmd? seq q k.id = some k' ∧ k'.st = .started ∧ k'.prog = k.prog ∧
            k'.cast = (f.usePlane q, limit, limit)))) ∧
    (f.cur = some k.id → k.st = .started → k.fin = none → s.ecc = [] →
      let p := f.plane k.cast.1
      let row := base + k.prog
      let go : Instr := .commandCompletion seq q k.id (k.prog + 1)
      let ends (c : Nat) : Prop := Gives (exec go s) (fun t => Completed s t k.id (k.faulted c k.prog) ∧ SameMem s t ∧
        t.chains.map (fun x => (x.src, x.dst, x.fifo, x.rrows)) = s.chains.map (fun x => (x.src, x.dst, x.fifo, x.rrows)))
      let left (t : State) (st : W32) : Prop := SameMem s t ∧ (t.frag seq).cur = none ∧
        ∃ k', t.cmd? seq q k.id = some k' ∧ k'.st = .passed ∧ k'.fin = some (Done.ofStatus st) ∧ k'.prog = k.prog
      let took (t : State) : Prop := (t.frag seq).busy = s.now + tickOf s seq ∧ (t.frag seq).cur = some k.id ∧
        ∃ k', t.cmd? seq q k.id = some k' ∧ k'.st = .started ∧ k'.prog = k.prog + 1
      (k.cast.2.1 ≤ k.prog → Gives (exec go s) (fun t => left t (BitVec.ofNat 32 (1 + 256 * (k.prog % 2 ^ 24))) ∧ t.chains = s.chains)) ∧
      (k.prog < k.cast.2.1 →
        ((∀ c ∈ s.chains, c.dst = seq → c.fifo = [] ∧ (c.rrows ≠ [] ∨ c.marker ≠ some [])) → exec go s = .next s) ∧
        (∀ c cs, s.chains = c :: cs → c ∉ cs → c.dst = seq → c.fifo = [] → c.rrows = [] → c.marker = some [] → k.prog < 2 ^ 13 →
          Gives (exec go s) (fun t => left t (BitVec.ofNat 32 (2 ^ 31 + 256 * k.prog + 1)) ∧ t.chains = cs)) ∧
        ∀ c tag r rest cs, s.chains = c :: cs → c ∉ cs → c.dst = seq → c.fifo = (tag, r) :: rest →
          (tag ∉ [Tag.bf16, .fp16, .e4m3, .e5m2] → ends 0x08) ∧
          (tag ∈ [Tag.bf16, .fp16, .e4m3, .e5m2] →
            (r.length ≠ p.k → ends 0x0B) ∧
            (r.length = p.k → p.bad = false →
              let acts := r.map (decodeFloat tag)
              let c' : Chain := { c with fifo := rest }
              (chn = false → p.n ≤ f.nmax → row < f.arows →
                let old (n : Nat) : W32 := Store.get 0 s.accs (accKey s seq false row n)
                Gives (exec go s) (fun t => took t ∧ t.chains = c' :: cs ∧ (∀ key, memByte t key = memByte s key) ∧
                  (∀ n < p.n, Store.get 0 t.accs (accKey s seq false row n) = codeOf (if set then (orderedSum p n acts).1
                    else (addVal false (bits32 (old n)) (orderedSum p n acts).1).1)) ∧
                  ∀ w, (∀ n < p.n, w ≠ accKey s seq false row n) → Store.get 0 t.accs w = Store.get 0 s.accs w)) ∧
              (∀ o, chn = true → c.src ≠ seq → cs = [o] → opens o → Gives (exec go s) (fun t => took t ∧ SameMem s t ∧
                t.chains = [c', { o with flight := [⟨k.id, s.now + (f.kfrag + f.fragW + 12) * tickOf s seq, (f.edgeOf q).ofmt,
                  (List.range p.n).map (fun n => (edgeOut (f.edgeOf q) false (codeOf (orderedSum p n acts).1) n).1)⟩] }]))))))

/-- R89, R94, R97, R99, R100, R279: an ADRAIN that starts beyond the rows of the bank ends with SHAPE, of another format than its
queue's edge unit gives with TAG, of no rows with success; at its boundary every element of its rows of the visible half has
gone through the edge unit to its place in the destination, no other byte has changed, and it completes, with the edge
unit's flags in AFLAGS. -/
def Claims.AccumulatorsDrain : Prop :=
  ∀ (s : State) (seq q : Nat) (k : Cmd) (gd : Guard) (ko ka kb kc : KNum) (ga gb : GReg) (bg : Bool) (d : Sd),
    ArrayTurn s seq q k → k.op = .adrain gd ko ka kb kc ga gb bg → (s.frag seq).busy ≤ s.now →
    let f := s.frag seq
    let next : Instr := .commandBoundary seq
    (f.cur = none → k.st = .queued → k.blk = [] → k.gb.toNat < 2 ^ 32 → k.prog = 0 → readDst s k k.ga = .ok d →
      let base := k.gb.toNat % 65536
      let rows := k.gb.toNat / 65536
      let ends (r : Done) : Prop := Gives (exec next s) (fun t => Completed s t k.id r ∧ SameMem s t)
      (rows = 0 → ends Done.ok) ∧
      (rows ≠ 0 → f.arows < base + rows → ends (k.faulted 0x0B 0)) ∧
      (rows ≠ 0 → base + rows ≤ f.arows → d.count' ≠ rows * f.nmax → ends (k.faulted 0x14 0)) ∧
      (rows ≠ 0 → base + rows ≤ f.arows → d.count' = rows * f.nmax → d.fmt ≠ (f.edgeOf q).ofmt → ends (k.faulted 0x08 0)) ∧
      (rows ≠ 0 → base + rows ≤ f.arows → d.count' = rows * f.nmax → d.fmt = (f.edgeOf q).ofmt →
        let p := passAll s k.who (fun j => [(.engWrite, (d.elem j).1, d.size)]) d.count' 0 Pass.start
        p.held = false → p.mtype = none → p.bad = none → Gives (exec next s) (fun t => SameMem s t ∧
          (t.frag seq).cur = some k.id ∧ ∃ k', t.cmd? seq q k.id = some k' ∧ k'.st = .started ∧ k'.dsts = [d] ∧ k'.prog = 0 ∧
            k'.cast = (if (if q = 0 then f.int0 else f.int1) then 1 else 0, base, rows)))) ∧
    (f.cur = some k.id → k.st = .started → k.prog = 0 → k.ready ≤ s.now → k.dsts = [d] → s.ecc = [] → d.four = false →
      d.dense = true → d.bytes ≤ 2 ^ 30 - 64 → 0 < elemBits d.fmt → k.cast.2.2 * f.nmax = d.count' → 0 < d.count' →
      ownWrites s k → ∀ key, StreamAt s k .engWrite d key →
      (∀ i < d.count', ∀ j < d.count', i ≠ j → elemsApart d d i j (key i) (key j)) →
      Gives (exec next s) (fun t => Completed s t k.id Done.ok ∧
        (∀ j < d.count', streamVal t d key j = (edgeOut (f.edgeOf q) (decide (k.cast.1 = 1))
          (Store.get 0 s.accs (accKey s seq true (k.cast.2.1 + j / f.nmax) (j % f.nmax))) (j % f.nmax)).1 % 2 ^ (8 * d.size)) ∧
        (∀ x, (∀ j < d.count', x < key j ∨ key j + d.size ≤ x) → memByte t x = memByte s x) ∧
        (∀ w, Store.get 0 t.accs w = Store.get 0 s.accs w) ∧
        ∀ c, s.ctx? k.cid = some c → ∃ fl : BitVec 8,
          (t.ctx? k.cid).map (·.aflags) = some (c.aflags ||| k.flags.zeroExtend 64 ||| fl.zeroExtend 64) ∧
          ∀ b < 8, fl.getLsbD b = (List.range d.count').any (fun j => (edgeOut (f.edgeOf q) (decide (k.cast.1 = 1))
            (Store.get 0 s.accs (accKey s seq true (k.cast.2.1 + j / f.nmax) (j % f.nmax))) (j % f.nmax)).2.getLsbD b)))

/-- Work of array commands. Which fault is reported where several limits are broken (WLOAD TAG and MODE before SHAPE, MMA TAG
before SHAPE, ADRAIN SHAPE before DESC before TAG) is the model's choice (assumption 38). -/
def Obligations.CommandBoundaries : Prop :=
  Claims.BriefCommands ∧ Claims.WeightsLoad ∧ Claims.ArrayProducts ∧ Claims.ChainedProducts ∧ Claims.AccumulatorsDrain

/-- R89, R90, R94, R116: COMMAND_COMPLETION of an array command past its boundary completes its token once that is due, with
the status it ended with, and its flags are in AFLAGS of the context that issued it; the plane of a WLOAD is valid from then on, unless another load of it has started since. -/
def Claims.TokensComplete : Prop :=
  ∀ (s : State) (seq q id upto : Nat) (k : Cmd) (c : Ctx), Orderly s → q < 2 → s.cmd? seq q id = some k → id ≠ 0 →
    k.st = .passed → s.ctx? k.cid = some c → c.phase = .running → (∀ x ∈ s.chains, x.flight = []) →
    (k.ready ≤ s.now → Gives (exec (.commandCompletion seq q id upto) s) (fun t =>
      Completed s t id (k.fin.getD Done.ok) ∧ (∀ key, memByte t key = memByte s key) ∧
      (t.ctx? k.cid).map (·.aflags) = some (c.aflags ||| k.flags.zeroExtend 64) ∧
      ∀ gd ko ka kb kc ga gb bg, k.op = .wload gd ko ka kb kc ga gb bg →
        ((t.frag seq).plane k.cast.1).valid =
          (decide (((s.frag seq).plane k.cast.1).by' = id) || ((s.frag seq).plane k.cast.1).valid))) ∧
    (s.now < k.ready → exec (.commandCompletion seq q id upto) s = .next s)

/-- R123, R125, R128, R129, R357: a started XCOPY, XCAST or XRED that goes on to its end completes with success. Every
element of each destination holds the element of the source that R128 gives its receiver (of a copy, its own), or for XRED
what stood there plus that element, FP32 rounded to nearest even, integers modulo 2^32; no other byte changes. -/
def Claims.CopiesMove : Prop :=
  ∀ (s : State) (seq upto : Nat) (k : Cmd) (gd : Guard) (ko ka kb kc : KNum) (ga gb : GReg) (res : Option GReg) (x : Sd)
    (n : Nat) (kx : Nat → Nat) (kd : Nat → Nat → Nat), ReadyCmd s seq 2 k → k.st = .started → s.ecc = [] →
    ownWrites s k → k.src = some x → k.prog = 0 → k.ragN = 0 → k.dsts ≠ [] → 0 < n →
    (∀ d ∈ k.dsts, d.fmt = x.fmt ∧ d.count' = n) → n * elemBits x.fmt ≤ 8 * upto → 0 < elemBits x.fmt →
    let cast := k.op = .xcast gd ko ka kb kc ga gb res
    let add := k.op = .xred gd ko ka kb kc ga gb res
    let from' (r j : Nat) : Nat := if cast ∧ k.cast.1 ≤ j then k.cast.1 + r * k.cast.2.2 + (j - k.cast.1) else j
    cast ∨ ((add ∨ k.op = .xcopy gd ko ka kb kc ga gb res) ∧ k.dsts.length = 1) →
    (add → x.fmt = .fp32 ∨ x.fmt = .i32 ∨ x.fmt = .w32) →
    (∀ r d, k.dsts[r]? = some d → StreamAt s k .engWrite d (kd r) ∧ (add → StreamAt s k .xred d (kd r)) ∧
      (¬ add → ∀ j < n, mayDrop x d j = false) ∧ ∀ j < n, from' r j < x.count') →
    StreamAt s k .engRead x kx →
    (∀ r d r' d' i j, k.dsts[r]? = some d → k.dsts[r']? = some d' → i < n → j < n → (r, i) ≠ (r', j) →
      elemsApart d d' i j (kd r i) (kd r' j)) →
    (∀ r d i j, k.dsts[r]? = some d → i < x.count' → j < n → elemsApart x d i j (kx i) (kd r j)) →
    Gives (exec (.commandCompletion seq 2 k.id upto) s) (fun t => Completed s t k.id Done.ok ∧
      (∀ r d, k.dsts[r]? = some d → ∀ j < n,
        (¬ add → streamVal t d (kd r) j = streamVal s x kx (from' r j)) ∧
        (add → streamVal t d (kd r) j = if d.fmt = .fp32 then
            (roundResult .fp32 .rne false (addVal false (decodeFloat .fp32 (streamVal s d (kd r) j))
              (decodeFloat .fp32 (streamVal s x kx j))) false).1
          else (streamVal s d (kd r) j + streamVal s x kx j) % 2 ^ 32)) ∧
      (∀ b, (∀ r d j, k.dsts[r]? = some d → j < n → b < kd r j ∨ kd r j + d.size ≤ b) → memByte t b = memByte s b) ∧
      ∀ w, Store.get 0 t.accs w = Store.get 0 s.accs w)

/-- R138, R139, R140, R305: a STRM at the head of its port moves its next element: an input stream puts its value into the
port's queue, widened to FP32 where it is narrower, and ends with a tag-1 token behind its last element; an output stream
writes the oldest token's value to its place, and ends with its last element. A started GCFG loads every element's slots,
registers, flag and LUT from its image, empties the rest of it, and leaves the grid CONFIGURED. -/
def Claims.GridCommandsRun : Prop :=
  ∀ (s : State) (seq upto : Nat) (k : Cmd) (gd : Guard) (ko ka kb kc : KNum) (ga gb : GReg), ReadyCmd s seq 4 k →
    k.st = .started →
    let g := s.grid seq
    let go : Instr := .commandCompletion seq 4 k.id upto
    (∀ d, k.op = .strm gd ko ka kb kc ga gb → k.src = some d → (g.port k.cast.1).streams.head? = some k.id →
      let p := g.port k.cast.1
      let after (t : State) : GPort := (t.grid seq).port k.cast.1
      (k.cast.2.2 = 0 → p.q.length < 16 →
        (∀ v, k.prog + 1 < d.count' → upto = k.prog + 1 → readElem s k d k.prog = .ok v →
          Gives (exec go s) (fun t => SameMem s t ∧ t.cur = s.cur ∧ (after t).streams = p.streams ∧
            (after t).q = p.q ++ [⟨widen d.fmt v, false⟩] ∧
            ∃ k', t.cmd? seq 4 k.id = some k' ∧ k'.st = .started ∧ k'.prog = k.prog + 1)) ∧
        (d.count' ≤ k.prog → Gives (exec go s) (fun t => SameMem s t ∧ (after t).streams = p.streams.filter (· != k.id) ∧
          (after t).q = p.q ++ (if k.cast.2.1 = 1 then [] else [⟨0, true⟩]) ∧
          Completed s t k.id (Done.ofStatus (statusWord 0 k.prog))))) ∧
      (∀ x rest key, k.cast.2.2 = 1 → p.q = x :: rest → x.t = false → k.prog + 1 = d.count' → k.prog < upto → s.ecc = [] →
        d.four = false → d.dense = true → ownWrites s k → StreamAt s k .engWrite d key → Gives (exec go s) (fun t =>
          (after t).q = rest ∧ streamVal t d key k.prog = x.v.toNat % 2 ^ (8 * d.size) ∧
          (∀ b, b < key k.prog ∨ key k.prog + d.size ≤ b → memByte t b = memByte s b) ∧
          Completed s t k.id (Done.ofStatus (statusWord 0 d.count'))))) ∧
    (∀ bs, k.op = .gcfg gd ko ka kb kc ga → gcfgImage s k = .ok bs → bs.length = 1152 * k.elems →
      Gives (exec go s) (fun t => Completed s t k.id Done.ok ∧ SameMem s t ∧ (t.grid seq).st = .configured ∧
        (t.grid seq).h = k.h ∧ (t.grid seq).w = k.w ∧ (∀ p, ((t.grid seq).port p).q = []) ∧
        ∀ i < k.elems,
          let e := (t.grid seq).elem i
          let word (o : Nat) : W32 := u32 (fld bs (128 * i + o) 4)
          e = { Elem.reset with slots := e.slots, reg0 := ⟨word 0x40, false⟩, reg1 := ⟨word 0x44, false⟩,
                                flag := decide (fld bs (128 * i + 0x48) 4 = 1), lut := e.lut } ∧
          (∀ n < 16, e.slot n = word (4 * n)) ∧
          ∀ n < 256, Store.get 0 e.lut n = u32 (fld bs (128 * k.elems + 1024 * i + 4 * n) 4)))

/-- R82, R123, R196, R201, R202: a started XSEND sends its next 64-byte unit to its target, or to a switch for every member of
its group, with the stream bytes of its source, and notes it as sent. -/
def Claims.SendsUnits : Prop :=
  ∀ (s : State) (seq : Nat) (k : Cmd) (gd : Guard) (ko ka kb kc : KNum) (ga gb : GReg) (add : Bool) (res : Option GReg)
    (f : FabCmd) (d : Sd) (tg : Target) (p : Peer) (data : List Byte), ReadyCmd s seq 3 k → k.st = .started →
    k.op = .xsend gd ko ka kb kc ga gb add res → s.fab.cmds = [f] → f.id = k.id → f.order = none → f.add = add →
    f.nak = none → p ∈ f.peers → p.lost = false → k.prog ∉ p.acked → k.prog ∉ p.naked → k.src = some d → k.tgt = some tg →
    k.prog < d.bytes → (add = true → seqRoom s f.die (f.peers.map (·.pkg)) = true) →
    unitBytes s k d k.prog = .ok data →
    Gives (exec (.commandCompletion seq 3 k.id (k.prog + 64)) s) (fun t => SameMem s t ∧ t.cur = s.cur ∧
      (∃ ord, Leaves t (fun m => m.dst = groupDst tg ∧ m.msg = if add then .add tg k.prog (decide (d.fmt = .fp32)) data ord
        else .write tg k.prog data ord)) ∧
      (∃ f', t.fab.cmds = [f'] ∧ f'.id = k.id ∧ f'.sent = f.sent ++ [k.prog] ∧ f'.peers = f.peers) ∧
      ∃ k', t.cmd? seq 3 k.id = some k' ∧ k'.st = .started ∧ k'.prog = min d.bytes (k.prog + 64))

/-- What started commands do, and their tokens. What PROG holds of a STRM of 2^24 elements and more, their number modulo 2^24,
is the model's choice (assumption 43). -/
def Obligations.CommandCompletions : Prop :=
  Claims.TokensComplete ∧ Claims.CopiesMove ∧ Claims.GridCommandsRun ∧ Claims.SendsUnits

/-- R132 to R135: a cycle of a running grid in which one element has one move word and nothing is in flight. The move fires where
its source holds a token, its condition holds by the flag and the tag at the start of the cycle, and its destination takes one:
alu.t with alu.r empty, cmp.t with both results empty, lut.a with lut.r empty, a port's queue with room. The token leaves its
source, unless KEEP stands or the source is imm, a register or the counter; a latch, a register, the table, the counter or the
flag has it after the cycle, an operation is under way with the A or X latched before, a link's token is in the facing input of
the neighbour on that side, a port's in its queue. Else nothing moves. -/
def Claims.GridMoves : Prop :=
  ∀ (s : State) (seq i n : Nat) (e : Elem) (w : W32),
    let g := s.grid seq
    Orderly s → g.st = .running → s.stopping (Store.get 0 s.occ seq) = false → Store.wf GPort.reset g.ports = true →
    g.elems = [(i, e)] → i < 64 * g.h * g.w → n < 16 → e.slots = [(n, w)] → e.aluF = none → e.cmpF = none → e.lutF = none →
    e.outN = [] → e.outE = [] → e.outS = [] → e.outW = [] →
    let src := w.toNat / 2 ^ 27
    let dst := w.toNat / 2 ^ 22 % 32
    let op := w.toNat / 2 ^ 18 % 16
    let cond := w.toNat / 2 ^ 16 % 4
    let keep := w.getLsbD 15
    let col := 8 * g.w
    let row := i / col
    let port := 32 * (row / 8 * g.w + i % col / 8) + row % 8
    let beside (d j : Nat) : Prop := (d = 0 ∧ j + col = i) ∨ (d = 1 ∧ j = i + 1 ∧ j % col ≠ 0) ∨
      (d = 2 ∧ j = i + col ∧ j < 64 * g.h * g.w) ∨ (d = 3 ∧ j + 1 = i ∧ i % col ≠ 0)
    let facing (d : Nat) (x : Elem) : List GTok := match d with
      | 0 => x.inS
      | 1 => x.inW
      | 2 => x.inN
      | _ => x.inE
    let token : Option GTok := match src with
      | 0 => e.inN.head?
      | 1 => e.inE.head?
      | 2 => e.inS.head?
      | 3 => e.inW.head?
      | 4 => e.aluR
      | 5 => e.cmpLo
      | 6 => e.cmpHi
      | 7 => e.lutR
      | 8 => some ⟨e.cnt, false⟩
      | 9 => some ⟨(w.setWidth 15).signExtend 32, false⟩
      | 10 => some e.reg0
      | 11 => some e.reg1
      | _ => (g.port port).q.head?
    src ≤ 12 → dst ≤ 16 → (src = 12 → i % col % 8 = 0 ∧ row % 8 < 4) → (dst < 4 → ∃ j, beside dst j) →
    (dst = 14 → i % col % 8 = 7 ∧ row % 8 < 4 ∧ (g.port (port + 16)).ring = none) →
    let met (x : GTok) : Bool := match cond with
      | 0 => true
      | 1 => e.flag
      | 2 => !e.flag
      | _ => x.t
    let room := (dst = 5 → e.aluR = none) ∧ (dst = 7 → e.cmpLo = none ∧ e.cmpHi = none) ∧ (dst = 8 → e.lutR = none) ∧
      (dst = 14 → (g.port (port + 16)).q.length < 16)
    let e1 : Elem := if keep then e else match src with
      | 0 => { e with inN := e.inN.tail }
      | 1 => { e with inE := e.inE.tail }
      | 2 => { e with inS := e.inS.tail }
      | 3 => { e with inW := e.inW.tail }
      | 4 => { e with aluR := none }
      | 5 => { e with cmpLo := none }
      | 6 => { e with cmpHi := none }
      | 7 => { e with lutR := none }
      | _ => e
    let e2 (x : GTok) : Elem := match dst with
      | 4 => { e1 with aluA := x }
      | 5 => { e1 with aluF := some (op, e.aluA, x) }
      | 6 => { e1 with cmpX := x }
      | 7 => { e1 with cmpF := some (e.cmpX, x) }
      | 8 => { e1 with lutF := some (2, ⟨Store.get 0 e.lut (x.v.toNat % 256), x.t⟩) }
      | 9 => { e1 with lut := Store.put 0 e.lut e.lutI x.v }
      | 10 => { e1 with lutI := x.v.toNat % 256 }
      | 11 => { e1 with cnt := e.cnt + x.v }
      | 12 => { e1 with reg0 := x }
      | 13 => { e1 with reg1 := x }
      | 16 => { e1 with flag := decide (x.v ≠ 0) }
      | _ => e1
    (∀ x, token = some x → met x = true → room → Gives (exec (.gridCycle seq) s) (fun t => SameMem s t ∧
      (t.grid seq).st = .running ∧ (t.grid seq).elem i = e2 x ∧
      (∀ j, j ≠ i → if beside dst j then facing dst ((t.grid seq).elem j) = [x] else (t.grid seq).elem j = Elem.reset) ∧
      (src = 12 → ((t.grid seq).port port).q = if keep then (g.port port).q else (g.port port).q.tail) ∧
      (dst = 14 → ((t.grid seq).port (port + 16)).q = (g.port (port + 16)).q ++ [x]) ∧
      ∀ p, (src = 12 → p ≠ port) → (dst = 14 → p ≠ port + 16) → (t.grid seq).port p = g.port p)) ∧
    ((∀ x, token = some x → met x = true → ¬ room) → Gives (exec (.gridCycle seq) s) (fun t => SameMem s t ∧
      (t.grid seq).elem i = e ∧ ∀ p, (t.grid seq).port p = g.port p))

/-- R132, R133, R134: what the next cycle of a running grid shows of an element without move words: the result of an operation
that was under way, by R133's table, at alu.r with T's tag, eq, lt and ltu in the flag too; the unsigned minimum and maximum of
X and T with their own tags, on a tie X at cmp.lo; a table's entry at lut.r two cycles after its move; and the oldest token of
an output in the neighbour's facing input, where that has room. -/
def Claims.GridResults : Prop :=
  ∀ (s : State) (seq i : Nat) (e : Elem),
    let g := s.grid seq
    let go : Instr := .gridCycle seq
    g.st = .running → s.stopping (Store.get 0 s.occ seq) = false → g.ports = [] → i < 64 * g.h * g.w → e.slots = [] →
    (g.elems = [(i, e)] → e.outN = [] → e.outE = [] → e.outS = [] → e.outW = [] →
      let shows (x : Elem) : Prop := Gives (exec go s) (fun t => (t.grid seq).elem i = x ∧ (t.grid seq).st = .running ∧ SameMem s t)
      (∀ op a x, op < 16 → e.aluF = some (op, a, x) → e.cmpF = none → e.lutF = none →
        let fp (v : Val × BitVec 8) : W32 := u32 (roundResult .fp32 .rne false v false).1
        let bit (b : Bool) : W32 := if b then 1 else 0
        let r : W32 := match op with
          | 0 => a.v + x.v
          | 1 => a.v - x.v
          | 2 => a.v &&& x.v
          | 3 => a.v ||| x.v
          | 4 => a.v ^^^ x.v
          | 5 => BitVec.ofNat 32 (a.v.toNat * 2 ^ (x.v.toNat % 32))
          | 6 => BitVec.ofNat 32 (a.v.toNat / 2 ^ (x.v.toNat % 32))
          | 7 => BitVec.ofInt 32 (min a.v.toInt x.v.toInt)
          | 8 => BitVec.ofInt 32 (max a.v.toInt x.v.toInt)
          | 9 => bit (decide (a.v = x.v))
          | 10 => bit (decide (a.v.toInt < x.v.toInt))
          | 11 => bit (decide (a.v.toNat < x.v.toNat))
          | 12 => fp (addVal false (bits32 a.v) (bits32 x.v))
          | 13 => fp (mulVal (bits32 a.v) (bits32 x.v))
          | 14 => fp (pickNum true (bits32 a.v) (bits32 x.v))
          | _ => x.v
        shows { e with aluF := none, aluR := some ⟨r, x.t⟩, flag := if 9 ≤ op ∧ op ≤ 11 then decide (r = 1) else e.flag }) ∧
      (∀ x y, e.cmpF = some (x, y) → e.aluF = none → e.lutF = none →
        (x.v.toNat ≤ y.v.toNat → shows { e with cmpF := none, cmpLo := some x, cmpHi := some y }) ∧
        (y.v.toNat < x.v.toNat → shows { e with cmpF := none, cmpLo := some y, cmpHi := some x })) ∧
      (∀ x, e.aluF = none → e.cmpF = none →
        (e.lutF = some (2, x) → shows { e with lutF := some (1, x) }) ∧
        (e.lutF = some (1, x) → shows { e with lutF := none, lutR := some x }))) ∧
    ∀ j b x rest, e.aluF = none → e.cmpF = none → e.lutF = none → b.slots = [] → b.aluF = none → b.cmpF = none →
      b.lutF = none → b.outN = [] → b.outE = [] → b.outS = [] → b.outW = [] → j = i + 1 → j % (8 * g.w) ≠ 0 →
      g.elems = [(i, e), (j, b)] → e.outN = [] → e.outS = [] → e.outW = [] → e.outE = x :: rest → rest.length < 4 →
      Gives (exec go s) (fun t => SameMem s t ∧
        (b.inW.length < 4 → (t.grid seq).elem i = { e with outE := rest } ∧ (t.grid seq).elem j = { b with inW := b.inW ++ [x] }) ∧
        (4 ≤ b.inW.length → (t.grid seq).elem i = e ∧ (t.grid seq).elem j = b))

/-- R134: of an element's 16 slots at most four fire in a cycle, each from another source of tokens, and each to another
destination (to drop too, the model's choice, log entry 81); a slot that finds its destination as an earlier one has freed it
fires, one whose own source would free it does not. -/
def Claims.GridLimits : Prop :=
  (∀ (ws : List W32) (flag : Bool) (e : Elem) (inp : List GTok) (outp : GPort),
    let c := ws.foldl (Scan.slot flag) ⟨e, inp, outp, [], [], 0, []⟩
    c.fired ≤ 4 ∧ c.used.length = c.fired ∧ c.used.Nodup ∧ c.took.Nodup ∧ c.took.length ≤ c.fired ∧
    ∀ x ∈ c.took, x < 8 ∨ x = 12) ∧
  ∀ (flag : Bool) (e : Elem) (x : GTok) (op : Fin 16), e.aluR = some x → e.aluF = none →
    let c : Scan := ⟨e, [], GPort.reset, [], [], 0, []⟩
    let frees : W32 := 0x23C00000
    let feeds : W32 := BitVec.ofNat 32 (10 * 2 ^ 27 + 5 * 2 ^ 22 + op.val * 2 ^ 18)
    let self : W32 := BitVec.ofNat 32 (4 * 2 ^ 27 + 5 * 2 ^ 22 + op.val * 2 ^ 18)
    ([frees, feeds].foldl (Scan.slot flag) c).e = { e with aluR := none, aluF := some (op.val, e.aluA, e.reg0) } ∧
    ([feeds, frees].foldl (Scan.slot flag) c).e = { e with aluR := none } ∧
    ([self].foldl (Scan.slot flag) c).e = e

/-- R110, R131, R138, R141, R171, R308: a KWATCH whose location, as its start translated it, has reached the threshold
completes at its re-read and else stays; a ragged MMA that has taken its rows reads its counter again and may take at most 16 more; the spill engine
moves the oldest token of a port's ring to the port's queue, the oldest row of a chain's ring to its FIFO; a running
grid in which nothing is left becomes CONFIGURED and completes its GSTART. -/
def Claims.EngineActs : Prop :=
  ∀ (s : State) (seq id : Nat) (k : Cmd), Orderly s → id ≠ 0 →
    (∀ ls, s.cmd? seq 5 id = some k → k.st = .started → k.page = none →
      useLoc s k .watch k.ga 8 = .ok ls → Gives (exec (.kwatchRead seq id) s) (fun t => SameMem s t ∧
        (k.gb.toNat ≤ readLocs s ls → Completed s t id Done.ok) ∧
        (readLocs s ls < k.gb.toNat → t.cmd? seq 5 id = some { k with ready := s.now } ∧ t.cur = s.cur))) ∧
    (∀ gd ko ka kb kc ga gb bg chn set d cb, s.cmd? seq 0 id = some k →
      k.op = .mma gd ko ka kb kc ga gb bg chn true false set → k.st = .started → (s.frag seq).cur = some id → s.stops k = false →
      (∀ x ∈ s.chains, x.flight = []) → edgeStuck s seq = false → (s.frag seq).busy ≤ s.now → k.cast.2.1 = k.prog → (k.ragC = false ∨ k.prog < k.ragN) → k.src = some d →
      useBlock s k .watch d.count 8 = .ok cb →
      Gives (exec (.raggedCounterRead seq) s) (fun t => SameMem s t ∧ ∃ k', t.cmd? seq 0 id = some k' ∧
        k'.ragN = fld cb 0 8 % 2 ^ 63 ∧ k'.ragC = decide (2 ^ 63 ≤ fld cb 0 8) ∧ k'.prog = k.prog ∧
        k'.cast.2.1 = max k.prog (min (fld cb 0 8 % 2 ^ 63) (k.prog + 16)))) ∧
    (∀ p r x rest, s.stopping (Store.get 0 s.occ seq) = false → ((s.grid seq).port p).ring = some r → r.toks = x :: rest →
      ((s.grid seq).port p).q.length < 16 → Gives (exec (.spillEngineMove seq (some p)) s) (fun t =>
        ((t.grid seq).port p).q = ((s.grid seq).port p).q ++ [x] ∧
        ((t.grid seq).port p).ring = some { r with toks := rest } ∧ t.cur = s.cur ∧ SameMem s t)) ∧
    (∀ c x rest, s.chains = [c] → c.src = seq → c.flight = [] → c.rrows = x :: rest → c.fifo.length < 256 →
      Gives (exec (.spillEngineMove seq none) s) (fun t =>
        t = { s with chains := [{ c with fifo := c.fifo ++ [x], rrows := rest }] })) ∧
    ((s.grid seq).st = .running → (s.grid seq).elems = [] → (s.grid seq).ports = [] → (s.grid seq).start = some id →
      s.cmd? seq 4 id = some k → s.stopping (Store.get 0 s.occ seq) = false →
      Gives (exec (.gridCycle seq) s) (fun t =>
        (t.grid seq).st = .configured ∧ Completed s t id Done.ok ∧ SameMem s t))

/-- What the fragment's engines do by themselves, and the grid's cycle. -/
def Obligations.EngineSteps : Prop :=
  Claims.EngineActs ∧ Claims.GridMoves ∧ Claims.GridResults ∧ Claims.GridLimits

/- Work entities -/

/-- R25, R33, R40, R41, R309: LAUNCH_ACCEPT of a LAUNCH whose inputs are complete and whose block passes the checks
makes a ready launch beneath the launching one, which lends it a part; a block that does not pass completes the
token with the status that the checks name, and the launch keeps its handle. -/
def Claims.LaunchAcceptance : Prop :=
  ∀ (s : State) (p : PendLaunch) (x : Ent) (l : Lpb), s.pend.find? (fun q => q.id == p.id && q.cid == p.cid) = some p →
    p.child = none → inputsDone p.ins = true → isCancelled s p.lid = false → s.ent? p.lid = some x → p.lid ≠ s.nextId →
    let handle := u64 (2 ^ 60 + (Store.get 0 s.serials (8 * p.ctxid.toNat + 1) + 1) % 2 ^ 32)
    (x.closed = false → readLpb s (Who.ctl p.ctxid (p.seq / 16)) p.lpb = .ok (.ok l) → checkFit s l = none → x.e < 56 → 0 < l.nunits →
      Gives (exec (.launchAccept p.cid p.id) s) (fun t =>
        t.ent? p.lid = some { x with e := x.e + 1 } ∧
        (∃ y, t.ent? s.nextId = some y ∧ y.level = .launch ∧ y.parent = some p.lid ∧ y.carried = x.e + 1 ∧ y.h = 0 ∧
          y.e = 0 ∧ y.complete = false ∧ y.job = p.ctxid ∧
          y.handle = handle) ∧
        (∃ m, t.launch? s.nextId = some m ∧ m.lpb = l ∧ m.next = 0 ∧ m.done = 0 ∧ m.failed = none ∧ m.token = some p.id) ∧
        (∀ q ∈ t.pend, q.id = p.id → q.child = some s.nextId) ∧ SameMem s t)) ∧
    (∀ st, s.joins = [] → s.pend = [p] → Store.wf Token.reset s.cur.k = true → p.id ≠ 0 →
      readLpb s (Who.ctl p.ctxid (p.seq / 16)) p.lpb = .ok (.error st) →
      Gives (exec (.launchAccept p.cid p.id) s) (fun t => t.pend = [] ∧ t.ents = s.ents ∧
        t.rejects = s.rejects ++ [(p.ctxid, handle)] ∧ ∀ r, (s.cur.rk r).pend = p.id → t.cur.rk r = ⟨0, ⟨st, p.pc, p.word⟩⟩))

/-- R40, R42, R43, R234: a part that comes home, to an entity for which no cancel is still to be applied, leaves the sum of the counter and the reserve's worth larger by its worth,
whatever the reserve was lowered to, and the reserve is not lower than the counter allows; an entity whose reserve is
home completes when its counter reaches 2^56. -/
def Obligations.WeightsConserved : Prop :=
  ∀ (s : State) (idx : Nat) (r : Ret) (x : Ent), s.returns[idx]? = some r → cancelPending s r.ent = false → r.failed = none →
    s.ent? r.ent = some x → x.parent ≠ some r.ent → x.complete = false → x.e ≤ 56 →
    Gives (exec (.weightReturn (.here idx)) s) (fun t => ∃ y, t.ent? r.ent = some y ∧
      y.h + 2 ^ (56 - y.e) = x.h + 2 ^ (56 - r.exp) + 2 ^ (56 - x.e) ∧ y.e ≤ x.e ∧ (0 < y.e → y.h < 2 ^ (56 - y.e)) ∧
      (y.complete = true ↔ x.closed = true ∧ y.h = 2 ^ 56))

/-- R41, R46, R234: GRAPH_NODE_SPAWN of a waiting node whose predecessors are done makes its launch and notes it in the
graph; a node with a predecessor that is not done is left as it is, and so is every node while a cancel of the graph that its home
received earlier is still to be applied (R234). -/
def Claims.GraphNodes : Prop :=
  ∀ (s : State) (g i : Nat) (x : Ent) (ns : List Node) (n : Node), s.ent? g = some x → Tab.get? s.graphs g = some ns →
    ns[i]? = some n → n.st = .waiting → isCancelled s g = false → g ≠ s.nextId →
    (cancelPending s g = true → exec (.graphNodeSpawn g i) s = .next s) ∧
    (cancelPending s g = false → (∀ p ∈ n.preds, ∃ m, ns[p]? = some m ∧ m.st = .done) → x.e < 56 → 0 < n.lpb.nunits → checkFit s n.lpb = none →
      Gives (exec (.graphNodeSpawn g i) s) (fun t =>
        (∃ ns' m, Tab.get? t.graphs g = some ns' ∧ ns'[i]? = some m ∧ m.st = .live s.nextId) ∧
        (∃ l, t.launch? s.nextId = some l ∧ l.lpb = n.lpb ∧ l.next = 0) ∧
        ∃ y, t.ent? s.nextId = some y ∧ y.parent = some g ∧ y.carried = x.e + 1 ∧ y.level = .launch)) ∧
    ((∃ p ∈ n.preds, ∃ m, ns[p]? = some m ∧ m.st ≠ .done) → exec (.graphNodeSpawn g i) s = .next s)

/-- R49: FRAGMENT_FREE of an exited unit whose masked queues have drained frees its panes; UNIT_COMPLETION of one with
nothing left of its own in its queues counts it in its launch, and forgets it unless it still holds its fragment. While
a command of the mask stands in a queue, an earlier unit's too, the fragment stays. -/
def Obligations.UnitsEnd : Prop :=
  ∀ (s : State) (seq uid : Nat) (u : UnitRec) (l : Launch), s.unit? uid = some u → s.launch? u.lid = some l →
    l.lpb.shared = false → l.lpb.replica = false → u.phase = .exited → uid ≠ 0 →
    (Store.get 0 s.occ seq = uid → u.freed = false →
      let drained' := ∀ q < 6, u.mask.getLsbD q = true → s.queue (if q < 2 then u.arr else u.seq) q = []
      (drained' → Gives (exec (.fragmentFree seq) s) (fun t =>
        (∀ p, Store.get 0 s.occ p = uid → Store.get 0 t.occ p = 0) ∧
        (∃ v, t.unit? uid = some v ∧ v.freed = true ∧ v.phase = .exited) ∧ SameMem s t)) ∧
      (¬ drained' → exec (.fragmentFree seq) s = .next s)) ∧
    ((unitsOf s u.lid).filter (fun v => v.2.unit == u.unit) = [(uid, u)] → s.pend = [] → cancelPending s u.lid = false →
      (∀ q < 6, ∀ k ∈ s.queue (if q < 2 then u.arr else u.seq) q, k.uid ≠ uid) →
      (∀ v ∈ s.units, ∀ m, v.2.image = some m → ∀ k ∈ m.cmds, k.uid ≠ uid) →
      Gives (exec (.unitCompletion u.lid u.unit) s) (fun t =>
        (u.freed = true ∨ occupied s uid = [] → t.unit? uid = none) ∧
        (u.freed = false → occupied s uid ≠ [] → ∃ v, t.unit? uid = some v ∧ v.phase = .counted) ∧
        (∀ p, Store.get 0 t.occ p = Store.get 0 s.occ p) ∧ ∃ m, t.launch? u.lid = some m ∧ m.done = l.done + 1))

/- Placement -/

/-- R28, R29, R34, R64, R65: SELECTION of the only launch that can be selected, with a free placement for its next
unit, places it there: a running unit and its context at the launch's entry, in user mode, with the unit number in g1
and the block's address in g2; the queue of the launch is the last one served. -/
def Claims.SelectionPlaces : Prop :=
  ∀ (s : State) (lid seq : Nat) (l : Launch) (e : Ent), inOrder s (selectable s) = [(lid, l, ⟨[[⟨none, l.next, false, []⟩]]⟩)] →
    s.launch? lid = some l → s.ent? lid = some e → s.resv = none → l.lpb.resume = false → l.lpb.shared = false →
    l.lpb.gang = false → l.slice = none → freePlacement s lid l ⟨[[⟨none, l.next, false, []⟩]]⟩ = some [seq] →
    Gives (exec .selection s) (fun t =>
      (∃ u, t.unit? s.nextId = some u ∧ u.lid = lid ∧ u.unit = l.next ∧ u.seq = seq ∧ u.phase = .running ∧
        u.cids = [s.nextId + 1]) ∧
      (∃ c, (c = t.cur ∨ c ∈ t.others) ∧ c.cid = s.nextId + 1 ∧ c.uid = s.nextId ∧ c.phase = .running ∧ c.sm = false ∧
        c.pc = l.lpb.prog ∧ c.seq = seq ∧ c.rg 1#6 = u64 l.next ∧ c.rg 2#6 = l.lpb.addr ∧ c.lhandle = e.handle ∧
        c.ctxid = e.job) ∧
      (∀ p ∈ panesOf seq l.lpb.hw.1 l.lpb.hw.2, Store.get 0 t.occ p = s.nextId) ∧ t.lastq = e.queue ∧
      ∃ m, t.launch? lid = some m ∧ m.next = l.next + 1 ∧ m.placed = l.placed + 1 ∧ m.wsteps = 0)

/-- R63, R64, R66, R75: an origin is free for a unit if it is legal for the shape on a die of DIEMASK that is not ruled out,
every pane of it is free, and the die's allowance has room; the free placement of one unit is the free origin on the lowest
die, on it the lowest, and there is none only where no origin is free; the origins that a set of several gets together are
each free, share no pane and fit each die's allowance together. R65: the launches that a selection considers come by
effective priority, then by queue in cyclic order after LASTQ, then by acceptance. -/
def Claims.PlacementOrder : Prop :=
  ∀ (s : State) (lid : Nat) (l : Launch),
    let panes (q : Nat) : List Nat := panesOf q l.lpb.hw.1 l.lpb.hw.2
    let free (i : PItem) (q : Nat) : Prop := q / 16 ∈ l.lpb.dies ∧ q / 16 ∉ i.not ∧
      originOk (q % 16) l.lpb.hw.1 l.lpb.hw.2 = true ∧ (∀ p ∈ panes q, paneFree s lid p = true) ∧
      heatUse s lid (q / 16) + l.lpb.heat ≤ (s.die (q / 16)).heat
    let turn (x : Nat × Launch × PlaceSet) : Nat := (((s.ent? x.1).map (·.queue)).getD 0 + 31 - s.lastq) % 32
    (∀ i : PItem, overNfrag s lid l ⟨[[i]]⟩ = false →
      (∀ q : Nat, freePlacement s lid l ⟨[[i]]⟩ = some [q] ↔ free i q ∧ ∀ q', free i q' → q ≤ q') ∧
      (freePlacement s lid l ⟨[[i]]⟩ = none ↔ ∀ q, ¬ free i q)) ∧
    (∀ (p : PlaceSet) (qs : List Nat), freePlacement s lid l p = some qs → qs.length = p.items.length ∧
      (∀ (k : Nat) (i : PItem) (q : Nat), p.items[k]? = some i → qs[k]? = some q → free i q) ∧
      qs.Pairwise (fun a b => ∀ x ∈ panes a, x ∉ panes b) ∧
      ∀ q ∈ qs, heatUse s lid (q / 16) + l.lpb.heat * onDie qs (q / 16) ≤ (s.die (q / 16)).heat) ∧
    ∀ c, (inOrder s c).Perm c ∧ (inOrder s c).Pairwise (fun a b => b.2.1.eff < a.2.1.eff ∨
      a.2.1.eff = b.2.1.eff ∧ (turn a < turn b ∨ turn a = turn b ∧ a.2.1.order ≤ b.2.1.order))

/-- R61, R62: PRIORITY_AGEING_STEP of a ready launch whose next 2 ms of waiting are over counts one step more, and its
effective priority is at least its own plus its steps, two at most, and at most 7; before that nothing changes. -/
def Claims.PriorityAgeing : Prop :=
  ∀ (s : State) (lid : Nat) (l : Launch), s.launch? lid = some l → isReady s lid l = true →
    (l.wbase + (l.wsteps + 1) * 144000000 ≤ s.now → Gives (exec (.priorityAgeingStep lid) s) (fun t =>
      ∃ m, t.launch? lid = some m ∧ m.wsteps = l.wsteps + 1 ∧ m.next = l.next ∧ m.done = l.done ∧
        min 7 (l.lpb.prio + min 2 (l.wsteps + 1)) ≤ m.eff ∧ m.eff ≤ 7)) ∧
    (s.now < l.wbase + (l.wsteps + 1) * 144000000 → exec (.priorityAgeingStep lid) s = .next s)

/-- R54, R70, R174, R222, R224: a unit that has waited for more than 50 µs while other work of equal or higher priority is
queued for its die, or a unit of its own launch, or whose yield window is over, stops at its instruction boundary, if its
image has room; in the first case it is deferred until that work has been placed. Neither changes anything earlier, or
without such work, or without room. -/
def Claims.UnitStops : Prop :=
  ∀ (s : State) (u : UnitRec) (l : Launch), s.unit? s.cur.uid = some u → s.launch? u.lid = some l → s.chains = [] →
    l.lpb.gang = false → l.lpb.shared = false → u.cids = [s.cur.cid] → s.cur.phase = .running → s.cur.vec = none →
    let stops (t : State) : Prop := t.cur.phase = .stopped ∧ t.cur.pc = s.cur.pc ∧ t.cur.g = s.cur.g ∧
      t.cur.wc = wcKept s s.cur.who s.cur.wc ∧ ∃ v, t.unit? s.cur.uid = some v ∧ v.phase = .quiescing ∧ v.cids = u.cids
    let room := (takeRoom s s.cur.uid (imageBytes s u)).isSome
    let work := queuedFor s u.lid l.eff (u.seq / 16)
    (u.phase = .running → s.cur.wait = .quantum → s.cur.since + 3600000 < s.now →
      (room = true → work ≠ [] ∨ ownQueued s u.lid = true →
        Gives (exec (.waitQuantumExpiry s.cur.cid) s) (fun t => stops t ∧
          ∃ v, t.unit? s.cur.uid = some v ∧ v.deferred = some work)) ∧
      (room = false ∨ work = [] ∧ ownQueued s u.lid = false → exec (.waitQuantumExpiry s.cur.cid) s = .next s)) ∧
    (u.phase = .window → u.deadline ≤ s.now → s.cur.wait ≠ .begun →
      (room = true → Gives (exec (.yieldWindowExpiry s.cur.cid) s) stops) ∧
      (room = false → exec (.yieldWindowExpiry s.cur.cid) s = .next s)) ∧
    (s.cur.wait ≠ .quantum ∨ s.now ≤ s.cur.since + 3600000 → exec (.waitQuantumExpiry s.cur.cid) s = .next s) ∧
    (s.now < u.deadline → exec (.yieldWindowExpiry s.cur.cid) s = .next s)

/-- R54, R69, R74, R109: a gang or a shared launch stops as a whole once all of its units have waited, a unit that chains
join to others stops with them once it has waited itself; while one of those that must wait has not waited long enough, or
no work is queued, nothing changes. At the end of their windows all that stop together stop. -/
def Claims.GroupsStop : Prop :=
  ∀ (s : State) (u : UnitRec) (l : Launch), s.unit? s.cur.uid = some u → s.launch? u.lid = some l → s.cur.phase ≠ .absent →
    let group := victimGroup s s.cur.uid
    let waiters := if l.lpb.gang ∨ l.lpb.shared then group else [s.cur.uid]
    let waited : Prop := ∀ x ∈ waiters, ∀ v, s.unit? x = some v → waitedLong s v = true
    let queued : Prop := ownQueued s u.lid = true ∨
      ∃ x ∈ waiters, ∃ v, s.unit? x = some v ∧ queuedFor s u.lid l.eff (v.seq / 16) ≠ []
    (waited → queued → (∀ x ∈ group, ∃ v, s.unit? x = some v ∧ v.phase = .running) → (stopAll s group).isSome = true →
      Gives (exec (.waitQuantumExpiry s.cur.cid) s) (fun t =>
        ∀ x ∈ group, ∃ v w, t.unit? x = some v ∧ v.phase = .quiescing ∧ v.deferred = some w)) ∧
    (¬ waited ∨ ¬ queued → exec (.waitQuantumExpiry s.cur.cid) s = .next s) ∧
    (u.phase = .window → u.deadline ≤ s.now →
      (∀ x ∈ group, ∃ v, s.unit? x = some v ∧ v.phase = .window ∧ yielding s v = false) → (stopAll s group).isSome = true →
      yielding s u = false → Gives (exec (.yieldWindowExpiry s.cur.cid) s) (fun t =>
        ∀ x ∈ group, ∃ v, t.unit? x = some v ∧ v.phase = .quiescing))

/-- Units stop at an end of waiting or of a window. That a window which ends without room changes nothing is the model's choice
(assumption 20); that a chained unit takes its mates with it once it alone has waited is its reading (assumption 54). -/
def Obligations.UnitsArePreempted : Prop :=
  Claims.UnitStops ∧ Claims.GroupsStop

/-- R174, R223, R224, R229, R230: with no command, held store, unfinished vector store or chain left the stopped unit's image can be written; a yield image is
written once the held stores have become visible, which frees the unit's panes and its contexts, and the unit is saved; read back, it goes on at the PC and with the registers that
the image holds. What an image holds beside R229's sections is the model's choice (log entry 17). -/
def Obligations.ImagesWrittenAndRead : Prop :=
  ∀ (s : State) (uid : Nat) (u : UnitRec) (c : Ctx), s.unit? uid = some u →
    (s.ctx? c.cid = some c → c.uid = uid → u.phase = .quiescing → (∀ e ∈ s.frags, e.2.q = []) → s.chains = [] →
      s.cur.wc = [] → s.cur.vec = none → (∀ d ∈ s.others, d.wc = [] ∧ d.vec = none) → u.image = none →
      Gives (exec (.quiesceComplete c.cid) s) (fun t => ∃ v, t.unit? uid = some v ∧
        (u.killed = false → v.phase = .writing ∧ v.cids = u.cids) ∧ (u.killed = true → v.phase = .exited ∧ v.cids = []))) ∧
    (∀ img s1, s.ctx? c.cid = some c → c.uid = uid → u.phase = .writing → u.image = some img →
      let s0 := s.flush c.cid
      ((∃ d, s0.ctx? c.cid = some d ∧ d.wc ≠ []) → exec (.imageWriteDone c.cid) s = .next s0) ∧
      ((∃ d, s0.ctx? c.cid = some d ∧ d.wc = []) →
        put (mordant s0 u) s0 img.addr (yieldBytes s0 u c (img.yieldN.getD 0) img.bytes) = .ok s1 → uid ≠ 0 →
        Gives (exec (.imageWriteDone c.cid) s) (fun t =>
          (∃ v, t.unit? uid = some v ∧ v.phase = .saved ∧ v.image = some img) ∧
          (∀ p, Store.get 0 s.occ p = uid → Store.get 0 t.occ p = 0) ∧
          (∀ d ∈ t.others, d.cid ∉ u.cids) ∧ (t.cur.phase ≠ .absent → t.cur.cid ∉ u.cids)))) ∧
    (∀ img n bs cid l, s.units.find? (fun v => v.2.phase == .reading && v.2.cids.contains cid) = some (uid, u) →
      u.image = some img → img.yieldN = some n → n < 64 →
      readRun s (mordant s u) .engRead 8 (8 + n) (u64 img.addr) = .ok bs → s.launch? u.lid = some l → l.lpb.shared = false →
      (s.ent? u.lid).isSome = true → Gives (exec (.resumptionReadDone cid) s) (fun t =>
        (∃ v, t.unit? uid = some v ∧ v.phase = .running ∧ v.image = none) ∧
        ∃ d, (d = t.cur ∨ d ∈ t.others) ∧ d.cid = cid ∧ d.phase = .running ∧ d.pc = u64 (fld bs 16 8) ∧ d.sm = false ∧
          ∀ i < n, Store.get 0 d.g (i + 1) = u64 (fld bs (64 + 8 * i) 8)))

/-- R73, R232, R234: TENURE_LIMIT passes the lease to the head of the request list and puts the holder at its tail, exactly
100 µs after the tenure began and where no command of the holder is queued, whose boundary would pass it instead; a
cancel at its home, the first that the home received and has not applied, marks a launch with nothing placed
cancelled, counts its units and returns its reserve; one that finds nothing left to end changes nothing, and a later
one waits. -/
def Obligations.TenureAndCancel : Prop :=
  (∀ (s : State) (seq h r : Nat) (rest : List Nat), (s.frag seq).holder = some h → (s.frag seq).reqs = r :: rest →
    let f := s.frag seq
    let queued : Prop := ∃ k ∈ f.queue 0 ++ f.queue 1, k.cid = h
    (s.now = f.tstart + 7200000 → f.tcount < 64 → ¬ queued →
      Gives (exec (.tenureLimit seq) s) (fun t =>
        t.frag seq = { f with holder := some r, reqs := rest ++ [h], tcount := 0, tstart := s.now } ∧
        t = { s with frags := t.frags })) ∧
    (s.now ≠ f.tstart + 7200000 ∨ 64 ≤ f.tcount ∨ queued → exec (.tenureLimit seq) s = .next s)) ∧
  ∀ (s : State) (idx : Nat) (c : CancelReq) (e : Ent) (l : Launch), s.cancels[idx]? = some c →
    ((∃ x ∈ s.cancels.take idx, x.ent = c.ent) → exec (.cancelAtHome idx) s = .next s) ∧
    ((∀ x ∈ s.cancels.take idx, x.ent ≠ c.ent) → beneath s c.ent = [] → exec (.cancelAtHome idx) s = .next { s with cancels := s.cancels.eraseIdx idx }) ∧
    ((∀ x ∈ s.cancels.take idx, x.ent ≠ c.ent) → beneath s c.ent = [c.ent] → s.ent? c.ent = some e → e.level = .launch → e.closed = false → e.parent ≠ some c.ent →
      s.launch? c.ent = some l → s.pend = [] → unitsOf s c.ent = [] → l.next ≤ l.lpb.nunits → l.done = l.next →
      Gives (exec (.cancelAtHome idx) s) (fun t =>
        (∃ x, t.ent? c.ent = some x ∧ x.cancelled = true ∧ x.closed = true ∧ statusCode x.status = 0x26) ∧
        ∃ m, t.launch? c.ent = some m ∧ m.next = l.lpb.nunits ∧ m.done = l.lpb.nunits))

/- Slices -/

/-- R77, R78, R79, R208: SLICE_REPORT at T − 20 µs holds fragments and reports READY or MISS, and MISS where fabric time
is not valid; the coordinator counts READY;
SLICE_DECISION at T − 10 µs sends GO with every READY, ABANDON without, FAIL where a member was lost; GO lets the part
wait for T, ABANDON drops its hold, FAIL fails it with STALE; SLICE_START places it at T; SLICE_REOFFER sets T 1 ms
later. Nothing happens before its time. The report packet's counts and the order of the checks are the model's choice
(log entry 26); that a part holds its own reservation if that is free, or else a free placement, and reports READY just then,
is its reading (log entry 57). -/
def Obligations.SlicesStartTogether : Prop :=
  ∀ (s : State) (lid : Nat) (l : Launch) (sl : Slice) (hdr : FHdr), s.launch? lid = some l → l.slice = some sl →
    partOf s sl.serial = some (lid, l, sl) →
    let now (t : State) : Option Slice := (t.launch? lid).bind (·.slice)
    let told (t : State) (m : FMsg) : Prop :=
      ∀ p ∈ sl.members, p ≠ s.pkg → Leaves t (fun x => x.dst = p ∧ x.msg = m)
    let failed (t : State) : Prop := ∃ m, t.launch? lid = some m ∧ m.slice = some { sl with decision := 3, decided := true } ∧
      m.failed = some (l.failed.getD (statusWord nStale 0))
    let unheld (t : State) : Prop := ∀ h ∈ t.holds, h.lid ≠ lid
    let after (d : Nat) : Option Slice := some { sl with decision := d, decided := true }
    let c := coordinator sl
    (sl.decided = false →
      (s.fab.valid = true → fabricReached s (sl.t - 20000) = false → exec (.sliceReport lid) s = .next s) ∧
      (s.fab.valid = false → sl.reported = false → c ≠ s.pkg → Gives (exec (.sliceReport lid) s) (fun t =>
        t.holds = s.holds ∧ now t = some { sl with reported := true } ∧
        Leaves t (fun x => x.dst = c ∧ x.msg = .ready sl.serial false))) ∧
      (fabricReached s (sl.t - 20000) = true → sl.reported = false → Gives (exec (.sliceReport lid) s) (fun t =>
        t.holds = s.holds ++ (partHold s lid l).toList ∧
        (c ≠ s.pkg → now t = some { sl with reported := true } ∧ Leaves t (fun x => x.dst = c ∧
          x.msg = .ready sl.serial (partHold s lid l).isSome ∧ x.hdr.cmd = l.lpb.nunits)) ∧
        (c = s.pkg → s.pkg ∈ sl.members → s.pkg ∉ sl.readies → now t = some { sl with
          reported := true, total := sl.total + l.lpb.nunits,
          readies := if (partHold s lid l).isSome then sl.readies ++ [s.pkg] else sl.readies }))) ∧
      (c = s.pkg → Comes s 15 hdr → appliedBefore s hdr = false → hdr.srcPkg ∈ sl.members → hdr.srcPkg ∉ sl.readies →
        ∀ ok, Gives (exec (.ready hdr sl.serial ok) s) (fun t => now t = some { sl with
          total := sl.total + hdr.cmd, readies := if ok then sl.readies ++ [hdr.srcPkg] else sl.readies })) ∧
      (c = s.pkg → fabricReached s (sl.t - 10000) = false → exec (.sliceDecision lid) s = .next s) ∧
      (c = s.pkg → fabricReached s (sl.t - 10000) = true →
        (sl.lost = [] → (∀ m ∈ sl.members, m ∈ sl.readies) → fabricReached s sl.t = false →
          Gives (exec (.sliceDecision lid) s) (fun t => now t = after 1 ∧ told t (.go sl.serial) ∧ t.holds = s.holds)) ∧
        (sl.lost = [] → (∃ m ∈ sl.members, m ∉ sl.readies) →
          Gives (exec (.sliceDecision lid) s) (fun t => now t = after 2 ∧ told t (.abandon sl.serial) ∧ unheld t)) ∧
        (sl.lost ≠ [] → Gives (exec (.sliceDecision lid) s) (fun t => failed t ∧ told t (.fail sl.serial) ∧ unheld t))) ∧
      (Comes s 15 hdr → c = hdr.srcPkg →
        (sl.lost = [] → fabricReached s sl.t = false → Gives (exec (.go hdr sl.serial) s) (fun t =>
          now t = after 1 ∧ t.holds = s.holds)) ∧
        Gives (exec (.abandon hdr sl.serial) s) (fun t => now t = after 2 ∧ unheld t) ∧
        Gives (exec (.fail hdr sl.serial) s) (fun t => failed t ∧ unheld t))) ∧
    (∀ h p, sl.decision = 1 → sl.started = false → l.lpb.gang = true → l.lpb.shared = false → l.lpb.resume = false →
      l.next < l.lpb.nunits → s.holds.find? (fun x => x.lid == lid) = some h → placementSet s lid l = some p →
      resvSpots l h ≠ [] → (∀ q ∈ resvSpots l h, s.dieOpen (q / 16) = true) →
      (fabricReached s sl.t = true → Gives (exec (.sliceStart lid) s) (fun t => unheld t ∧
        ∃ m, t.launch? lid = some m ∧ m.slice = some { sl with started := true } ∧ m.next = l.lpb.nunits ∧
          m.placed = l.placed + 1)) ∧
      (fabricReached s sl.t = false → exec (.sliceStart lid) s = .next s)) ∧
    (sl.decision = 2 → c = s.pkg → (∀ e ∈ s.fab.early, e.1 ≠ sliceSerial (sl.t + 1000000) sl.members) → Gives (exec (.sliceReoffer lid) s) (fun t => t = { s with launches := t.launches } ∧
      now t = some { sl with serial := sliceSerial (sl.t + 1000000) sl.members, t := sl.t + 1000000, reported := false,
                             readies := [], decision := 0, decided := false, total := 0 }))

/-- R287, R288, R289: at the coordinator GANG_BARRIER_ARRIVAL counts a member's arrival in the open generation; the one that
completes the generation raises it, empties its count and tells every other member; an arrival in a generation that is over
counts nowhere; a participant that leaves without an open arrival makes the participants one fewer; at a member
GANG_BARRIER_COMPLETION of the coordinator raises the generation. The form of the messages is the model's choice (log
entry 25). -/
def Claims.GangBarriers : Prop :=
  ∀ (s : State) (lid : Nat) (l : Launch) (sl : Slice) (hdr : FHdr) (bar : Nat), s.launch? lid = some l →
    homeOf s sl.serial = some (lid, l) → l.slice = some sl → bar < 16 → Comes s 15 hdr → appliedBefore s hdr = false →
    let b := Store.get Barrier.reset l.gbars bar
    let now (t : State) : Option Barrier := (t.launch? lid).map (fun m => Store.get Barrier.reset m.gbars bar)
    (coordinator sl = s.pkg → hdr.srcPkg ∈ sl.members →
      (hdr.cmd ≠ b.gen % 128 → Gives (exec (.gangBarrierArrival hdr sl.serial bar) s) (fun t =>
        (∀ i, (t.launch? lid).map (fun m => Store.get Barrier.reset m.gbars i) = some (Store.get Barrier.reset l.gbars i)) ∧
        t.fab.ports = s.fab.ports)) ∧
      ((∀ i < 16, (Store.get Barrier.reset l.gbars i).count < gangParts l - 1) → 0 < gangParts l →
        Gives (exec (.gangBarrierArrival hdr sl.serial 33) s) (fun t =>
          (∃ m, t.launch? lid = some m ∧ gangParts m = gangParts l - 1 ∧
            ∀ i < 16, Store.get Barrier.reset m.gbars i = Store.get Barrier.reset l.gbars i) ∧
          t.fab.ports = s.fab.ports)) ∧
      (hdr.cmd = b.gen % 128 → b.count + 1 < gangParts l → Gives (exec (.gangBarrierArrival hdr sl.serial bar) s) (fun t =>
        now t = some ⟨b.gen, b.count + 1⟩ ∧ t.fab.ports = s.fab.ports)) ∧
      (hdr.cmd = b.gen % 128 → 0 < gangParts l → gangParts l ≤ b.count + 1 → Gives (exec (.gangBarrierArrival hdr sl.serial bar) s) (fun t =>
        now t = some ⟨b.gen + 1, 0⟩ ∧
        ∀ p ∈ sl.members, p ≠ s.pkg → Leaves t (fun x => x.dst = p ∧ x.msg = .barDone sl.serial bar)))) ∧
    (coordinator sl = hdr.srcPkg → Gives (exec (.gangBarrierCompletion hdr sl.serial bar) s) (fun t =>
      now t = some ⟨b.gen + 1, 0⟩ ∧ t.cur = s.cur ∧ SameMem s t))

/- The fabric -/

/-- R194, R196, R199, R202, R207: a FABRIC_WRITE that the FAT grants writes its bytes and is acknowledged, one that is
refused writes nothing and is answered with a NACK that names its offset, one to a group that this package has no
equal entry of is refused and not counted; a FABRIC_ADD adds its element once per sequence number; a unit of a command
with ORD waits for the earlier ones; a packet of a stale incarnation changes nothing but the counter of R249.
That a refused unit changes no byte at all, and that its NACK names the unit's offset, is the model's choice (log entry
52). -/
def Claims.TargetWrites : Prop :=
  ∀ (s : State) (rdie : Nat) (hdr : FHdr) (t : Target) (off : Nat) (data : List Byte) (ord : Option Nat),
    hdr.srcPkg ≠ s.pkg → hdr.srcPkg < 4096 → hdr.srcDie < 16 → s.fab.portsUp = true → rdie < 12 →
    (s.die rdie).resetAt = none →
    let s1 := noteInc s rdie hdr
    let i : Instr := .fabricWrite rdie hdr t ⟨off, ord⟩ data
    let j : Instr := .fabricAdd rdie hdr t ⟨off, ord⟩ false data
    (ordEarly s hdr off ord = true → exec i s = .next s ∧ exec j s = .next s) ∧
    (ordEarly s hdr off ord = false → staleSrc s rdie hdr = true → ∀ k ∈ [i, j], Gives (exec k s) (fun u =>
      u = { s with errs := u.errs } ∧ u.errs.stale = satInc s.errs.stale)) ∧
    (ordEarly s hdr off ord = false → staleSrc s rdie hdr = false → groupOk s1 t hdr = true →
      (∀ ls, remoteLocs s1 rdie hdr rWr .engWrite t off data.length = .ok ls → Gives (exec i s) (fun u =>
        RemoteStep s u ls ∧ Replies s u rdie hdr (.ack off) ∧
        ∀ key, Plain ls key data.length → ∀ n < data.length, data[n]? = some (memByte u (key + n)))) ∧
      (∀ c a d, remoteLocs s1 rdie hdr rWr .engWrite t off data.length = .fail c a d → Gives (exec i s) (fun u =>
        RemoteStep s u [] ∧ Replies s u rdie hdr (.nak (if c = cXlate then 0x22 else 0x23) off false))) ∧
      (∀ ls, appliedBefore s hdr = false → data.length = 4 → ls.length = 4 →
        remoteLocs s1 rdie hdr rAdd .counter t off 4 = .ok ls → Gives (exec j s) (fun u =>
          RemoteStep s u ls ∧ Replies s u rdie hdr (.ack off) ∧ appliedBefore u hdr = true ∧
          ∀ key, Plain ls key 4 → memNat u key 4 = (memNat s key 4 + ofBytes data) % 2 ^ 32)) ∧
      (appliedBefore s hdr = true → Gives (exec j s) (fun u => RemoteStep s u [] ∧ Replies s u rdie hdr (.ack off)))) ∧
    (ordEarly s hdr off ord = false → staleSrc s rdie hdr = false → groupOk s1 t hdr = false →
      Gives (exec i s) (fun u => SameMem s u ∧ Replies s u rdie hdr (.nak 0x23 off false) ∧ u.errs = s.errs))

/-- R22, R82, R190: a packet waits in the port of its gateway with the fewest queued flits, on a tie in that of the lowest
number; a port sends the oldest packet of the fragment that comes first after the one it served last, in the order of
the panes with the gateway itself behind them (which it is, is the model's choice, log entry 82). The control die's packets
are passed over while its link to the gateway retrains; where no packet can leave, nothing changes. -/
def Claims.PortsTakeTurns : Prop :=
  ∀ (s : State) (die p : Nat),
    let goes (x : OutPkt) : Prop := x.pkt.hdr.srcDie < 12 ∨ windowOpen s (s.link x.gate 15) = false
    (choosePort s die < 3 ∧ ∀ i < 3, (s.port die (choosePort s die)).flits ≤ (s.port die i).flits ∧
      ((s.port die i).flits = (s.port die (choosePort s die)).flits → choosePort s die ≤ i)) ∧
    (∀ (i : Nat) (pre post : List OutPkt) (o : OutPkt), s.fab.portsUp = true → (s.die die).resetAt = none → o.pkt.dst < 4096 →
      i < 17 → (s.port die p).q = pre ++ o :: post → o.frag = ((s.port die p).turn + 1 + i) % 17 →
      goes o →
      (∀ x ∈ pre, goes x → x.frag ≠ o.frag) →
      (∀ j < i, ∀ x ∈ (s.port die p).q, goes x → x.frag ≠ ((s.port die p).turn + 1 + j) % 17) →
      let t := servePort s die p
      (t.port die p).q = pre ++ post ∧ (t.port die p).turn = o.frag ∧ t.fab.out = s.fab.out ++ [{ o with since := s.now }]) ∧
    ((∀ x ∈ (s.port die p).q, ¬ goes x) → servePort s die p = s)

/-- Packets come and go. -/
def Obligations.RemoteWrites : Prop :=
  Claims.TargetWrites ∧ Claims.PortsTakeTurns

/-- R198, R200, R375, R376: a FETCH_ORDER starts a responder; it sends the next unit as it reads it, and END after the
last one; FABRIC_STOP ends it with END at the next unit; a FETCH_UNIT that LAND grants is written, the first that is
refused is answered with a NACK and stops the owner; a REPORT below which all units are settled is answered with the
landed prefix, which stays on record, and one with a higher end than an earlier one asks for no more than that; FABRIC_COMMIT adds the length to the landing counter once. What the packets name
beside R189's fields (an END's and a NACK's offset, a REPORT's RESUME), that a refused unit changes no byte and that what
landed is kept after COMMIT are the model's choice (log entry 52). -/
def Obligations.FetchesLand : Prop :=
  ∀ (s : State) (rdie : Nat) (hdr : FHdr) (o : FetchOrder) (r : Responder) (off upto len : Nat) (data : List Byte)
    (addr : W64),
    let s1 := noteInc s rdie hdr
    (Comes s rdie hdr → rdie < 12 → appliedBefore s hdr = false → (∀ x ∈ s.fab.resps, x.hdr ≠ hdr) → upto ≤ o.resume →
      o.resume < o.length → Gives (exec (.fetchOrder rdie hdr o upto) s) (fun u => SameMem s u ∧
        u.fab.ports = s.fab.ports ∧
        u.fab.resps = s.fab.resps ++ [⟨rdie, hdr, o, o.resume, none⟩])) ∧
    (s.fab.resps.find? (fun x => x.hdr == hdr) = some r → (s.die r.rdie).resetAt = none → r.pos < upto →
      upto ≤ r.pos + 64 → r.pos < r.order.length →
      let s2 : State := { s with fab := { s.fab with resps := s.fab.resps.filter (fun x => x.hdr != hdr) } }
      let m := min 64 (r.order.length - r.pos)
      let port := r.port.getD (choosePort s r.rdie)
      ∀ ls, o.length = r.order.length → remoteLocs s2 r.rdie r.hdr rRd .engRead r.order.source r.pos m = .ok ls →
        Gives (exec (.fetchOrder rdie hdr o upto) s) (fun u => SameMem s u ∧
          (∃ p ∈ (u.port r.rdie port).q, p.pkt.dst = groupDst r.order.recip ∧
            p.pkt.msg = .unit r.order r.pos (ls.map (fun l => BitVec.ofNat 8 (readLoc s2 l))) ∧
            (r.pos + m < r.order.length → (u.port r.rdie port).q = (s.port r.rdie port).q ++ [p])) ∧
          (r.pos + m < r.order.length → u.fab.resps = s2.fab.resps ++
            [{ r with pos := r.pos + 64, port := if r.order.ord then some port else r.port }]) ∧
          (r.pos + m = r.order.length → u.fab.resps = s2.fab.resps ∧
            Leaves u (fun e => e.dst = r.hdr.reqPkg ∧ e.msg = .endUnits r.order.length)))) ∧
    (s.fab.resps.find? (fun x => sameReq x.hdr hdr) = some r → Comes s r.rdie hdr →
      Gives (exec (.fabricStop hdr) s) (fun u =>
        let port := r.port.getD (choosePort s r.rdie)
        (∃ p, (u.port r.rdie port).q = (s.port r.rdie port).q ++ [p] ∧
          p.pkt = ⟨r.hdr.reqPkg, s.answerHdr r.rdie r.hdr, .endUnits r.pos⟩) ∧
        (∀ x ∈ u.fab.resps, x ≠ r) ∧ SameMem s u)) ∧
    (Comes s rdie hdr → rdie < 12 →
      let old := recipOf s1 rdie hdr
      (o.ord = true → settledBelow old off (off / 64 + 1) o.resume = true) → groupOk s1 o.recip hdr = true →
      (∀ ls, remoteLocs s1 rdie hdr rLand .engWrite o.recip off data.length = .ok ls →
        Gives (exec (.fetchUnit rdie hdr o off data) s) (fun u => RemoteStep s u ls ∧ off ∈ (recipOf u rdie hdr).units ∧
          ∀ key, Plain ls key data.length → ∀ n < data.length, data[n]? = some (memByte u (key + n)))) ∧
      (∀ c a d, remoteLocs s1 rdie hdr rLand .engWrite o.recip off data.length = .fail c a d → old.refused = [] →
        Gives (exec (.fetchUnit rdie hdr o off data) s) (fun u => RemoteStep s u [] ∧ off ∈ (recipOf u rdie hdr).refused ∧
          Leaves u (fun e => e.dst = hdr.reqPkg ∧ ∃ n, e.msg = .nak (if c = cXlate then 0x22 else 0x23) n false) ∧
          Leaves u (fun e => e.dst = o.source.pkg ∧ e.msg = .stop)))) ∧
    (Comes s rdie hdr → rdie < 12 →
      let old := recipOf s1 rdie hdr
      let e := match old.askEnd with
        | some a => min len a.2
        | none => len
      let x : Recipient := { old with hdr := hdr, askEnd := some (off, e), reported := false }
      settledBelow x e (e / 64 + 1) off = true → Gives (exec (.report rdie hdr off len) s) (fun u =>
        RemoteStep s u [] ∧ Replies s u rdie hdr (.landed x.prefix') ∧ (recipOf u rdie hdr).reported = true)) ∧
    (Comes s rdie hdr → rdie < 12 → hdr.srcPkg < 4096 → hdr.srcDie < 16 →
      (∀ ls, appliedBefore s hdr = false → remoteLocs s1 rdie hdr rLand .counter ⟨0, 0, 0, 0, addr⟩ 0 8 = .ok ls →
        Gives (exec (.fabricCommit rdie hdr addr len) s) (fun u => RemoteStep s u ls ∧
          Replies s u rdie hdr .committed ∧ appliedBefore u hdr = true ∧ u.fab.recips = s.fab.recips ∧
          ∀ key, Plain ls key 8 → memNat u key 8 = (memNat s key 8 + len) % 2 ^ 64)) ∧
      (appliedBefore s hdr = true → Gives (exec (.fabricCommit rdie hdr addr len) s) (fun u =>
        RemoteStep s u [] ∧ Replies s u rdie hdr .committed)))

/-- R22, R190, R196, R198, R200, R203, R206, R207, R376: at the requester an ACKNOWLEDGEMENT and a NEGATIVE_REPLY note their
unit, and the command completes when every unit is answered, with the first refusal's code; END starts REPORTs to the
recipients that have not reported; the last LANDED of the whole length sends COMMIT, or completes a fetch without a landing
counter; one of less waits for the refusal that explains it; the last COMMITTED completes the command. A refusal by the
owner below the END it sent lowers that end and asks the recipients anew. That units are named by their offset, END by an
offset, and REPORT carries RESUME is the model's choice (log entry 52); so is which gateway's record of incarnations judges a
reply (log entry 83). The packet at the head of a port from which nothing left for 100 µs is dropped, counted and
sent again; one that a switch holds is dropped and sent again. -/
def Obligations.FabricReplies : Prop :=
  ∀ (s : State) (hdr : FHdr) (c : FabCmd) (p : Peer) (home off : Nat) (k : Cmd), Comes s (replyGate s hdr) hdr →
    hdr.reqPkg = s.pkg → (12 ≤ hdr.reqDie → ctlAway s (gateOf s 15) = false) → Orderly s → s.fab.cmds = [c] → c.id = hdr.cmd → c.peers = [p] →
    fabHome s c.id = some (home, k) → k.id = c.id → c.id ≠ 0 →
    let gone (t : State) : Prop := t.fab.cmds = []
    (c.order = none → p.pkg = hdr.srcPkg →
      (∀ d n, c.nak = none → k.src = some d → d.bytes ≤ k.prog → (∀ u ∈ c.sent, u = off ∨ u ∈ p.acked) →
        n = off → Gives (exec (.acknowledgement hdr n) s) (fun t => gone t ∧ Completed s t c.id Done.ok)) ∧
      (∀ u ∈ c.sent, u ≠ off → u ∉ p.acked → u ∉ p.naked → p.lost = false →
        Gives (exec (.acknowledgement hdr off) s) (fun t => ∃ d x, t.fab.cmds = [d] ∧ d.peers = [x] ∧
          x.acked = p.acked ++ [off] ∧ d.sent = c.sent ∧ SameMem s t) ∧
        ∀ code own, Gives (exec (.negativeReply hdr code ⟨off, own⟩) s) (fun t => ∃ d x, t.fab.cmds = [d] ∧ d.peers = [x] ∧
          x.naked = p.naked ++ [off] ∧ d.nak = some (c.nak.getD code) ∧ SameMem s t)) ∧
      (∀ code own, 0 < code → code < 128 → c.nak = none → (∀ u ∈ c.sent, u = off ∨ u ∈ p.acked ∨ u ∈ p.naked) →
        Gives (exec (.negativeReply hdr code ⟨off, own⟩) s) (fun t => gone t ∧
          ∃ n, Completed s t c.id ⟨statusWord code n, k.pc, k.word⟩))) ∧
    (∀ o, c.order = some o → c.nak = none →
      (∀ e w, c.owner = some w → w.1 = hdr.srcPkg → c.endOff = none → p.landed = none → p.lost = false → c.report = false →
        e = off → Gives (exec (.fetchEnd hdr e) s) (fun t => (∃ d, t.fab.cmds = [d] ∧ d.endOff = some e ∧ d.report = true) ∧
          Leaves t (fun x => x.dst = p.pkg ∧ x.msg = .report o.resume e))) ∧
      (∀ e w code, c.owner = some w → w.1 = hdr.srcPkg → c.endOff = some e → off < e → p.landed = none → p.lost = false →
        Gives (exec (.negativeReply hdr code ⟨off, true⟩) s) (fun t =>
          (∃ d, t.fab.cmds = [d] ∧ d.endOff = some off ∧ d.report = true ∧ d.nak = some code) ∧
          Leaves t (fun x => x.dst = p.pkg ∧ x.msg = .report o.resume off))) ∧
      (c.endOff.isSome = true → p.pkg = hdr.srcPkg → off < o.length → o.resume < o.length →
        Gives (exec (.landed hdr off) s) (fun t => SameMem s t ∧ ∃ d x, t.fab.cmds = [d] ∧ d.nak = none ∧
          d.commit = c.commit ∧ d.peers = [x] ∧ x.landed = some off)) ∧
      (c.endOff.isSome = true → p.pkg = hdr.srcPkg → o.length ≤ off →
        (o.landing = 0 → Gives (exec (.landed hdr off) s) (fun t => gone t ∧ Completed s t c.id Done.ok)) ∧
        (o.landing ≠ 0 → c.commit = false → Gives (exec (.landed hdr off) s) (fun t =>
          (∃ d, t.fab.cmds = [d] ∧ d.commit = true) ∧ Leaves t (fun x => x.dst = p.pkg ∧ x.msg = .commit o.landing o.length))) ∧
        (o.landing ≠ 0 → c.commit = true → p.landed = some off → Gives (exec (.committed hdr) s) (fun t =>
          gone t ∧ Completed s t c.id Done.ok)))) ∧
    (∀ die i x, (s.port die i).head? s = some x →
      (s.now < (s.port die i).at' + 7200000 → exec (.noProgressTimeout (.port die i)) s = .next s) ∧
      ((s.port die i).at' + 7200000 ≤ s.now → x.drops < 8 → x.pkt.hdr.inc = (s.die x.pkt.hdr.srcDie).inc →
        Gives (exec (.noProgressTimeout (.port die i)) s) (fun t =>
          t = { s with fab := t.fab, errs := t.errs } ∧ t.errs.timeout = satInc s.errs.timeout ∧ t.fab.out = s.fab.out ∧
          ∃ g j, { x with drops := x.drops + 1 } ∈ (t.port g j).q))) ∧
    (∀ idx x, s.fab.out[idx]? = some x →
      (s.now < x.since + 7200000 → exec (.noProgressTimeout (.switch idx)) s = .next s) ∧
      (x.since + 7200000 ≤ s.now → x.drops < 8 → x.pkt.hdr.inc = (s.die x.pkt.hdr.srcDie).inc →
        Gives (exec (.noProgressTimeout (.switch idx)) s) (fun t =>
          t = { s with fab := t.fab } ∧ t.fab.out = s.fab.out.eraseIdx idx ∧
          ∃ g j, { x with drops := x.drops + 1 } ∈ (t.port g j).q)))

/-- R204, R205, R209: a RESET_NOTICE records the new incarnation at every gateway, a PORT_LOSS forgets those of the package;
each drops the responders that serve the lost die or package, and marks with STALE every command of this package with a
party there, fetch or send, whatever that party has answered, where no earlier refusal stands. Once every other party has
reported, and has answered a COMMIT that was sent, the command's token completes with STALE; while one has not, the command
stays, and a fetch whose owner is lost asks its recipients for what they have now. A party whose die is not known counts as
on the lost one (log entry 51). -/
def Obligations.LossesElsewhere : Prop :=
  ∀ (s : State) (pkg die inc : Nat), pkg ≠ s.pkg → s.fab.portsUp = true → pkg < 4096 → die < 16 →
    (s.fab.cmds.map (·.id)).Nodup →
    let hit (d : Option Nat) (n : Nat) (x : Option Nat) : Prop := n = pkg ∧ (d = none ∨ x = none ∨ x = d)
    let owner (d : Option Nat) (c : FabCmd) : Prop := ∃ o, c.owner = some o ∧ hit d o.1 o.2
    let party (d : Option Nat) (c : FabCmd) : Prop := owner d c ∨ ∃ p ∈ c.peers, hit d p.pkg p.die
    let marked (t : State) (d : Option Nat) : Prop := ∀ c ∈ s.fab.cmds, party d c →
      ∀ c' ∈ t.fab.cmds, c'.id = c.id → c'.nak = some (c.nak.getD 0x25)
    let ends (t : State) (d : Option Nat) : Prop := ∀ c home k, s.fab.cmds = [c] → Orderly s →
      fabHome s c.id = some (home, k) → k.id = c.id → c.id ≠ 0 → party d c → c.nak = none →
      (∀ e ∈ s.ents, Store.get 0 e.2.lent pkg = 0) → (∀ e ∈ s.launches, e.2.slice = none) →
      let gone (p : Peer) : Prop := p.lost = true ∨ hit d p.pkg p.die
      let told (p : Peer) : Prop := gone p ∨
        if c.order = none then ∀ u ∈ c.sent, u ∈ p.acked ∨ u ∈ p.naked else p.landed.isSome = true
      let settled' : Prop := c.order = none ∨ ((c.endOff.isSome = true ∨ owner d c) ∧
        (c.commit = true → ∀ p ∈ c.peers, gone p ∨ p.committed = true ∨ p.refused = true))
      ((∀ p ∈ c.peers, told p) → settled' →
        t.fab.cmds = [] ∧ ∃ n, Completed s t c.id ⟨statusWord 0x25 n, k.pc, k.word⟩) ∧
      ((∃ p ∈ c.peers, ¬ told p) → ∃ c', t.fab.cmds = [c'] ∧ c'.id = c.id ∧ c'.nak = some 0x25) ∧
      (∀ o e, c.order = some o → owner d c → c.endOff = none ∨ (c.endOff = some e ∧ 0 < e) → c.report = c.endOff.isSome →
        ∀ p ∈ c.peers, ¬ told p → Leaves t (fun x => x.dst = p.pkg ∧ x.msg = .report o.resume 0))
    Gives (exec (.resetNotice pkg die inc) s) (fun t =>
      (∀ gw, gw < 12 ∨ gw = 15 → Tab.get? t.fab.peerInc (incKey gw pkg die) = some inc) ∧
      (∀ r ∈ t.fab.resps, ¬ (r.hdr.reqPkg = pkg ∧ r.hdr.reqDie = die)) ∧ marked t (some die) ∧ ends t (some die)) ∧
    Gives (exec (.portLoss pkg) s) (fun t => (∀ gw, Tab.get? t.fab.peerInc (incKey gw pkg die) = none) ∧
      (∀ r ∈ t.fab.resps, r.hdr.reqPkg ≠ pkg) ∧ marked t none ∧ ends t none)

/- Clocks, links, hosts -/

/-- R14, R20, R21, R22, R23, R80, R185, R205, R208: fabric time is valid from its first synchronisation on and never goes
back; a link opens a window no earlier than 100 µs after the last and counts it as closed after 1 µs; a clock step
leaves CYCLE as it reads and is never above the nominal rate, and a command under way keeps the array, and a context that
waits for a cycle waits, for as many cycles of the new length; the cycle under way begins anew (the model's choice, log entry
71); the ports come up 200 µs after a reset; a host's write of device memory changes exactly its bytes, and
its read nothing. The unit of time is the model's choice (log entry 2); so is that a host reaches the bytes as they stand,
by die-local address, whatever page tables and keys say (log entry 66). -/
def Obligations.ClocksLinksHosts : Prop :=
  ∀ (s : State) (a b die ticks ns link addr n : Nat) (data : List Byte),
    (s.fab.portsUp = true → Gives (exec (.fabricTime ns) s) (fun t => t = { s with fab := t.fab } ∧ t.fab.valid = true ∧
      (∀ d, (s.die d).resetAt = none → d ∉ t.fab.untimed) ∧ (s.fab.valid = true → t.ftimeNs = max ns s.ftimeNs) ∧ (s.fab.valid = false → t.ftimeNs = ns))) ∧
    (a ≠ b → isDie a = true → isDie b = true → (s.link a b).window = none →
      ((∀ e, (s.link a b).last = some e → e + 7200000 ≤ s.now) → Gives (exec (.linkStep a b) s) (fun t =>
        t = { s with links := t.links } ∧ (t.link a b).window = some s.now)) ∧
      (∀ e, (s.link a b).last = some e → s.now < e + 7200000 → exec (.linkStep a b) s = .next s)) ∧
    (∀ w, (s.link a b).window = some w → Gives (exec (.retrainingWindowClose a b) s) (fun t =>
      t = { s with links := t.links } ∧ t.link a b = ⟨none, some (min s.now (w + 72000))⟩)) ∧
    (die < 12 → 32 ≤ ticks → Gives (exec (.arithmeticClockStep die ticks) s) (fun t =>
      let paced (x : Nat) : Nat := if s.now < x then s.now + ((x - s.now) * ticks + (s.die die).tpc - 1) / (s.die die).tpc else x
      let waits (c : Ctx) : Ctx := if c.seq / 16 = die then { c with notBefore := paced c.notBefore } else c
      (t.die die).tpc = ticks ∧ (t.die die).cycles = s.cycle die ∧ (t.die die).cycAt = s.now ∧
      (0 < (s.die die).tpc → (∀ c ∈ s.chains, c.flight = []) → (∀ f, f / 16 = die → (s.frag f).cur = none) →
        t = { s with dies := t.dies, frags := t.frags, cur := waits s.cur, others := s.others.map waits } ∧
        t.cycle die = s.cycle die ∧ (∀ d, d ≠ die → t.die d = s.die d) ∧
        (∀ f, f / 16 ≠ die → t.frag f = s.frag f) ∧
        ∀ f, f / 16 = die → t.frag f = { s.frag f with
          busy := (t.frag f).busy, wdone := (t.frag f).wdone, exit0 := (t.frag f).exit0, exit1 := (t.frag f).exit1
          q := (t.frag f).q } ∧
          (t.frag f).busy = paced (s.frag f).busy))) ∧
    (ticks < 32 → exec (.arithmeticClockStep die ticks) s = .next s) ∧
    (s.boot.powered = true → s.fab.portsUp = false →
      (s.fab.portsAt + 14400000 ≤ s.now → exec .portDownPeriodEnd s = .next { s with fab := { s.fab with portsUp := true } }) ∧
      (s.now < s.fab.portsAt + 14400000 → exec .portDownPeriodEnd s = .next s)) ∧
    (exec (.hostAccess link die addr n none) s = .next s) ∧
    (s.boot.powered = true → s.boot.scrubAt = none → link < 2 → die < 12 → addr + data.length ≤ dieBytes → heldBy s 15 die = false →
      Gives (exec (.hostAccess link die addr data.length (some data)) s) (fun t =>
        t = { s with mem := t.mem, ecc := t.ecc, twSeen := t.twSeen } ∧
        (∀ i < data.length, data[i]? = some (memByte t (dramKey die addr + i))) ∧
        ∀ k, k < dramKey die addr ∨ dramKey die addr + data.length ≤ k → memByte t k = memByte s k))

/- Ownership and queues -/

/-- R236, R237, R238: CLAIM of vacant ownership makes the writer owner; HANDOVER by the owner records or clears the
successor; COMMIT by that successor with its nonce makes it owner; RELEASE by the owner leaves ownership vacant. Each
of them from another master is refused and counted; the register writes at 08, 18, 20 and 28 are these, and reads of these
offsets give 0. -/
def Obligations.Ownership : Prop :=
  ∀ (s : State) (m : W16) (v : W64) (n : BitVec 48),
    let own (o : Owner) : Out := .next { s with own := o }
    let refused : Out := own { s.own with refused := s.own.refused + 1 }
    (isMaster s m = true →
      (s.own.owner = 0xFFFF → exec (.claim m v) s = own { s.own with owner := m, nonce := v }) ∧
      (s.own.owner ≠ 0xFFFF → exec (.claim m v) s = refused) ∧
      (s.own.owner = m → exec (.handover m v) s = own { s.own with
        pending := if v.extractLsb' 48 16 = 0xFFFF then none else some (v.extractLsb' 48 16, v.extractLsb' 0 48) }) ∧
      (s.own.owner ≠ m → exec (.handover m v) s = refused ∧ exec (.release m v) s = refused) ∧
      (s.own.pending = some (m, n) → exec (.commit m n) s =
        own { s.own with owner := m, nonce := n.zeroExtend 64, pending := none }) ∧
      (s.own.pending ≠ some (m, n) → exec (.commit m n) s = refused) ∧
      (s.own.owner = m → exec (.release m v) s =
        if v.getLsbD 0 then own { s.own with owner := 0xFFFF, pending := none } else .next s)) ∧
    (isMaster s m = false → ∀ i ∈ [Instr.claim m v, .handover m v, .commit m n, .release m v], exec i s = .next s) ∧
    exec (.registerWrite m 0x08 v) s = exec (.claim m v) s ∧ exec (.registerWrite m 0x18 v) s = exec (.handover m v) s ∧
    exec (.registerWrite m 0x20 v) s = exec (.commit m (v.setWidth 48)) s ∧
    exec (.registerWrite m 0x28 v) s = exec (.release m v) s ∧
    registerRead s 0x00 = s.own.owner.setWidth 64 ∧ registerRead s 0x10 = s.own.nonce ∧
    registerRead s 0x30 = s.own.refused.setWidth 64 ∧ ∀ off ∈ [0x08, 0x18, 0x20, 0x28, 0x848], registerRead s off = 0

/-- R27, R239, R240, R247, R370, R380: a TAIL value from the effective tail to HEAD plus the size is taken, another is
counted; so is a tail word, which leaves TAIL alone, and a fault of its read ends in FAULT; EN = 1 of the owner on an
idle queue opens a phase of its open job, EN = 0 ends it; a coalescing window that has run out sends its message. That TAIL
reads as the last value written, and that EN = 0 of a BLOCKED queue only takes EN away until its packet is taken, is the
model's reading (log entry 58). -/
def Obligations.QueueRegisters : Prop :=
  ∀ (s : State) (m : W16) (q : Nat) (v : W64), q < 32 →
    let h := s.hq q
    let good (x : W64) : Prop := h.efftail ≤ x.toNat ∧ x.toNat ≤ h.head.toNat + qSize h
    let sets (t : State) (n : HQueue) : Prop := t.hq q = n ∧ OnlyQueue s t q
    (isMaster s m = true →
      (good v → Gives (exec (.tail m q v) s) (fun t => sets t { h with efftail := v.toNat, tailReg := v })) ∧
      (¬ good v → Gives (exec (.tail m q v) s) (fun t => sets t { h with stalecnt := h.stalecnt + 1 }))) ∧
    exec (.registerWrite m (0x10000 + 128 * q + 0x18) v) s = exec (.tail m q v) s ∧
    (registerRead s (0x10000 + 128 * q + 0x10) = h.head ∧ registerRead s (0x10000 + 128 * q + 0x18) = h.tailReg ∧
      registerRead s (0x10000 + 128 * q + 0x20) = (if h.en then 1 else 0) ∧
      (registerRead s (0x10000 + 128 * q + 0x28)).setWidth 8 = BitVec.ofNat 8 h.st.code ∧
      (registerRead s (0x10000 + 128 * q + 0x28)).extractLsb' 8 8 = h.cause ∧
      (registerRead s (0x10000 + 128 * q + 0x28)).extractLsb' 32 32 = h.index) ∧
    (isOwner s m = true → h.st = .idle → v.toNat % 2 ^ 63 % 64 = 0 →
      Gives (exec (.registerWrite m (0x10000 + 128 * q) v) s) (fun t => sets t { h with qbase := v })) ∧
    (isMaster s m = true → isOwner s m = false →
      ∀ i ∈ [Instr.queueEnable m q, .queueDisable m q, .registerWrite m (0x10000 + 128 * q) v],
        exec i s = .next { s with own := { s.own with refused := s.own.refused + 1 } }) ∧
    (h.st = .run → h.twaddr ≠ 0 →
      (∀ ls leaf, access s (qWho h) .watch h.twaddr 8 = .ok (ls, leaf) →
        let x := u64 (readLocs s ls)
        (good x → Gives (exec (.tailWordRead q) s) (fun t => t.hq q = { h with efftail := x.toNat } ∧ SameMem s t)) ∧
        (¬ good x → (q, (ls.headD (.acc 0 0)).eccKey) ∉ s.twSeen → Gives (exec (.tailWordRead q) s) (fun t =>
          t.hq q = { h with stalecnt := h.stalecnt + 1 } ∧ SameMem s t)) ∧
        (¬ good x → (q, (ls.headD (.acc 0 0)).eccKey) ∈ s.twSeen → exec (.tailWordRead q) s = .next s)) ∧
      (∀ c a d, access s (qWho h) .watch h.twaddr 8 = .fail c a d → Gives (exec (.tailWordRead q) s) (fun t =>
        (t.hq q).st = .fault ∧ (t.hq q).cause = BitVec.ofNat 8 c ∧ (t.hq q).index = h.head.setWidth 32))) ∧
    (isOwner s m = true → h.st = .idle →
      (∀ j x, s.job? (qCtx h) = some j → j.closing = false → s.ent? j.ent = some x → x.e < 56 →
        Gives (exec (.queueEnable m q) s) (fun t => (t.hq q).st = .run ∧ (t.hq q).en = true ∧
          (t.hq q).phase = some s.nextId ∧ (t.hq q).head = h.head ∧ (t.hq q).pred = true ∧
          ∃ y, t.ent? s.nextId = some y ∧ y.level = .phase ∧ y.parent = some j.ent ∧ y.carried = x.e + 1)) ∧
      (s.job? (qCtx h) = none → Gives (exec (.queueEnable m q) s) (fun t =>
        (t.hq q).st = .fault ∧ (t.hq q).cause = 0x06 ∧ t.ents = s.ents))) ∧
    (isOwner s m = true → h.st = .run → Gives (exec (.queueDisable m q) s) (fun t =>
      (t.hq q).st = .idle ∧ (t.hq q).en = false ∧ (t.hq q).phase = none ∧ (t.hq q).head = h.head ∧
      ∀ p x, h.phase = some p → s.ent? p = some x → ∃ y, t.ent? p = some y ∧ y.closed = true)) ∧
    (isOwner s m = true → h.st = .blocked → Gives (exec (.queueDisable m q) s) (fun t => sets t { h with en := false })) ∧
    (∀ b, h.coalAt = some b → h.coal ≠ 0 →
      (b + h.coal.toNat * 72000 ≤ s.now → Gives (exec (.coalWindowExpiry q) s) (fun t =>
        sets t { h with coalAt := none } ∧ t.msis = s.msis ++ [(qLink h, qVec h)])) ∧
      (s.now < b + h.coal.toNat * 72000 → exec (.coalWindowExpiry q) s = .next s))

/-- R242, R243, R245, R247, R380: STOP, NOP, SIGNAL, TIME, PRED, FFENCE, CALL and LOOP do what their packets say and
are taken; a packet that the predicate skips is taken without effect; a malformed packet ends in FAULT with DESC and
the index, a fifth nesting level, of CALL or of LOOP, too. Where HEAD stands while a buffer runs is the model's choice
(log entry 28); so is that a LOOP of no iterations is taken at every level (log entry 59). -/
def Obligations.PlainPackets : Prop :=
  ∀ (s : State) (q : Nat) (w : W64 × W64) (i : Instr), PacketTurn s q w i →
    let h := s.hq q
    let p := Packet.ofWords w.1 w.2
    let s1 := withPacket s q w
    let who := qWho (s1.hq q)
    let taken (t : State) : Prop := Taken s t q ∧ OnlyQueue s t q
    let stored (t : State) (ls : List Loc) (new : Nat → Nat) : Prop := Taken s t q ∧
      t = { s with queues := t.queues, msis := t.msis, mem := t.mem, ecc := t.ecc, twSeen := t.twSeen, accs := t.accs } ∧
      (∀ k, (∀ l ∈ ls, ¬ l.touches k) → memByte t k = memByte s k) ∧
      ∀ key, Plain ls key 8 → memNat t key 8 = new (memNat s key 8)
    let level (iters : Nat) (t : State) : Prop := (t.hq q).levels = ⟨p.addr, p.n, 0, iters⟩ :: h.levels ∧
      (t.hq q).head = h.head ∧ OnlyQueue s t q
    let broken (t : State) : Prop := (t.hq q).st = .fault ∧ (t.hq q).cause = 0x14 ∧ (t.hq q).index = h.head.setWidth 32
    (packetRuns h p = false → Gives (exec i s) (fun t => taken t ∧ t.msis = s.msis ∧ (t.hq q).st = .run ∧
      (t.hq q).pred = h.pred)) ∧
    (packetRuns h p = true →
      (i = .stopPacket q → Gives (exec i s) (fun t => taken t ∧ (t.hq q).st = .stopped)) ∧
      (i = .nopPacket q → Gives (exec i s) (fun t => taken t ∧ (t.hq q).st = .run ∧ t.msis = s.msis)) ∧
      (∀ ls leaf, i = .signalStore q → access s1 who .store p.addr 8 = .ok (ls, leaf) →
        Gives (exec i s) (fun t => stored t ls (fun _ => p.aux.toNat))) ∧
      (∀ ls leaf, i = .signalAdd q → access s1 who .atomic p.addr 8 = .ok (ls, leaf) →
        Gives (exec i s) (fun t => stored t ls (fun x => (x + p.aux.toNat) % 2 ^ 64))) ∧
      (∀ ls leaf, i = .timePacket q → access s1 who .store p.addr 8 = .ok (ls, leaf) →
        Gives (exec i s) (fun t => stored t ls (fun _ => (s.ftime 15).toNat))) ∧
      (i = .pred q → (p.addr = 0 → Gives (exec i s) (fun t => taken t ∧ (t.hq q).pred = !p.flags.getLsbD 5)) ∧
        ∀ ls leaf, p.addr ≠ 0 → access s1 who .load p.addr 8 = .ok (ls, leaf) → Gives (exec i s) (fun t =>
          taken t ∧ (t.hq q).pred = (decide (readLocs s1 ls ≠ 0) != p.flags.getLsbD 5))) ∧
      (i = .ffence q → Gives (exec i s) (fun t => taken t ∧ (t.hq q).ahead = [] ∧ (t.hq q).low = [])) ∧
      (i = .call q → (h.levels.length < 4 → Gives (exec i s) (level 1)) ∧ (4 ≤ h.levels.length → Gives (exec i s) broken)) ∧
      (i = .loopPacket q → (p.aux = 0 → Gives (exec i s) taken) ∧
        (p.aux ≠ 0 → h.levels.length < 4 → Gives (exec i s) (level p.aux.toNat)) ∧
        (p.aux ≠ 0 → 4 ≤ h.levels.length → Gives (exec i s) broken))) ∧
    ∀ v : W64 × W64, packetOk (Packet.ofWords v.1 v.2) = false →
      let s2 := s.modHq q (fun h => { h with ahead := Tab.set h.ahead (packetKey h 0) v })
      Gives (exec (.nopPacket q) s2) (fun t => broken t ∧ (t.hq q).head = h.head)

/-- R25, R27, R45, R231, R243, R244, R246, R255: in a phase of an open job, LAUNCH, RESUME, the gang-slice LAUNCH and
GRAPH packets whose blocks pass the checks take the next outcome index and make a launch or graph beneath the phase;
a block that fails its checks ends in an outcome record, which DONE counts, and the launch's handle stays that of a
rejected one; PHASE closes the phase and opens the next; CHKPT queues the units of its ranges at the gateways and blocks
for their acknowledgements; a fault of reading its block, as a packet without such a phase, is a queue fault. How CHKPT
numbers its units and shares them out among the gateways is the model's choice (log entry 60), that HEAD stands at a
BLOCKED packet its reading (log entry 58). -/
def Obligations.WorkPackets : Prop :=
  ∀ (s : State) (q : Nat) (w : W64 × W64) (i : Instr) (ph : Nat) (x : Ent), PacketTurn s q w i →
    let h := s.hq q
    let p := Packet.ofWords w.1 w.2
    let s1 := withPacket s q w
    let who := qWho (s1.hq q)
    packetRuns h p = true →
    (qPhase s1 (s1.hq q) = none → ∀ j ∈ [Instr.launchPacket q, .resumePacket q, .sliceLaunch q, .graph q, .chkpt q, .phase q],
      i = j → Gives (exec i s) (fun t => (t.hq q).st = .fault ∧ (t.hq q).cause = 0x06 ∧ (t.hq q).head = h.head)) ∧
    (qPhase s1 (s1.hq q) = some ph → s.ent? ph = some x → x.e < 56 → isCancelled s ph = false → ph < s.nextId →
      let made (t : State) (lv : Level) : Prop := Taken s t q ∧ (t.hq q).recidx = h.recidx + 1 ∧
        (t.hq q).live = h.live ++ [s.nextId] ∧ t.ent? ph = some { x with e := x.e + 1 } ∧
        ∃ y, t.ent? s.nextId = some y ∧ y.level = lv ∧ y.parent = some ph ∧ y.carried = x.e + 1 ∧ y.complete = false ∧
          y.record = some (q, h.recidx.toNat, p.flags.getLsbD 6)
      let launched (t : State) (l : Lpb) (sl : Option Slice) : Prop := made t .launch ∧
        ∃ m, t.launch? s.nextId = some m ∧ m.lpb = l ∧ m.next = 0 ∧ m.slice = sl
      (∀ l, readLpb s1 who p.addr = .ok (.ok l) → checkFit s l = none → 0 < l.nunits →
        (i = .launchPacket q → Gives (exec i s) (fun t => launched t l none)) ∧
        (i = .resumePacket q → l.resume = true → Gives (exec i s) (fun t => launched t l none))) ∧
      (∀ l sl, readSlice s1 who p.addr = .ok (.ok (l, sl)) → checkFit s l = none → 0 < l.nunits → i = .sliceLaunch q →
        (∀ e ∈ s.fab.early, e.1 ≠ sl.serial) →
        Gives (exec i s) (fun t => launched t l (some sl))) ∧
      (∀ ns, readGraph s1 who p.addr = .ok (.ok ns) → i = .graph q → Gives (exec i s) (fun t =>
        made t .graph ∧ Tab.get? t.graphs s.nextId = some ns)) ∧
      (∀ st, readLpb s1 who p.addr = .ok (.error st) → i = .launchPacket q → Gives (exec i s) (fun t =>
        Taken s t q ∧ (t.hq q).recidx = h.recidx + 1 ∧ t.ents = s.ents ∧
        (∃ handle, t.rejects = s.rejects ++ [(qCtx h, handle)]) ∧
        ((h.qout = 0 ∨ h.qout.getLsbD 63 = true) → (t.hq q).done = h.done + 1) ∧
        ((t.hq q).done = h.done + 1 ∨ ∃ r ∈ t.recs, r.queue = q ∧ r.index = h.recidx.toNat ∧ r.status = st))) ∧
      (∀ j y, qJob s1 (s1.hq q) = some j → s.ent? j.ent = some y → y.e < 56 → j.ent ≠ ph →
        (∀ c ∈ s.cancels, c.ent ≠ ph) → i = .phase q →
        Gives (exec i s) (fun t => Taken s t q ∧ (t.hq q).phase = some s.nextId ∧
          (∃ z, t.ent? ph = some z ∧ z.closed = true) ∧
          ∃ z, t.ent? s.nextId = some z ∧ z.level = .phase ∧ z.parent = some j.ent)) ∧
      (h.live ≠ [] → i = .chkpt q → Gives (exec i s) (fun t => (t.hq q).st = .blocked ∧ (t.hq q).wait = some .earlier ∧
        (t.hq q).head = h.head)) ∧
      (∀ tg rs ms ver s3 f, h.live = [] → i = .chkpt q → readChkpt s1 (s1.hq q) p.addr = .ok (.ok (tg, rs)) →
        destinations s tg = some (ms, ver) →
        sendUnits who tg (rs.flatMap (fun r => (List.range (r.2 / 64)).map (fun n => r.1 + 64 * n)))
          ((assignIndex s1 q).2.fresh).2
          ⟨s.nextId, qCtx h, ver, ms.map (peerOf tg), false, none, none, 0, [], none, none, false, false, 15, 16, none⟩ =
          some (s3, f) →
        Gives (exec i s) (fun t => (t.hq q).st = .blocked ∧ (t.hq q).wait = some (.chkpt s.nextId) ∧
          (t.hq q).recidx = h.recidx + 1 ∧ f ∈ t.fab.cmds ∧ t.fab.ports = s3.fab.ports)) ∧
      (∀ c a d, h.live = [] → i = .chkpt q → readChkpt s1 (s1.hq q) p.addr = .fail c a d → Gives (exec i s) (fun t =>
        (t.hq q).st = .fault ∧ (t.hq q).cause = BitVec.ofNat 8 c ∧ (t.hq q).head = h.head ∧
        (t.hq q).recidx = h.recidx)))

/-- R131, R243, R380: a WAIT whose condition holds is taken, another blocks its thread; WAIT_RELEASE, and for a location
WAIT_RE_READ, take it once the condition holds and leave it before. That HEAD stands at a BLOCKED WAIT of every kind is
the model's reading (log entry 58: R380 says it of kind 0). -/
def Obligations.QueueWaits : Prop :=
  ∀ (s : State) (q : Nat) (w : W64 × W64) (i : Instr),
    let h := s.hq q
    let p := Packet.ofWords w.1 w.2
    let s1 := withPacket s q w
    let who := qWho (s1.hq q)
    let goes (t : State) : Prop := Taken s t q ∧ (t.hq q).st = .run ∧ OnlyQueue s t q
    let blocks (wt : QWait) (t : State) : Prop := (t.hq q).st = .blocked ∧ (t.hq q).wait = some wt ∧
      (t.hq q).head = h.head ∧ (t.hq q).levels = h.levels ∧ OnlyQueue s t q
    (PacketTurn s q w i → packetRuns h p = true →
      (∀ ls leaf, i = .waitThreshold q → access s1 who .watch p.addr 8 = .ok (ls, leaf) →
        (p.aux.toNat ≤ readLocs s1 ls → Gives (exec i s) goes) ∧
        (readLocs s1 ls < p.aux.toNat → Gives (exec i s) (blocks (.threshold p.addr p.aux.toNat)))) ∧
      (i = .waitQueue q → (h.live = [] → Gives (exec i s) goes) ∧ (h.live ≠ [] → Gives (exec i s) (blocks .earlier))) ∧
      (i = .waitHandle q → (handleOver s h p.addr = true → Gives (exec i s) goes) ∧
        (handleOver s h p.addr = false → Gives (exec i s) (blocks (.entity p.addr))))) ∧
    (q < 32 → h.st = .blocked → h.en = true →
      (∀ a v ls leaf, h.wait = some (.threshold a v) → access s (qWho h) .watch a 8 = .ok (ls, leaf) →
        ∀ j ∈ [Instr.waitRelease q, .waitReRead q],
          (v ≤ readLocs s ls → Gives (exec j s) (fun t => goes t ∧ (t.hq q).wait = none)) ∧
          (readLocs s ls < v → exec j s = .next s)) ∧
      (h.wait = some .earlier →
        (h.live = [] → (heldPacket h).type ≠ 0x0C → Gives (exec (.waitRelease q) s) (fun t =>
          goes t ∧ (t.hq q).wait = none)) ∧
        (h.live ≠ [] → exec (.waitRelease q) s = .next s)) ∧
      (∀ a, h.wait = some (.entity a) →
        (handleOver s h a = true → Gives (exec (.waitRelease q) s) (fun t => goes t ∧ (t.hq q).wait = none)) ∧
        (handleOver s h a = false → exec (.waitRelease q) s = .next s)))

/- The mailbox -/

/-- R194, R201, R218, R233, R248, R254, R381: the owner's commands. Each acts when it is given and leaves its result
in the mailbox; arguments outside their limits change nothing and end with the status for them, and so does an operand
in host memory that meets a link error; the record of a rejected launch is empty; a FAT entry with V = 1 is stored if it
keeps R194's layout, with STATUS 3 if not. When a command acts, FAULTREC's handle and the firmware that a command needs are
the model's choices (log entries 30 to 32), and so are JOB_OPEN's limits (log entry 62), IMAGES of a context without a job
(63), FAT_SET's storing an entry with V = 0 as it stands (64) and STATUS 2 of FW_STAGE (65). -/
def Obligations.OwnerCommands : Prop :=
  ∀ (s : State) (m : W16) (a b c d : W64), MayCommand s m →
    let link := busOf m
    let ends (st : W32) (t : State) : Prop := t.mbox.result = some st ∧ t.mbox.status = 0
    let bad (i : Instr) : Prop := Gives (exec i s) (fun t => ends 3 t ∧ t = { s with mbox := t.mbox })
    let broken (x : W64) (n : Nat) : Prop := ∃ i < n, hostError s link (x.toNat + i) = true
    let memory (t : State) (key : Nat) (bs : List Nat) : Prop :=
      (∀ i < bs.length, bs[i]?.map (BitVec.ofNat 8) = some (memByte t (key + i))) ∧
      ∀ k, k < key ∨ key + bs.length ≤ k → memByte t k = memByte s k
    (∀ tvec sscr sa sl, let i : Instr := .jobOpen m a b c d tvec sscr sa sl
      let ok := a.toNat < 65536 ∧ b.toNat < 12 ∧ c.toNat % 65536 = 0 ∧ c.toNat + 65536 ≤ dieBytes ∧ d.toNat < 2 ∧
        tvec.toNat % 8 = 0 ∧ sa.toNat + sl.toNat ≤ globalSize ∧ s.job? (a.setWidth 16) = none
      (¬ ok → bad i) ∧
      (ok → Gives (exec i s) (fun t => ends 1 t ∧ SameMem s t ∧
        (∃ j, t.job? (a.setWidth 16) = some j ∧ j.ent = s.nextId ∧ j.rootDie = b.toNat ∧ j.rootAddr = c.toNat ∧
          j.pfh = decide (d = 1) ∧ j.tvec = tvec ∧ j.sscr = sscr ∧ j.saveAddr = sa.toNat ∧ j.saveLen = sl.toNat) ∧
        ∃ e, t.ent? s.nextId = some e ∧ e.level = .job ∧ e.parent = none ∧ e.complete = false))) ∧
    (a.toNat < 65536 →
      (s.job? (a.setWidth 16) = none → bad (.jobClose m a)) ∧
      (∀ j e, s.job? (a.setWidth 16) = some j → s.ent? j.ent = some e → e.level = .job → beneath s j.ent = [j.ent] →
        Gives (exec (.jobClose m a) s) (fun t => t.mbox.status = 0 ∧ t.mbox.closing = some (a.setWidth 16) ∧
          t.job? (a.setWidth 16) = some { j with closing := true } ∧
          ∃ x, t.ent? j.ent = some x ∧ x.cancelled = true ∧ statusCode x.status = 0x26))) ∧
    (let bs := hostBytes s link b.toNat 32
      let i : Instr := .fatSet m a b
      (4096 ≤ a.toNat ∨ broken b 32 → bad i) ∧
      let rights := fld bs 0x16 1
      let sp := rights / 16 % 2 = 1
      let legal := rights < 128 ∨ rights / 32 % 4 = 0 ∧ zeroFrom bs 0x17 9 = true ∧
        (sp → fld bs 0 8 < 192 ∧ fld bs 8 8 = 0) ∧ (¬ sp → fld bs 0 8 % 65536 = 0 ∧ fld bs 8 8 % 65536 = 0)
      (a.toNat < 4096 → ¬ legal → ¬ broken b 32 → bad i) ∧
      (a.toNat < 4096 → legal → ¬ broken b 32 → Gives (exec i s) (fun t => ends 1 t ∧
        Store.get FatEnt.reset t.fab.fat a.toNat = ⟨u64 (fld bs 0 8), u64 (fld bs 8 8), fld bs 0x10 2,
          BitVec.ofNat 16 (fld bs 0x12 2), BitVec.ofNat 16 (fld bs 0x14 2), BitVec.ofNat 8 (fld bs 0x16 1)⟩))) ∧
    (let n := d.toNat
      let ms := (List.range n).map (fun i => fld (hostBytes s link c.toNat (2 * n)) (2 * i) 2)
      let ok := a.toNat < 4096 ∧ b.toNat < 2 ^ 32 ∧ 2 ≤ n ∧ n ≤ 64 ∧ ∀ x ∈ ms, x < 4096
      (¬ ok ∨ broken c (2 * n) → bad (.groupSet m a b c d)) ∧
      (ok → ¬ broken c (2 * n) → Gives (exec (.groupSet m a b c d) s) (fun t => ends 1 t ∧
        Tab.get? t.fab.groups a.toNat = some ⟨b.setWidth 32, ms⟩))) ∧
    (a = 0 ∨ 64 ≤ a.toNat ∨ broken b 64 → bad (.keyLoad m a b)) ∧
    (a ≠ 0 → a.toNat < 64 → ¬ broken b 64 → Gives (exec (.keyLoad m a b) s) (fun t => ends 1 t ∧
      Store.get 0 t.keys a.toNat = BitVec.ofNat 512 (fld (hostBytes s link b.toNat 64) 0 64) ∧
      t = { s with mbox := t.mbox, keys := t.keys })) ∧
    (recordOf s a = none → bad (.faultrec m a b)) ∧
    (∀ r, recordOf s a = some r →
      (¬ broken b 64 → Gives (exec (.faultrec m a b) s) (fun t => ends 1 t ∧
        memory t (hostKey link b.toNat) (recordBytes a r))) ∧
      (broken b 64 → Gives (exec (.faultrec m a b) s) (fun t => ends 3 t))) ∧
    ((∀ e ∈ s.launches, (s.ent? e.1).map (·.handle) ≠ some a) → (∃ e ∈ s.rejects, e.2 = a) →
      recordOf s a = some none) ∧
    (let ds := s.detached.filter (fun x => x.job == a.setWidth 16);
      a.toNat < 65536 → ¬ broken b (32 * (ds.take c.toNat).length) → Gives (exec (.images m a b c) s) (fun t =>
      ends 1 t ∧ Store.get 0 t.mbox.ops 0 = u64 ds.length ∧
      memory t (hostKey link b.toNat) ((ds.take c.toNat).flatMap imageEntry))) ∧
    (let mine (x : Detached) : Prop := x.job.toNat = a.toNat ∧ x.image.addr = b.toNat;
      ((∀ x ∈ s.detached, ¬ mine x) → bad (.imageFree m a b)) ∧
      ((∃ x ∈ s.detached, mine x) → Gives (exec (.imageFree m a b) s) (fun t => ends 1 t ∧
        (∀ x ∈ t.detached, x ∈ s.detached ∧ ¬ mine x) ∧ ∀ x ∈ s.detached, ¬ mine x → x ∈ t.detached))) ∧
    (let img := (hostBytes s link a.toNat b.toNat).map (BitVec.ofNat 8);
      (broken a b.toNat → bad (.fwStage m a b)) ∧
      (¬ broken a b.toNat → Gives (exec (.fwStage m a b) s) (fun t => if verified s.boot img then
        ends 1 t ∧ t.boot = { s.boot with staged := some (sha256 img) }
        else ends 2 t ∧ t.boot = s.boot))) ∧
    (∀ x, s.boot.staged = some x → Gives (exec (.fwCommit m) s) (fun t => ends 1 t ∧
      t.boot = { s.boot with running := some x, layer1 := Config.aliasKey x, staged := none } ∧ t.units = s.units ∧
      t.cur = s.cur ∧ t.queues = s.queues)) ∧
    Gives (exec (.fwAbort m) s) (fun t => ends 1 t ∧ t.boot = { s.boot with staged := none }) ∧
    (s.mbox.status ≠ 0 → m ≠ mgmt → ∀ i ∈ [Instr.heatSet m a b, .partition m a, .forceRelease m, .recover m, .dieReset m a],
      Gives (exec i s) (fun t => ends 2 t ∧ t = { s with mbox := t.mbox }))

/-- R12, R14, R75, R192, R248, R249, R250, R251, R252: the commands of the management interface; SCRUB and RECOVER
reset the module, and after a SCRUB the ROM scrubs before it starts an image. A doorbell while a command runs is refused
and counted. MAILBOX_COMMAND_DONE shows the result. That a command acts at its doorbell is the model's choice (log entry
30), and so is that device memory reads as 0 after such a reset (log entry 68). -/
def Obligations.ManagementCommands : Prop :=
  ∀ (s : State) (a b : W64) (x : BitVec 256), MayManage s →
    let m : W16 := 0x8000
    let ends (st : W32) (t : State) : Prop := t.mbox.result = some st ∧ t.mbox.status = 0
    let bad (i : Instr) : Prop := Gives (exec i s) (fun t => ends 3 t ∧ t = { s with mbox := t.mbox })
    let fresh (t : State) : Prop := t.units = [] ∧ t.jobs = [] ∧ t.own = Owner.reset ∧ t.fab.portsUp = false ∧
      t.mbox = Mailbox.reset ∧ t.keys = [] ∧ ∀ k < 2 ^ 64, memByte t k = memDefault
    (12 ≤ a.toNat ∨ 32 < b.toNat → bad (.heatSet m a b)) ∧
    (a.toNat < 12 → b.toNat ≤ 32 → Gives (exec (.heatSet m a b) s) (fun t => ends 1 t ∧
      (t.die a.toNat).heat = b.toNat ∧ ∀ d, d ≠ a.toNat → t.die d = s.die d)) ∧
    Gives (exec (.partition m a) s) (fun t => ends 1 t ∧ t.fab = { s.fab with partition := a.toNat }) ∧
    Gives (exec (.forceRelease m) s) (fun t => ends 1 t ∧ t.own = { s.own with owner := 0xFFFF, pending := none }) ∧
    Gives (exec (.opkey m x) s) (fun t => ends 1 t ∧ t.boot = { s.boot with opkey := x }) ∧
    Gives (exec (.scrub m x) s) (fun t => fresh t ∧ t.boot.scrub = some x ∧ t.boot.running = none ∧
      (∃ us, us ≤ 50000 ∧ t.boot.scrubAt = some (s.now, us)) ∧ t.boot.opkey = s.boot.opkey) ∧
    Gives (exec (.recover m) s) (fun t => fresh t ∧ t.boot.opkey = s.boot.opkey ∧
      (t.boot.recover = true → t.boot.running = none)) ∧
    ((∀ r ∈ s.hostBad, r.1 ≠ 0) → Gives (exec (.counters m a 0xFFFFFFFF) s) (fun t => ends 1 t ∧
      (∀ i < (counterBytes s.errs).length, (counterBytes s.errs)[i]?.map (BitVec.ofNat 8) =
        some (memByte t (hostKey 0 a.toNat + i))) ∧
      ∀ k, k < hostKey 0 a.toNat ∨ hostKey 0 a.toNat + (counterBytes s.errs).length ≤ k → memByte t k = memByte s k)) ∧
    (12 ≤ a.toNat → bad (.dieReset m a)) ∧
    (a.toNat < 12 → Gives (exec (.dieReset m a) s) (fun t => ends 1 t ∧
      ((t.die a.toNat).resetAt.isSome = true ∨ (t.die a.toNat).stopAt.isSome = true))) ∧
    (∀ n : W16, isMaster s n = true → s.own.owner ≠ n → n ≠ m →
      exec (.fwAbort n) s = .next { s with own := { s.own with refused := s.own.refused + 1 } }) ∧
    ∀ r, let t : State := { s with mbox := { s.mbox with status := 0, result := some r } }
      exec .mailboxCommandDone t = .next { s with mbox := { s.mbox with status := r, result := none, closing := none } } ∧
      exec (.forceRelease m) t = .next { t with own := { s.own with refused := s.own.refused + 1 } } ∧
      exec .mailboxCommandDone s = .next s ∧
      (isMaster s 0 = true → s.own.owner ≠ 0 → ∀ v,
        exec (.registerWrite 0 0x848 v) s = .next { s with own := { s.own with refused := s.own.refused + 1 } })

/- Resets, boot, attestation -/

/-- R5, R12, R13, R14, R205, R208, R250, R251, R253, R254: a module reset returns all storage to its reset state, keeps the hosts'
memory and the operator key and takes the ports down; POWER_LOSS clears the latches too and POWER_UP boots; a die that
is reset has a new incarnation, empty scratchpads and banks, and keeps its DRAM, until DIE_RESET_COMPLETE, with FTIME and CYCLE 0 there (that CYCLE starts so is the model's choice, log entry 98); its
watchdog resets it where it hangs (what it watches is the model's choice, 97); a unit on it ends
without an image, its launch is failed with STALE and places no unit any more, and a command elsewhere with a party on it
completes with STALE; a waiting ROM starts a verified image; the end of a scrub clears the latch and leaves its record,
with the nonce; a quote samples what runs. That DRAM reads as 0 after a module's reset is the model's choice (log entry 68), and
so is that a die's reset keeps it (67), when its units' commands stop (88) and that a module's reset closes every link's
window (99). -/
def Obligations.ResetsAndBoot : Prop :=
  ∀ (s : State) (die : Nat) (img : List Byte) (m : W16),
    let fresh (t : State) : Prop := t.units = [] ∧ t.ents = [] ∧ t.launches = [] ∧ t.jobs = [] ∧ t.queues = [] ∧
      t.own = Owner.reset ∧ t.mbox = Mailbox.reset ∧ t.errs = Errs.reset ∧ t.keys = [] ∧ t.accs = [] ∧
      t.cur.phase = .absent ∧ t.others = [] ∧ t.fab = { Fabric.reset with portsAt := s.now } ∧
      (∀ d, (t.die d).inc = 0 ∧ (t.die d).resetAt = none ∧ (t.die d).stopAt = none ∧ (t.link d 15) = Link.reset) ∧
      t.boot.opkey = s.boot.opkey ∧ t.boot.staged = none ∧
      (∀ k < 2 ^ 64, memByte t k = memDefault) ∧ ∀ k, 2 ^ 64 ≤ k → memByte t k = memByte s k
    (s.boot.powered = true → Gives (exec .moduleReset s) (fun t => fresh t ∧ t.boot.powered = true)) ∧
    Gives (exec .powerLoss s) (fun t => fresh t ∧ t.boot.powered = false ∧ t.boot.running = none ∧
      t.boot.scrub = none ∧ t.boot.recover = false) ∧
    Gives (exec .powerUp s) (fun t => fresh t ∧ t.boot.powered = true ∧ t.boot.recover = false) ∧
    (dieHung s die = true → exec (.hangWatchdog die) s = exec (.fatalInternalError die) s) ∧
    (dieHung s die = false → exec (.hangWatchdog die) s = .next s) ∧
    (s.boot.powered = true → die < 12 → s.dieOpen die = true → (∀ u ∈ s.units, u.2.seq / 16 ≠ die) →
      s.fab.cmds = [] → (∀ e ∈ s.ents, Store.get 0 e.2.lent s.pkg = 0) →
      Gives (exec (.fatalInternalError die) s) (fun t =>
        t.ftime die = 0 ∧ (∀ d, d ≠ die → t.ftime d = s.ftime d) ∧ t.cycle die = 0 ∧
        (t.die die).inc = ((s.die die).inc + 1) % 256 ∧ (t.die die).resetAt = some s.now ∧ (t.die die).tpc = 32 ∧
        t.errs.resets = satInc s.errs.resets ∧ (∀ d, d ≠ die → t.die d = s.die d) ∧
        (∀ p < 16, ∀ a < 2 ^ 24, memByte t (spKey (16 * die + p) a) = memDefault) ∧
        (∀ a < 2 ^ 38, memByte t (dramKey die a) = memByte s (dramKey die a)) ∧
        (∀ p < 16, ∀ n < 2 ^ 20, Store.get 0 t.accs ((16 * die + p) * 2 ^ 20 + n) = 0))) ∧
    (s.boot.powered = true → die < 12 → s.dieOpen die = true →
      let i : Instr := .fatalInternalError die
      (∀ uid u l, s.units = [(uid, u)] → u.seq / 16 = die → u.phase = .running → u.killed = false →
        s.launches = [(u.lid, l)] → l.slice = none → l.done < l.next → l.next ≤ l.lpb.nunits → s.chains = [] → s.pend = [] →
        s.joins = [] → s.fab.cmds = [] → (∀ e ∈ s.ents, Store.get 0 e.2.lent s.pkg = 0) → (∀ e ∈ s.frags, e.2.q = []) → (∀ c ∈ s.cur :: s.others, c.wc = [] ∧ c.vec = none) →
        Gives (exec i s) (fun t => (t.die die).resetAt = some s.now ∧
          (∃ v, t.unit? uid = some v ∧ v.phase = .exited ∧ v.killed = true ∧ v.cids = [] ∧ v.image = none) ∧
          (∀ d ∈ t.others, d.cid ∉ u.cids) ∧ (t.cur.phase ≠ .absent → t.cur.cid ∉ u.cids) ∧
          ∃ m, t.launch? u.lid = some m ∧ m.failed = some (l.failed.getD (statusWord 0x25 0)) ∧ m.next = l.lpb.nunits ∧
            m.done = l.done + (l.lpb.nunits - l.next))) ∧
      (∀ c p home k, s.units = [] → s.fab.cmds = [c] → c.order = none → c.owner = none → c.peers = [p] → p.pkg = s.pkg →
        p.die = some die → c.nak = none → Orderly s → fabHome s c.id = some (home, k) → k.id = c.id → c.id ≠ 0 →
        home / 16 ≠ die → (∀ e ∈ s.ents, Store.get 0 e.2.lent s.pkg = 0) →
        Gives (exec i s) (fun t => t.fab.cmds = [] ∧ ∃ n, Completed s t c.id ⟨statusWord 0x25 n, k.pc, k.word⟩))) ∧
    (∀ n, (s.die die).resetAt = some n → Gives (exec (.dieResetComplete die) s) (fun t =>
      t = { s with dies := t.dies } ∧ t.die die = { s.die die with resetAt := none } ∧ ∀ d, d ≠ die → t.die d = s.die d)) ∧
    (s.dieOpen die = true → exec (.dieResetComplete die) s = .next s) ∧
    (s.boot.powered = true → s.boot.running = none → s.boot.scrubAt = none →
      (verified s.boot img = true → Gives (exec (.mgmtImageReceived img) s) (fun t =>
        t = { s with boot := t.boot } ∧ t.boot.running = some (sha256 img))) ∧
      (verified s.boot img = false → exec (.mgmtImageReceived img) s = .next s)) ∧
    (∀ b us nonce, s.boot.scrubAt = some (b, us) → s.boot.scrub = some nonce →
      let t := finishScrub s
      t = { s with boot := t.boot, free := t.free } ∧ t.boot.scrub = none ∧ t.boot.scrubAt = none ∧
        t.boot.record.length = 160 ∧
        ∀ i < 32, t.boot.record[16 + i]? = some (nonce.extractLsb' (8 * i) 8)) ∧
    (∀ r, s.boot.running = some r → isMaster s m = true → Gives (exec (.attestationQuote m) s) (fun t =>
      t = { s with boot := { s.boot with quote := t.boot.quote } } ∧ ∃ q, t.boot.quote = some q ∧ q.running = r ∧
        q.staged = s.boot.staged ∧ q.opkey = s.boot.opkey))

/- Traps that no handler takes -/

/-- R50, R213, R217: SYS with SM = 1 or TVEC = 0 is fatal: its unit stops without an image, its launch is failed with the
trap's cause and places no unit any more, and the launch's first fatal trap stands in its fault record. -/
def Claims.FatalTraps : Prop :=
  ∀ (s : State) (gd : Guard) (code : BitVec 28) (u : UnitRec) (l : Launch), Issues s gd →
    s.cur.sm = true ∨ s.cur.tvec = 0 → s.unit? s.cur.uid = some u → s.cur.cid ∈ u.cids →
    s.launch? s.cur.lid = some l →
    Gives (exec (.sys gd code) s) (fun t => t.cur.phase = .stopped ∧ t.cur.g = s.cur.g ∧
      (∃ v, t.unit? s.cur.uid = some v ∧ v.phase = .quiescing ∧ v.killed = true) ∧
      ∃ m, t.launch? s.cur.lid = some m ∧ m.failed = some (l.failed.getD (statusWord 0x0D 0)) ∧ m.next = l.lpb.nunits ∧
        (∀ r, l.frec = some r → m.frec = some r) ∧
        (l.frec = none → ∃ r, m.frec = some r ∧ r.cause = 0x0D ∧ r.tpc = s.cur.pc ∧ r.tword = wordOf (.sys gd code) ∧
          r.tdata = code.zeroExtend 64 ∧ r.sm = s.cur.sm ∧ r.lhandle = s.cur.lhandle ∧ r.unit = s.cur.unit ∧
          r.compid = s.cur.compid))

/- The whole machine -/

/-- R258: an instruction word whose guard is false does nothing but go on to PC + 8, whichever instruction it is. -/
def Obligations.FalseGuardOnlyMovesOn : Prop :=
  ∀ (s : State) (i : Instr) (w : W64), encode i = some w → s.cur.phase = .running → s.cur.halted = false →
    s.cur.pfault = none → guardTrue s.cur (fGuard w) = false → Gives (exec i s) (fun t => PcStep s t (s.cur.pc + 8))

/-- R213, R216, R219: no instruction word in user mode changes a trap or supervisor register or SM, unless it traps; then
TPC holds its PC and control is at TVEC, which stands, as SSCR, CTXID and the page-fault setting do. -/
def Obligations.UserModeKeepsSupervisorState : Prop :=
  ∀ (s t : State) (i : Instr), i.isWord = true → exec i s = .next t → s.cur.sm = false → t.cur.cid = s.cur.cid →
    t.cur.phase ≠ .absent →
    t.cur.tvec = s.cur.tvec ∧ t.cur.sscr = s.cur.sscr ∧ t.cur.ctxid = s.cur.ctxid ∧ t.cur.pfh = s.cur.pfh ∧
    (t.cur.sm = false → t.cur.tcause = s.cur.tcause ∧ t.cur.tpc = s.cur.tpc ∧ t.cur.tword = s.cur.tword ∧
      t.cur.taddr = s.cur.taddr ∧ t.cur.tdata = s.cur.tdata) ∧
    (t.cur.sm = true → t.cur.tpc = s.cur.pc ∧ t.cur.pc = s.cur.tvec)

/-- R80, R256, R257, R261: where nothing is scheduled, a step of a running context lets one cycle of its die pass and
executes the instruction that the word at its PC decodes to, read from its instruction cache, or from memory into it;
a word that does not decode traps with ILLEGAL. Then it issues again no sooner than in the next cycle. A scheduled event executes that event after its ticks. While time
passes, what is due happens (R382); where nothing is due, only the time changes. The schedule and the unit of time are
the model's choices (log entries 1, 2, 87). -/
def Obligations.StepRunsTheDecodedInstruction : Prop :=
  ∀ (s : State),
    (∀ n, s.dueBy n [] = none → s.now / 144000 = n / 144000 → s.recs = [] → s.late = [] → (∀ e ∈ s.queues, e.2.coalAt = none) →
      s.elapse n = { s with now := n }) ∧
    (s.turns = [] → s.cur.phase = .running →
      let s0 : State := s.elapse (s.now + (s.die (s.cur.seq / 16)).tpc)
      let c := s0.cur
      let s2 : State := s0.cycled
      let line := c.pc.toNat / 64
      let runs (w : W64) (s1 : State) : Prop :=
        (∀ i, decode w = .ok i → step s = exec i s1) ∧
        (∀ e, decode w = .error e → HandlerReady s0 → Gives (step s) (fun t => TrapStep s1 t w 0x01 0 0))
      c.phase = .running → c.halted = false → c.pfault = none → c.vec = none → c.pc.toNat % 8 = 0 →
      (s0.now < c.notBefore → step s = .next s0) ∧
      (c.notBefore ≤ s0.now →
      s2 = { s0 with cur := { c with notBefore := s0.now + (s0.die (c.seq / 16)).tpc, barAt := s2.cur.barAt } } ∧
      (∀ ws, Tab.get? c.icache line = some ws → runs ((ws[c.pc.toNat / 8 % 8]?).getD 0) s2) ∧
      (∀ ls leaf key, Tab.get? c.icache line = none →
        access s2 c.who .fetch (u64 (64 * line)) 64 = .ok (ls, leaf) → Plain ls key 64 →
        ∃ s1, s1.cur = { s2.cur with icache := s1.cur.icache } ∧ s1 = { s2 with cur := s1.cur, free := s1.free } ∧
          runs (u64 (memNat s0 (key + c.pc.toNat % 64) 8)) s1))) ∧
    ∀ d i ts, s.turns = ⟨d, .event i⟩ :: ts → i.isWord = false →
      step s = exec i (({ s with turns := ts } : State).elapse (s.now + d))

/-- No step stops: from every state the machine goes on to a next state, whatever is scheduled and whatever stands in
memory; that an event whose conditions fail leaves the state is the model's own form (log entries 1 and 3). -/
def Obligations.EveryStepGoesOn : Prop := ∀ s : State, SafeStep s

/-- Every step keeps memory in its canonical form: addresses strictly rising, nothing listed that an unlisted address
reads as (the model's own invariant, log entry 4). -/
def Obligations.StepsKeepMemoryCanonical : Prop :=
  ∀ s t : State, MemInv s → step s = .next t → MemInv t

/-- R12, R13, R65, R75, R205, R208, R237, R239, R248, R249: right after a module reset no context runs, memory is in
canonical form, scratchpads and banks read 0, incarnations and error counters are 0, every heat allowance is 32, FTIME
is not valid and 0, the ports are down, ownership is vacant, every queue is idle and disabled, the mailbox is not busy and
no key is loaded. -/
def Obligations.ResetState : Prop :=
  let s := State.reset
  MemInv s ∧ s.cur.phase = .absent ∧ s.others = [] ∧ s.units = [] ∧ s.jobs = [] ∧
  (∀ p a, memByte s (spKey p a) = 0) ∧ (∀ w, Store.get 0 s.accs w = 0) ∧
  (∀ d, (s.die d).inc = 0 ∧ (s.die d).resetAt = none ∧ (s.die d).stopAt = none ∧ (s.die d).tpc = 32 ∧ (s.die d).heat = 32) ∧ s.errs = ⟨0, 0, 0, 0, 0, 0, 0, 0, 0, [], 0⟩ ∧
  (∀ d, s.ftime d = 0) ∧ s.fab.portsUp = false ∧ s.own.owner = 0xFFFF ∧ s.own.pending = none ∧
  (∀ q, (s.hq q).st = .idle ∧ (s.hq q).en = false ∧ (s.hq q).head = 0 ∧ (s.hq q).recidx = 0) ∧
  s.mbox.status = 1 ∧ (∀ k, Store.get 0 s.keys k = 0) ∧ s.lastq = 31

/-- R259, R260, R261, R262: decoding is right inverse to encoding on every well-formed instruction word, with every
operand at every value, and accepts no other word. -/
def Obligations.DecodeAndEncodeAgree : Prop :=
  (∀ i : Instr, i.isWord = true → i.wf = true → ∃ w, encode i = some w ∧ decode w = .ok i) ∧
  ∀ (w : W64) (i : Instr), decode w = .ok i → encode i = some w ∧ i.wf = true ∧ i.isWord = true

/-- R259, R262, R263, R264: words written out field by field decode to the instructions they stand for; a zeroed word, a
reserved rounding mode, a reserved tag, a hint of 12 and k0 as output are refused. -/
def Obligations.WordsDecodeAsListed : Prop :=
  (∀ e ∈ ([
    (0x08#8 ++ 0#3 ++ 0#1 ++ 3#6 ++ 4#6 ++ 5#6 ++ 0#6 ++ 0x01#8 ++ 0#4 ++ 0#3 ++ 0#1 ++ 0#4 ++ 0#8, .sub ⟨0, false⟩ 3 4 5),
    (0x09#8 ++ 2#3 ++ 1#1 ++ 3#6 ++ 4#6 ++ 0x00#8 ++ 0xFFFFFFFF#32, .addi ⟨2, true⟩ 3 4 0xFFFFFFFF),
    (0x10#8 ++ 0#3 ++ 0#1 ++ 0#6 ++ 0#6 ++ 0#8 ++ 0xFFFFFFFE#32, .br ⟨0, false⟩ 0xFFFFFFFE),
    (0x20#8 ++ 0#3 ++ 0#1 ++ 7#6 ++ 8#6 ++ 0#1 ++ 1#1 ++ 2#2 ++ 15#4 ++ 16#32, .ld ⟨0, false⟩ 7 8 2 true 15 16),
    (0x28#8 ++ 0#3 ++ 0#1 ++ 1#6 ++ 2#6 ++ 3#6 ++ 4#6 ++ 9#8 ++ 0#4 ++ 0#3 ++ 0#1 ++ 1#4 ++ 0#8,
      .amo ⟨0, false⟩ 1 2 3 4 .badd true),
    (0x30#8 ++ 0#3 ++ 0#1 ++ 1#6 ++ 2#6 ++ 3#6 ++ 4#6 ++ 0x03#8 ++ 2#4 ++ 7#3 ++ 1#1 ++ 0xD#4 ++ 0#8,
      .vfma ⟨0, false⟩ 1 2 3 4 .fp32 .dyn true (some 5)),
    (0x40#8 ++ 0#3 ++ 0#1 ++ 1#5 ++ 2#5 ++ 3#5 ++ 4#5 ++ 5#6 ++ 6#6 ++ 0x02#8 ++ 0x006#12,
      .mma ⟨0, false⟩ 1 2 3 4 5 6 false true true false false),
    (0x48#8 ++ 0#3 ++ 0#1 ++ 1#5 ++ 0#5 ++ 0#5 ++ 0#5 ++ 5#6 ++ 6#6 ++ 0x03#8 ++ 0x002#12,
      .xsend ⟨0, false⟩ 1 0 0 0 5 6 true none),
    (0x50#8 ++ 0#3 ++ 0#1 ++ 0#6 ++ 0#6 ++ 0#7 ++ 2#3 ++ 1#2 ++ 0#24 ++ 9#4, .bar ⟨0, false⟩ .arrive .gang 9),
    (0x5A#8 ++ 0#3 ++ 0#1 ++ 0#6 ++ 4#6 ++ 0x105#12 ++ 0#28, .mtc ⟨0, false⟩ 4 0x105)] : List (W64 × Instr)),
    decode e.1 = .ok e.2) ∧
  ∀ w ∈ ([0,
    0x30#8 ++ 0#3 ++ 0#1 ++ 1#6 ++ 2#6 ++ 3#6 ++ 0#6 ++ 0x00#8 ++ 2#4 ++ 5#3 ++ 0#1 ++ 0#4 ++ 0#8,
    0x22#8 ++ 0#3 ++ 0#1 ++ 1#6 ++ 2#6 ++ 0xB#4 ++ 15#4 ++ 0#32,
    0x20#8 ++ 0#3 ++ 0#1 ++ 1#6 ++ 2#6 ++ 0#4 ++ 12#4 ++ 0#32,
    0x40#8 ++ 0#3 ++ 0#1 ++ 0#5 ++ 2#5 ++ 3#5 ++ 4#5 ++ 5#6 ++ 6#6 ++ 0x00#8 ++ 0#12] : List W64),
    ∀ i, decode w ≠ .ok i

/- Statements of several parts -/

/-- R159, R294, R296, R327, R330: bit counts and division. -/
def Obligations.BitCountsAndDivision : Prop :=
  Claims.BitCounts ∧ Claims.Division

/-- R50, R213 to R217, R219, R257, R299, R329, R336, R339: traps of jumps, SYS, TRAPF and privileged words, fatal ones, and ERET. -/
def Obligations.TrapsAndReturns : Prop :=
  Claims.JumpAlignment ∧ Claims.SoftwareTraps ∧ Claims.EretReturns ∧ Claims.PrivilegeTraps ∧ Claims.FatalTraps

/-- R84, R215, R219, R319: MTC. -/
def Obligations.ControlRegisterWrites : Prop :=
  Claims.ListedWrites ∧ Claims.ArrayModeWrite

/-- LD, ST, AMO and CAS of checked locations. -/
def Obligations.ScalarMemory : Prop :=
  Claims.ScalarLoads ∧ Claims.ScalarStores ∧ Claims.Atomics

/-- Faults of accesses: the precise trap, or page service first. -/
def Obligations.AccessFaults : Prop :=
  Claims.AccessTraps ∧ Claims.PageService ∧ Claims.PageServiceCompletes

/-- Where an address lies: the page walk, the scratchpad window. -/
def Obligations.AddressTranslation : Prop :=
  Claims.PageWalk ∧ Claims.ScratchpadWindow

/-- LDV, STV, VLDX and VSTX. -/
def Obligations.VectorMemory : Prop :=
  Claims.VectorRecords ∧ Claims.VectorIndexed ∧ Claims.VectorMemoryCompletes ∧ Claims.VectorElementsInOrder

/-- The floating-point lane operations, functions and conversions. -/
def Obligations.VectorFloatingPoint : Prop :=
  Claims.VectorFloat ∧ Claims.VectorFunctions

/-- What is exact, and what rounding keeps. -/
def Obligations.ArithmeticExactAndRounded : Prop :=
  Claims.ExactSumsAndProducts ∧ Claims.RoundingIsNearest ∧ Claims.RepresentableUnchanged ∧ Claims.ConversionNearest ∧
  Claims.ReciprocalBounds ∧ Claims.ExponentialBounds

/-- Engine commands and LAUNCH at issue. -/
def Obligations.EngineCommandsIssue : Prop :=
  Claims.EngineQueues ∧ Claims.LaunchIssue

/-- The array lease; barriers of companion, launch and gang scope. -/
def Obligations.LeasesAndBarriers : Prop :=
  Claims.LeaseInstructions ∧ Claims.Barriers ∧ Claims.GangBarriers

/-- FSPLIT and FFUSE. -/
def Obligations.SplitsAndFuses : Prop :=
  Claims.SplitStartsCompanion ∧ Claims.FuseJoinsHalves

/-- EXIT and YIELD. -/
def Obligations.EndsAndYields : Prop :=
  Claims.ExitEndsUnit ∧ Claims.YieldPoints

/-- LAUNCH_ACCEPT and GRAPH_NODE_SPAWN. -/
def Obligations.LaunchesAndGraphs : Prop :=
  Claims.LaunchAcceptance ∧ Claims.GraphNodes

/-- SELECTION and PRIORITY_AGEING_STEP. -/
def Obligations.SelectionAndAgeing : Prop :=
  Claims.SelectionPlaces ∧ Claims.PlacementOrder ∧ Claims.PriorityAgeing
end

