-- ==== Sys2Proof/Laws/Dispatch.lean ====
section
/-! SUPPORT. The meaning that exec calls for each instruction. -/
namespace Sys2Proof.Machine

@[simp] theorem exec_aclr (gd : Guard) (ko : KNum) (ka : KNum) (kb : KNum) (kc : KNum) (gb : GReg) (bg : Bool) (s : State) :
    exec (.aclr gd ko ka kb kc gb bg) s = execAclr gd ko ka kb kc gb bg s := rfl
@[simp] theorem exec_add (gd : Guard) (d : GReg) (a : GReg) (b : GReg) (s : State) :
    exec (.add gd d a b) s = execAdd gd d a b s := rfl
@[simp] theorem exec_and (gd : Guard) (d : GReg) (a : GReg) (b : GReg) (s : State) :
    exec (.and gd d a b) s = execAnd gd d a b s := rfl
@[simp] theorem exec_andn (gd : Guard) (d : GReg) (a : GReg) (b : GReg) (s : State) :
    exec (.andn gd d a b) s = execAndn gd d a b s := rfl
@[simp] theorem exec_addi (gd : Guard) (d : GReg) (a : GReg) (imm : W32) (s : State) :
    exec (.addi gd d a imm) s = execAddi gd d a imm s := rfl
@[simp] theorem exec_andi (gd : Guard) (d : GReg) (a : GReg) (imm : W32) (s : State) :
    exec (.andi gd d a imm) s = execAndi gd d a imm s := rfl
@[simp] theorem exec_adrain (gd : Guard) (ko : KNum) (ka : KNum) (kb : KNum) (kc : KNum) (ga : GReg) (gb : GReg) (bg : Bool) (s : State) :
    exec (.adrain gd ko ka kb kc ga gb bg) s = execAdrain gd ko ka kb kc ga gb bg s := rfl
@[simp] theorem exec_amo (gd : Guard) (d : GReg) (a : GReg) (b : GReg) (c : GReg) (op : AmoOp) (wide : Bool) (s : State) :
    exec (.amo gd d a b c op wide) s = execAmo gd d a b c op wide s := rfl
@[simp] theorem exec_aq (gd : Guard) (s : State) :
    exec (.aq gd) s = execAq gd s := rfl
@[simp] theorem exec_arel (gd : Guard) (s : State) :
    exec (.arel gd) s = execArel gd s := rfl
@[simp] theorem exec_arrive (gd : Guard) (ko : KNum) (ka : KNum) (kb : KNum) (kc : KNum) (ga : GReg) (gb : GReg) (s : State) :
    exec (.arrive gd ko ka kb kc ga gb) s = execArrive gd ko ka kb kc ga gb s := rfl
@[simp] theorem exec_aswap (gd : Guard) (ko : KNum) (ka : KNum) (kb : KNum) (kc : KNum) (bg : Bool) (s : State) :
    exec (.aswap gd ko ka kb kc bg) s = execAswap gd ko ka kb kc bg s := rfl
@[simp] theorem exec_bar (gd : Guard) (mode : BarMode) (scope : BarScope) (id : BitVec 4) (s : State) :
    exec (.bar gd mode scope id) s = execBar gd mode scope id s := rfl
@[simp] theorem exec_br (gd : Guard) (off : W32) (s : State) :
    exec (.br gd off) s = execBr gd off s := rfl
@[simp] theorem exec_brl (gd : Guard) (off : W32) (s : State) :
    exec (.brl gd off) s = execBrl gd off s := rfl
@[simp] theorem exec_cancel (gd : Guard) (a : GReg) (lvl : Level) (s : State) :
    exec (.cancel gd a lvl) s = execCancel gd a lvl s := rfl
@[simp] theorem exec_cas (gd : Guard) (d : GReg) (a : GReg) (b : GReg) (c : GReg) (wide : Bool) (s : State) :
    exec (.cas gd d a b c wide) s = execCas gd d a b c wide s := rfl
@[simp] theorem exec_chain (gd : Guard) (a : GReg) (spill : Bool) (off : BitVec 28) (s : State) :
    exec (.chain gd a spill off) s = execChain gd a spill off s := rfl
@[simp] theorem exec_clz (gd : Guard) (d : GReg) (a : GReg) (s : State) :
    exec (.clz gd d a) s = execClz gd d a s := rfl
@[simp] theorem exec_cmp (gd : Guard) (d : PNum) (a : GReg) (b : GReg) (cond : Cond) (s : State) :
    exec (.cmp gd d a b cond) s = execCmp gd d a b cond s := rfl
@[simp] theorem exec_cmpi (gd : Guard) (d : PNum) (a : GReg) (cond : Cond) (imm : W32) (s : State) :
    exec (.cmpi gd d a cond imm) s = execCmpi gd d a cond imm s := rfl
@[simp] theorem exec_div (gd : Guard) (d : GReg) (a : GReg) (b : GReg) (s : State) :
    exec (.div gd d a b) s = execDiv gd d a b s := rfl
@[simp] theorem exec_divu (gd : Guard) (d : GReg) (a : GReg) (b : GReg) (s : State) :
    exec (.divu gd d a b) s = execDivu gd d a b s := rfl
@[simp] theorem exec_edge (gd : Guard) (ko : KNum) (ka : KNum) (kb : KNum) (kc : KNum) (ga : GReg) (bg : Bool) (s : State) :
    exec (.edge gd ko ka kb kc ga bg) s = execEdge gd ko ka kb kc ga bg s := rfl
@[simp] theorem exec_eret (gd : Guard) (s : State) :
    exec (.eret gd) s = execEret gd s := rfl
@[simp] theorem exec_exit (gd : Guard) (mask : BitVec 6) (s : State) :
    exec (.exit gd mask) s = execExit gd mask s := rfl
@[simp] theorem exec_ext (gd : Guard) (d : GReg) (a : GReg) (width : ExtW) (sgn : Bool) (s : State) :
    exec (.ext gd d a width sgn) s = execExt gd d a width sgn s := rfl
@[simp] theorem exec_fence (gd : Guard) (wc : Bool) (sys : Bool) (eng : Bool) (ifetch : Bool) (s : State) :
    exec (.fence gd wc sys eng ifetch) s = execFence gd wc sys eng ifetch s := rfl
@[simp] theorem exec_ffuse (gd : Guard) (s : State) :
    exec (.ffuse gd) s = execFfuse gd s := rfl
@[simp] theorem exec_fsplit (gd : Guard) (d : GReg) (a : GReg) (col : Bool) (s : State) :
    exec (.fsplit gd d a col) s = execFsplit gd d a col s := rfl
@[simp] theorem exec_gcfg (gd : Guard) (ko : KNum) (ka : KNum) (kb : KNum) (kc : KNum) (ga : GReg) (s : State) :
    exec (.gcfg gd ko ka kb kc ga) s = execGcfg gd ko ka kb kc ga s := rfl
@[simp] theorem exec_gspill (gd : Guard) (ko : KNum) (ka : KNum) (kb : KNum) (kc : KNum) (ga : GReg) (s : State) :
    exec (.gspill gd ko ka kb kc ga) s = execGspill gd ko ka kb kc ga s := rfl
@[simp] theorem exec_gstart (gd : Guard) (ko : KNum) (ka : KNum) (kb : KNum) (kc : KNum) (s : State) :
    exec (.gstart gd ko ka kb kc) s = execGstart gd ko ka kb kc s := rfl
@[simp] theorem exec_gstop (gd : Guard) (ko : KNum) (ka : KNum) (kb : KNum) (kc : KNum) (s : State) :
    exec (.gstop gd ko ka kb kc) s = execGstop gd ko ka kb kc s := rfl
@[simp] theorem exec_jr (gd : Guard) (a : GReg) (off : W32) (s : State) :
    exec (.jr gd a off) s = execJr gd a off s := rfl
@[simp] theorem exec_jrl (gd : Guard) (a : GReg) (off : W32) (s : State) :
    exec (.jrl gd a off) s = execJrl gd a off s := rfl
@[simp] theorem exec_kwatch (gd : Guard) (ko : KNum) (ka : KNum) (kb : KNum) (kc : KNum) (ga : GReg) (gb : GReg) (s : State) :
    exec (.kwatch gd ko ka kb kc ga gb) s = execKwatch gd ko ka kb kc ga gb s := rfl
@[simp] theorem exec_launch (gd : Guard) (ko : KNum) (ka : KNum) (kb : KNum) (kc : KNum) (ga : GReg) (s : State) :
    exec (.launch gd ko ka kb kc ga) s = execLaunch gd ko ka kb kc ga s := rfl
@[simp] theorem exec_ld (gd : Guard) (d : GReg) (a : GReg) (sz : BitVec 2) (sgn : Bool) (hint : BitVec 4) (off : W32) (s : State) :
    exec (.ld gd d a sz sgn hint off) s = execLd gd d a sz sgn hint off s := rfl
@[simp] theorem exec_st (gd : Guard) (d : GReg) (a : GReg) (sz : BitVec 2) (sys : Bool) (off : W32) (s : State) :
    exec (.st gd d a sz sys off) s = execSt gd d a sz sys off s := rfl
@[simp] theorem exec_ldv (gd : Guard) (d : VNum) (a : GReg) (tag : Tag) (hint : BitVec 4) (off : W32) (s : State) :
    exec (.ldv gd d a tag hint off) s = execLdv gd d a tag hint off s := rfl
@[simp] theorem exec_stv (gd : Guard) (d : VNum) (a : GReg) (tag : Tag) (off : W32) (s : State) :
    exec (.stv gd d a tag off) s = execStv gd d a tag off s := rfl
@[simp] theorem exec_li (gd : Guard) (d : GReg) (imm : W32) (s : State) :
    exec (.li gd d imm) s = execLi gd d imm s := rfl
@[simp] theorem exec_lih (gd : Guard) (d : GReg) (a : GReg) (imm : W32) (s : State) :
    exec (.lih gd d a imm) s = execLih gd d a imm s := rfl
@[simp] theorem exec_loop (gd : Guard) (a : GReg) (off : W32) (s : State) :
    exec (.loop gd a off) s = execLoop gd a off s := rfl
@[simp] theorem exec_max (gd : Guard) (d : GReg) (a : GReg) (b : GReg) (s : State) :
    exec (.max gd d a b) s = execMax gd d a b s := rfl
@[simp] theorem exec_maxu (gd : Guard) (d : GReg) (a : GReg) (b : GReg) (s : State) :
    exec (.maxu gd d a b) s = execMaxu gd d a b s := rfl
@[simp] theorem exec_min (gd : Guard) (d : GReg) (a : GReg) (b : GReg) (s : State) :
    exec (.min gd d a b) s = execMin gd d a b s := rfl
@[simp] theorem exec_minu (gd : Guard) (d : GReg) (a : GReg) (b : GReg) (s : State) :
    exec (.minu gd d a b) s = execMinu gd d a b s := rfl
@[simp] theorem exec_mfc (gd : Guard) (d : GReg) (num : BitVec 12) (s : State) :
    exec (.mfc gd d num) s = execMfc gd d num s := rfl
@[simp] theorem exec_mtc (gd : Guard) (a : GReg) (num : BitVec 12) (s : State) :
    exec (.mtc gd a num) s = execMtc gd a num s := rfl
@[simp] theorem exec_mlog (gd : Guard) (d : MNum) (a : MNum) (b : MNum) (tbl : BitVec 4) (s : State) :
    exec (.mlog gd d a b tbl) s = execMlog gd d a b tbl s := rfl
@[simp] theorem exec_mma (gd : Guard) (ko : KNum) (ka : KNum) (kb : KNum) (kc : KNum) (ga : GReg) (gb : GReg) (bg : Bool) (chn : Bool) (rag : Bool) (cin : Bool) (set : Bool) (s : State) :
    exec (.mma gd ko ka kb kc ga gb bg chn rag cin set) s = execMma gd ko ka kb kc ga gb bg chn rag cin set s := rfl
@[simp] theorem exec_mul (gd : Guard) (d : GReg) (a : GReg) (b : GReg) (s : State) :
    exec (.mul gd d a b) s = execMul gd d a b s := rfl
@[simp] theorem exec_mulh (gd : Guard) (d : GReg) (a : GReg) (b : GReg) (s : State) :
    exec (.mulh gd d a b) s = execMulh gd d a b s := rfl
@[simp] theorem exec_mulhu (gd : Guard) (d : GReg) (a : GReg) (b : GReg) (s : State) :
    exec (.mulhu gd d a b) s = execMulhu gd d a b s := rfl
@[simp] theorem exec_nop (gd : Guard) (s : State) :
    exec (.nop gd) s = execNop gd s := rfl
@[simp] theorem exec_or (gd : Guard) (d : GReg) (a : GReg) (b : GReg) (s : State) :
    exec (.or gd d a b) s = execOr gd d a b s := rfl
@[simp] theorem exec_ori (gd : Guard) (d : GReg) (a : GReg) (imm : W32) (s : State) :
    exec (.ori gd d a imm) s = execOri gd d a imm s := rfl
@[simp] theorem exec_popc (gd : Guard) (d : GReg) (a : GReg) (s : State) :
    exec (.popc gd d a) s = execPopc gd d a s := rfl
@[simp] theorem exec_pset (gd : Guard) (d : PNum) (a : PNum) (b : PNum) (tbl : BitVec 4) (s : State) :
    exec (.pset gd d a b tbl) s = execPset gd d a b tbl s := rfl
@[simp] theorem exec_qmark (gd : Guard) (mask : BitVec 6) (s : State) :
    exec (.qmark gd mask) s = execQmark gd mask s := rfl
@[simp] theorem exec_rem (gd : Guard) (d : GReg) (a : GReg) (b : GReg) (s : State) :
    exec (.rem gd d a b) s = execRem gd d a b s := rfl
@[simp] theorem exec_remu (gd : Guard) (d : GReg) (a : GReg) (b : GReg) (s : State) :
    exec (.remu gd d a b) s = execRemu gd d a b s := rfl
@[simp] theorem exec_sel (gd : Guard) (d : GReg) (a : GReg) (b : GReg) (c : PNum) (s : State) :
    exec (.sel gd d a b c) s = execSel gd d a b c s := rfl
@[simp] theorem exec_shl (gd : Guard) (d : GReg) (a : GReg) (b : GReg) (s : State) :
    exec (.shl gd d a b) s = execShl gd d a b s := rfl
@[simp] theorem exec_shr (gd : Guard) (d : GReg) (a : GReg) (b : GReg) (s : State) :
    exec (.shr gd d a b) s = execShr gd d a b s := rfl
@[simp] theorem exec_shra (gd : Guard) (d : GReg) (a : GReg) (b : GReg) (s : State) :
    exec (.shra gd d a b) s = execShra gd d a b s := rfl
@[simp] theorem exec_shli (gd : Guard) (d : GReg) (a : GReg) (sh : BitVec 6) (s : State) :
    exec (.shli gd d a sh) s = execShli gd d a sh s := rfl
@[simp] theorem exec_shri (gd : Guard) (d : GReg) (a : GReg) (sh : BitVec 6) (s : State) :
    exec (.shri gd d a sh) s = execShri gd d a sh s := rfl
@[simp] theorem exec_shrai (gd : Guard) (d : GReg) (a : GReg) (sh : BitVec 6) (s : State) :
    exec (.shrai gd d a sh) s = execShrai gd d a sh s := rfl
@[simp] theorem exec_strm (gd : Guard) (ko : KNum) (ka : KNum) (kb : KNum) (kc : KNum) (ga : GReg) (gb : GReg) (s : State) :
    exec (.strm gd ko ka kb kc ga gb) s = execStrm gd ko ka kb kc ga gb s := rfl
@[simp] theorem exec_sub (gd : Guard) (d : GReg) (a : GReg) (b : GReg) (s : State) :
    exec (.sub gd d a b) s = execSub gd d a b s := rfl
@[simp] theorem exec_sys (gd : Guard) (code : BitVec 28) (s : State) :
    exec (.sys gd code) s = execSys gd code s := rfl
@[simp] theorem exec_tjoin (gd : Guard) (ko : KNum) (ka : KNum) (kb : KNum) (kc : KNum) (s : State) :
    exec (.tjoin gd ko ka kb kc) s = execTjoin gd ko ka kb kc s := rfl
@[simp] theorem exec_tstat (gd : Guard) (d : GReg) (ka : KNum) (s : State) :
    exec (.tstat gd d ka) s = execTstat gd d ka s := rfl
@[simp] theorem exec_twait (gd : Guard) (ka : KNum) (kb : KNum) (kc : KNum) (s : State) :
    exec (.twait gd ka kb kc) s = execTwait gd ka kb kc s := rfl
@[simp] theorem exec_trapf (gd : Guard) (s : State) :
    exec (.trapf gd) s = execTrapf gd s := rfl
@[simp] theorem exec_unchain (gd : Guard) (s : State) :
    exec (.unchain gd) s = execUnchain gd s := rfl
@[simp] theorem exec_vadd (gd : Guard) (d : VNum) (a : VNum) (b : VNum) (fmt : Tag) (rm : Rm) (sat : Bool) (mk : Option MNum) (s : State) :
    exec (.vadd gd d a b fmt rm sat mk) s = execVadd gd d a b fmt rm sat mk s := rfl
@[simp] theorem exec_vsub (gd : Guard) (d : VNum) (a : VNum) (b : VNum) (fmt : Tag) (rm : Rm) (sat : Bool) (mk : Option MNum) (s : State) :
    exec (.vsub gd d a b fmt rm sat mk) s = execVsub gd d a b fmt rm sat mk s := rfl
@[simp] theorem exec_vmul (gd : Guard) (d : VNum) (a : VNum) (b : VNum) (fmt : Tag) (rm : Rm) (sat : Bool) (mk : Option MNum) (s : State) :
    exec (.vmul gd d a b fmt rm sat mk) s = execVmul gd d a b fmt rm sat mk s := rfl
@[simp] theorem exec_vfma (gd : Guard) (d : VNum) (a : VNum) (b : VNum) (c : VNum) (fmt : Tag) (rm : Rm) (sat : Bool) (mk : Option MNum) (s : State) :
    exec (.vfma gd d a b c fmt rm sat mk) s = execVfma gd d a b c fmt rm sat mk s := rfl
@[simp] theorem exec_vmin (gd : Guard) (d : VNum) (a : VNum) (b : VNum) (fmt : Tag) (rm : Rm) (sat : Bool) (mk : Option MNum) (s : State) :
    exec (.vmin gd d a b fmt rm sat mk) s = execVmin gd d a b fmt rm sat mk s := rfl
@[simp] theorem exec_vmax (gd : Guard) (d : VNum) (a : VNum) (b : VNum) (fmt : Tag) (rm : Rm) (sat : Bool) (mk : Option MNum) (s : State) :
    exec (.vmax gd d a b fmt rm sat mk) s = execVmax gd d a b fmt rm sat mk s := rfl
@[simp] theorem exec_vabs (gd : Guard) (d : VNum) (a : VNum) (fmt : Tag) (rm : Rm) (sat : Bool) (mk : Option MNum) (s : State) :
    exec (.vabs gd d a fmt rm sat mk) s = execVabs gd d a fmt rm sat mk s := rfl
@[simp] theorem exec_vneg (gd : Guard) (d : VNum) (a : VNum) (fmt : Tag) (rm : Rm) (sat : Bool) (mk : Option MNum) (s : State) :
    exec (.vneg gd d a fmt rm sat mk) s = execVneg gd d a fmt rm sat mk s := rfl
@[simp] theorem exec_vrcp (gd : Guard) (d : VNum) (a : VNum) (fmt : Tag) (rm : Rm) (sat : Bool) (mk : Option MNum) (s : State) :
    exec (.vrcp gd d a fmt rm sat mk) s = execVrcp gd d a fmt rm sat mk s := rfl
@[simp] theorem exec_vrsq (gd : Guard) (d : VNum) (a : VNum) (fmt : Tag) (rm : Rm) (sat : Bool) (mk : Option MNum) (s : State) :
    exec (.vrsq gd d a fmt rm sat mk) s = execVrsq gd d a fmt rm sat mk s := rfl
@[simp] theorem exec_vexp (gd : Guard) (d : VNum) (a : VNum) (fmt : Tag) (rm : Rm) (sat : Bool) (mk : Option MNum) (s : State) :
    exec (.vexp gd d a fmt rm sat mk) s = execVexp gd d a fmt rm sat mk s := rfl
@[simp] theorem exec_vlog (gd : Guard) (d : VNum) (a : VNum) (fmt : Tag) (rm : Rm) (sat : Bool) (mk : Option MNum) (s : State) :
    exec (.vlog gd d a fmt rm sat mk) s = execVlog gd d a fmt rm sat mk s := rfl
@[simp] theorem exec_viadd (gd : Guard) (d : VNum) (a : VNum) (b : VNum) (mk : Option MNum) (s : State) :
    exec (.viadd gd d a b mk) s = execViadd gd d a b mk s := rfl
@[simp] theorem exec_visub (gd : Guard) (d : VNum) (a : VNum) (b : VNum) (mk : Option MNum) (s : State) :
    exec (.visub gd d a b mk) s = execVisub gd d a b mk s := rfl
@[simp] theorem exec_vimul (gd : Guard) (d : VNum) (a : VNum) (b : VNum) (mk : Option MNum) (s : State) :
    exec (.vimul gd d a b mk) s = execVimul gd d a b mk s := rfl
@[simp] theorem exec_vand (gd : Guard) (d : VNum) (a : VNum) (b : VNum) (mk : Option MNum) (s : State) :
    exec (.vand gd d a b mk) s = execVand gd d a b mk s := rfl
@[simp] theorem exec_vor (gd : Guard) (d : VNum) (a : VNum) (b : VNum) (mk : Option MNum) (s : State) :
    exec (.vor gd d a b mk) s = execVor gd d a b mk s := rfl
@[simp] theorem exec_vxor (gd : Guard) (d : VNum) (a : VNum) (b : VNum) (mk : Option MNum) (s : State) :
    exec (.vxor gd d a b mk) s = execVxor gd d a b mk s := rfl
@[simp] theorem exec_vshl (gd : Guard) (d : VNum) (a : VNum) (b : VNum) (mk : Option MNum) (s : State) :
    exec (.vshl gd d a b mk) s = execVshl gd d a b mk s := rfl
@[simp] theorem exec_vshr (gd : Guard) (d : VNum) (a : VNum) (b : VNum) (mk : Option MNum) (s : State) :
    exec (.vshr gd d a b mk) s = execVshr gd d a b mk s := rfl
@[simp] theorem exec_vshra (gd : Guard) (d : VNum) (a : VNum) (b : VNum) (mk : Option MNum) (s : State) :
    exec (.vshra gd d a b mk) s = execVshra gd d a b mk s := rfl
@[simp] theorem exec_vbc (gd : Guard) (d : VNum) (a : GReg) (fmt : Tag) (mk : Option MNum) (s : State) :
    exec (.vbc gd d a fmt mk) s = execVbc gd d a fmt mk s := rfl
@[simp] theorem exec_vcmp (gd : Guard) (d : MNum) (a : VNum) (b : VNum) (cond : VCond) (s : State) :
    exec (.vcmp gd d a b cond) s = execVcmp gd d a b cond s := rfl
@[simp] theorem exec_vcvt (gd : Guard) (d : VNum) (a : VNum) (fmt : Tag) (rm : Rm) (sat : Bool) (mk : Option MNum) (s : State) :
    exec (.vcvt gd d a fmt rm sat mk) s = execVcvt gd d a fmt rm sat mk s := rfl
@[simp] theorem exec_vldx (gd : Guard) (d : VNum) (a : GReg) (b : VNum) (fmt : Tag) (mk : Option MNum) (s : State) :
    exec (.vldx gd d a b fmt mk) s = execVldx gd d a b fmt mk s := rfl
@[simp] theorem exec_vstx (gd : Guard) (d : VNum) (a : GReg) (b : VNum) (fmt : Tag) (mk : Option MNum) (s : State) :
    exec (.vstx gd d a b fmt mk) s = execVstx gd d a b fmt mk s := rfl
@[simp] theorem exec_vperm (gd : Guard) (d : VNum) (a : VNum) (b : VNum) (mk : Option MNum) (s : State) :
    exec (.vperm gd d a b mk) s = execVperm gd d a b mk s := rfl
@[simp] theorem exec_vqnt (gd : Guard) (d : VNum) (a : VNum) (fmt : Tag) (rm : Rm) (sat : Bool) (mk : Option MNum) (s : State) :
    exec (.vqnt gd d a fmt rm sat mk) s = execVqnt gd d a fmt rm sat mk s := rfl
@[simp] theorem exec_vred (gd : Guard) (d : GReg) (a : VNum) (op : RedOp) (rm : Rm) (s : State) :
    exec (.vred gd d a op rm) s = execVred gd d a op rm s := rfl
@[simp] theorem exec_vsel (gd : Guard) (d : VNum) (a : VNum) (b : VNum) (c : MNum) (s : State) :
    exec (.vsel gd d a b c) s = execVsel gd d a b c s := rfl
@[simp] theorem exec_vtag (gd : Guard) (d : VNum) (a : VNum) (tag : Tag) (s : State) :
    exec (.vtag gd d a tag) s = execVtag gd d a tag s := rfl
@[simp] theorem exec_vtagRead (gd : Guard) (d : GReg) (a : VNum) (s : State) :
    exec (.vtagRead gd d a) s = execVtagRead gd d a s := rfl
@[simp] theorem exec_vxtr (gd : Guard) (d : GReg) (a : VNum) (b : GReg) (s : State) :
    exec (.vxtr gd d a b) s = execVxtr gd d a b s := rfl
@[simp] theorem exec_waitge (gd : Guard) (d : GReg) (a : GReg) (sz : BitVec 2) (sgn : Bool) (hint : BitVec 4) (off : W32) (s : State) :
    exec (.waitge gd d a sz sgn hint off) s = execWaitge gd d a sz sgn hint off s := rfl
@[simp] theorem exec_wload (gd : Guard) (ko : KNum) (ka : KNum) (kb : KNum) (kc : KNum) (ga : GReg) (gb : GReg) (bg : Bool) (s : State) :
    exec (.wload gd ko ka kb kc ga gb bg) s = execWload gd ko ka kb kc ga gb bg s := rfl
@[simp] theorem exec_wswap (gd : Guard) (ko : KNum) (ka : KNum) (kb : KNum) (kc : KNum) (bg : Bool) (s : State) :
    exec (.wswap gd ko ka kb kc bg) s = execWswap gd ko ka kb kc bg s := rfl
@[simp] theorem exec_xcast (gd : Guard) (ko : KNum) (ka : KNum) (kb : KNum) (kc : KNum) (ga : GReg) (gb : GReg) (res : Option GReg) (s : State) :
    exec (.xcast gd ko ka kb kc ga gb res) s = execXcast gd ko ka kb kc ga gb res s := rfl
@[simp] theorem exec_xcopy (gd : Guard) (ko : KNum) (ka : KNum) (kb : KNum) (kc : KNum) (ga : GReg) (gb : GReg) (res : Option GReg) (s : State) :
    exec (.xcopy gd ko ka kb kc ga gb res) s = execXcopy gd ko ka kb kc ga gb res s := rfl
@[simp] theorem exec_xred (gd : Guard) (ko : KNum) (ka : KNum) (kb : KNum) (kc : KNum) (ga : GReg) (gb : GReg) (res : Option GReg) (s : State) :
    exec (.xred gd ko ka kb kc ga gb res) s = execXred gd ko ka kb kc ga gb res s := rfl
@[simp] theorem exec_xfetch (gd : Guard) (ko : KNum) (ka : KNum) (kb : KNum) (kc : KNum) (ga : GReg) (s : State) :
    exec (.xfetch gd ko ka kb kc ga) s = execXfetch gd ko ka kb kc ga s := rfl
@[simp] theorem exec_xsend (gd : Guard) (ko : KNum) (ka : KNum) (kb : KNum) (kc : KNum) (ga : GReg) (gb : GReg) (add : Bool) (res : Option GReg) (s : State) :
    exec (.xsend gd ko ka kb kc ga gb add res) s = execXsend gd ko ka kb kc ga gb add res s := rfl
@[simp] theorem exec_xor (gd : Guard) (d : GReg) (a : GReg) (b : GReg) (s : State) :
    exec (.xor gd d a b) s = execXor gd d a b s := rfl
@[simp] theorem exec_xori (gd : Guard) (d : GReg) (a : GReg) (imm : W32) (s : State) :
    exec (.xori gd d a imm) s = execXori gd d a imm s := rfl
@[simp] theorem exec_yield (gd : Guard) (n : BitVec 6) (s : State) :
    exec (.yield gd n) s = execYield gd n s := rfl
@[simp] theorem exec_commandStart (seq : Nat) (q : Nat) (s : State) :
    exec (.commandStart seq q) s = execCommandStart seq q s := rfl
@[simp] theorem exec_commandBoundary (seq : Nat) (s : State) :
    exec (.commandBoundary seq) s = execCommandBoundary seq s := rfl
@[simp] theorem exec_commandCompletion (seq : Nat) (q : Nat) (id : Nat) (upto : Nat) (s : State) :
    exec (.commandCompletion seq q id upto) s = execCommandCompletion seq q id upto s := rfl
@[simp] theorem exec_raggedCounterRead (seq : Nat) (s : State) :
    exec (.raggedCounterRead seq) s = execRaggedCounterRead seq s := rfl
@[simp] theorem exec_spillEngineMove (seq : Nat) (port : Option Nat) (s : State) :
    exec (.spillEngineMove seq port) s = execSpillEngineMove seq port s := rfl
@[simp] theorem exec_gridCycle (seq : Nat) (s : State) :
    exec (.gridCycle seq) s = execGridCycle seq s := rfl
@[simp] theorem exec_kwatchRead (seq : Nat) (id : Nat) (s : State) :
    exec (.kwatchRead seq id) s = execKwatchRead seq id s := rfl
@[simp] theorem exec_waitgeRead (cid : Nat) (s : State) :
    exec (.waitgeRead cid) s = execWaitgeRead cid s := rfl
@[simp] theorem exec_wcVisibilityTimeout (cid : Nat) (s : State) :
    exec (.wcVisibilityTimeout cid) s = execWcVisibilityTimeout cid s := rfl
@[simp] theorem exec_launchAccept (cid : Nat) (id : Nat) (s : State) :
    exec (.launchAccept cid id) s = execLaunchAccept cid id s := rfl
@[simp] theorem exec_weightReturn (src : PartSrc) (s : State) :
    exec (.weightReturn src) s = execWeightReturn src s := rfl
@[simp] theorem exec_graphNodeSpawn (ent : Nat) (node : Nat) (s : State) :
    exec (.graphNodeSpawn ent node) s = execGraphNodeSpawn ent node s := rfl
@[simp] theorem exec_fragmentFree (seq : Nat) (s : State) :
    exec (.fragmentFree seq) s = execFragmentFree seq s := rfl
@[simp] theorem exec_unitCompletion (lid : Nat) (unit : Nat) (s : State) :
    exec (.unitCompletion lid unit) s = execUnitCompletion lid unit s := rfl
@[simp] theorem exec_selection (s : State) :
    exec (.selection) s = execSelection s := rfl
@[simp] theorem exec_priorityAgeingStep (lid : Nat) (s : State) :
    exec (.priorityAgeingStep lid) s = execPriorityAgeingStep lid s := rfl
@[simp] theorem exec_waitQuantumExpiry (cid : Nat) (s : State) :
    exec (.waitQuantumExpiry cid) s = execWaitQuantumExpiry cid s := rfl
@[simp] theorem exec_yieldWindowExpiry (cid : Nat) (s : State) :
    exec (.yieldWindowExpiry cid) s = execYieldWindowExpiry cid s := rfl
@[simp] theorem exec_quiesceComplete (cid : Nat) (s : State) :
    exec (.quiesceComplete cid) s = execQuiesceComplete cid s := rfl
@[simp] theorem exec_imageWriteDone (cid : Nat) (s : State) :
    exec (.imageWriteDone cid) s = execImageWriteDone cid s := rfl
@[simp] theorem exec_resumptionReadDone (cid : Nat) (s : State) :
    exec (.resumptionReadDone cid) s = execResumptionReadDone cid s := rfl
@[simp] theorem exec_tenureLimit (seq : Nat) (s : State) :
    exec (.tenureLimit seq) s = execTenureLimit seq s := rfl
@[simp] theorem exec_cancelAtHome (idx : Nat) (s : State) :
    exec (.cancelAtHome idx) s = execCancelAtHome idx s := rfl
@[simp] theorem exec_firmwarePageServiceDone (cid : Nat) (cmd : Option Nat) (maps : Option (List (Nat × Nat × W64 × W64))) (s : State) :
    exec (.firmwarePageServiceDone cid cmd maps) s = execFirmwarePageServiceDone cid cmd maps s := rfl
@[simp] theorem exec_sliceReport (lid : Nat) (s : State) :
    exec (.sliceReport lid) s = execSliceReport lid s := rfl
@[simp] theorem exec_ready (hdr : FHdr) (slice : Nat) (ok : Bool) (s : State) :
    exec (.ready hdr slice ok) s = execReady hdr slice ok s := rfl
@[simp] theorem exec_sliceDecision (lid : Nat) (s : State) :
    exec (.sliceDecision lid) s = execSliceDecision lid s := rfl
@[simp] theorem exec_go (hdr : FHdr) (slice : Nat) (s : State) :
    exec (.go hdr slice) s = execGo hdr slice s := rfl
@[simp] theorem exec_sliceStart (lid : Nat) (s : State) :
    exec (.sliceStart lid) s = execSliceStart lid s := rfl
@[simp] theorem exec_abandon (hdr : FHdr) (slice : Nat) (s : State) :
    exec (.abandon hdr slice) s = execAbandon hdr slice s := rfl
@[simp] theorem exec_fail (hdr : FHdr) (slice : Nat) (s : State) :
    exec (.fail hdr slice) s = execFail hdr slice s := rfl
@[simp] theorem exec_sliceReoffer (lid : Nat) (s : State) :
    exec (.sliceReoffer lid) s = execSliceReoffer lid s := rfl
@[simp] theorem exec_fabricWrite (rdie : Nat) (hdr : FHdr) (t : Target) (u : UnitAt) (data : List Byte) (s : State) :
    exec (.fabricWrite rdie hdr t u data) s = execFabricWrite rdie hdr t u data s := rfl
@[simp] theorem exec_fabricAdd (rdie : Nat) (hdr : FHdr) (t : Target) (u : UnitAt) (fp : Bool) (data : List Byte) (s : State) :
    exec (.fabricAdd rdie hdr t u fp data) s = execFabricAdd rdie hdr t u fp data s := rfl
@[simp] theorem exec_fetchOrder (rdie : Nat) (hdr : FHdr) (o : FetchOrder) (upto : Nat) (s : State) :
    exec (.fetchOrder rdie hdr o upto) s = execFetchOrder rdie hdr o upto s := rfl
@[simp] theorem exec_fetchUnit (rdie : Nat) (hdr : FHdr) (o : FetchOrder) (off : Nat) (data : List Byte) (s : State) :
    exec (.fetchUnit rdie hdr o off data) s = execFetchUnit rdie hdr o off data s := rfl
@[simp] theorem exec_fetchEnd (hdr : FHdr) (endOff : Nat) (s : State) :
    exec (.fetchEnd hdr endOff) s = execFetchEnd hdr endOff s := rfl
@[simp] theorem exec_landed (hdr : FHdr) (landedTo : Nat) (s : State) :
    exec (.landed hdr landedTo) s = execLanded hdr landedTo s := rfl
@[simp] theorem exec_fabricCommit (rdie : Nat) (hdr : FHdr) (addr : W64) (length : Nat) (s : State) :
    exec (.fabricCommit rdie hdr addr length) s = execFabricCommit rdie hdr addr length s := rfl
@[simp] theorem exec_committed (hdr : FHdr) (s : State) :
    exec (.committed hdr) s = execCommitted hdr s := rfl
@[simp] theorem exec_fabricStop (hdr : FHdr) (s : State) :
    exec (.fabricStop hdr) s = execFabricStop hdr s := rfl
@[simp] theorem exec_report (rdie : Nat) (hdr : FHdr) (resume : Nat) (endOff : Nat) (s : State) :
    exec (.report rdie hdr resume endOff) s = execReport rdie hdr resume endOff s := rfl
@[simp] theorem exec_negativeReply (hdr : FHdr) (code : Nat) (n : NakAt) (s : State) :
    exec (.negativeReply hdr code n) s = execNegativeReply hdr code n s := rfl
@[simp] theorem exec_acknowledgement (hdr : FHdr) (off : Nat) (s : State) :
    exec (.acknowledgement hdr off) s = execAcknowledgement hdr off s := rfl
@[simp] theorem exec_resetNotice (pkg : Nat) (die : Nat) (inc : Nat) (s : State) :
    exec (.resetNotice pkg die inc) s = execResetNotice pkg die inc s := rfl
@[simp] theorem exec_portLoss (pkg : Nat) (s : State) :
    exec (.portLoss pkg) s = execPortLoss pkg s := rfl
@[simp] theorem exec_noProgressTimeout (buf : FabBuffer) (s : State) :
    exec (.noProgressTimeout buf) s = execNoProgressTimeout buf s := rfl
@[simp] theorem exec_fabricTime (ns : Nat) (s : State) :
    exec (.fabricTime ns) s = execFabricTime ns s := rfl
@[simp] theorem exec_linkStep (a : Nat) (b : Nat) (s : State) :
    exec (.linkStep a b) s = execLinkStep a b s := rfl
@[simp] theorem exec_retrainingWindowClose (a : Nat) (b : Nat) (s : State) :
    exec (.retrainingWindowClose a b) s = execRetrainingWindowClose a b s := rfl
@[simp] theorem exec_hostAccess (link : Nat) (die : Nat) (addr : Nat) (n : Nat) (wr : Option (List Byte)) (s : State) :
    exec (.hostAccess link die addr n wr) s = execHostAccess link die addr n wr s := rfl
@[simp] theorem exec_claim (m : W16) (n : W64) (s : State) :
    exec (.claim m n) s = execClaim m n s := rfl
@[simp] theorem exec_handover (m : W16) (v : W64) (s : State) :
    exec (.handover m v) s = execHandover m v s := rfl
@[simp] theorem exec_commit (m : W16) (n : BitVec 48) (s : State) :
    exec (.commit m n) s = execCommit m n s := rfl
@[simp] theorem exec_release (m : W16) (v : W64) (s : State) :
    exec (.release m v) s = execRelease m v s := rfl
@[simp] theorem exec_registerWrite (m : W16) (off : Nat) (v : W64) (s : State) :
    exec (.registerWrite m off v) s = execRegisterWrite m off v s := rfl
@[simp] theorem exec_tail (m : W16) (q : Nat) (v : W64) (s : State) :
    exec (.tail m q v) s = execTail m q v s := rfl
@[simp] theorem exec_tailWordRead (q : Nat) (s : State) :
    exec (.tailWordRead q) s = execTailWordRead q s := rfl
@[simp] theorem exec_queueEnable (m : W16) (q : Nat) (s : State) :
    exec (.queueEnable m q) s = execQueueEnable m q s := rfl
@[simp] theorem exec_queueDisable (m : W16) (q : Nat) (s : State) :
    exec (.queueDisable m q) s = execQueueDisable m q s := rfl
@[simp] theorem exec_stopPacket (q : Nat) (s : State) :
    exec (.stopPacket q) s = execStopPacket q s := rfl
@[simp] theorem exec_nopPacket (q : Nat) (s : State) :
    exec (.nopPacket q) s = execNopPacket q s := rfl
@[simp] theorem exec_launchPacket (q : Nat) (s : State) :
    exec (.launchPacket q) s = execLaunchPacket q s := rfl
@[simp] theorem exec_sliceLaunch (q : Nat) (s : State) :
    exec (.sliceLaunch q) s = execSliceLaunch q s := rfl
@[simp] theorem exec_graph (q : Nat) (s : State) :
    exec (.graph q) s = execGraph q s := rfl
@[simp] theorem exec_waitThreshold (q : Nat) (s : State) :
    exec (.waitThreshold q) s = execWaitThreshold q s := rfl
@[simp] theorem exec_waitQueue (q : Nat) (s : State) :
    exec (.waitQueue q) s = execWaitQueue q s := rfl
@[simp] theorem exec_waitHandle (q : Nat) (s : State) :
    exec (.waitHandle q) s = execWaitHandle q s := rfl
@[simp] theorem exec_waitRelease (q : Nat) (s : State) :
    exec (.waitRelease q) s = execWaitRelease q s := rfl
@[simp] theorem exec_signalStore (q : Nat) (s : State) :
    exec (.signalStore q) s = execSignalStore q s := rfl
@[simp] theorem exec_signalAdd (q : Nat) (s : State) :
    exec (.signalAdd q) s = execSignalAdd q s := rfl
@[simp] theorem exec_call (q : Nat) (s : State) :
    exec (.call q) s = execCall q s := rfl
@[simp] theorem exec_pred (q : Nat) (s : State) :
    exec (.pred q) s = execPred q s := rfl
@[simp] theorem exec_loopPacket (q : Nat) (s : State) :
    exec (.loopPacket q) s = execLoopPacket q s := rfl
@[simp] theorem exec_ffence (q : Nat) (s : State) :
    exec (.ffence q) s = execFfence q s := rfl
@[simp] theorem exec_resumePacket (q : Nat) (s : State) :
    exec (.resumePacket q) s = execResumePacket q s := rfl
@[simp] theorem exec_chkpt (q : Nat) (s : State) :
    exec (.chkpt q) s = execChkpt q s := rfl
@[simp] theorem exec_timePacket (q : Nat) (s : State) :
    exec (.timePacket q) s = execTimePacket q s := rfl
@[simp] theorem exec_phase (q : Nat) (s : State) :
    exec (.phase q) s = execPhase q s := rfl
@[simp] theorem exec_coalWindowExpiry (q : Nat) (s : State) :
    exec (.coalWindowExpiry q) s = execCoalWindowExpiry q s := rfl
@[simp] theorem exec_jobOpen (m : W16) (ctx : W64) (rootDie : W64) (rootAddr : W64) (pfh : W64) (tvec : W64) (sscr : W64) (saveAddr : W64) (saveLen : W64) (s : State) :
    exec (.jobOpen m ctx rootDie rootAddr pfh tvec sscr saveAddr saveLen) s = execJobOpen m ctx rootDie rootAddr pfh tvec sscr saveAddr saveLen s := rfl
@[simp] theorem exec_jobClose (m : W16) (ctx : W64) (s : State) :
    exec (.jobClose m ctx) s = execJobClose m ctx s := rfl
@[simp] theorem exec_fatSet (m : W16) (index : W64) (addr : W64) (s : State) :
    exec (.fatSet m index addr) s = execFatSet m index addr s := rfl
@[simp] theorem exec_groupSet (m : W16) (gid : W64) (ver : W64) (addr : W64) (count : W64) (s : State) :
    exec (.groupSet m gid ver addr count) s = execGroupSet m gid ver addr count s := rfl
@[simp] theorem exec_keyLoad (m : W16) (slot : W64) (addr : W64) (s : State) :
    exec (.keyLoad m slot addr) s = execKeyLoad m slot addr s := rfl
@[simp] theorem exec_faultrec (m : W16) (handle : W64) (addr : W64) (s : State) :
    exec (.faultrec m handle addr) s = execFaultrec m handle addr s := rfl
@[simp] theorem exec_images (m : W16) (ctx : W64) (addr : W64) (count : W64) (s : State) :
    exec (.images m ctx addr count) s = execImages m ctx addr count s := rfl
@[simp] theorem exec_imageFree (m : W16) (ctx : W64) (addr : W64) (s : State) :
    exec (.imageFree m ctx addr) s = execImageFree m ctx addr s := rfl
@[simp] theorem exec_fwStage (m : W16) (addr : W64) (len : W64) (s : State) :
    exec (.fwStage m addr len) s = execFwStage m addr len s := rfl
@[simp] theorem exec_fwCommit (m : W16) (s : State) :
    exec (.fwCommit m) s = execFwCommit m s := rfl
@[simp] theorem exec_fwAbort (m : W16) (s : State) :
    exec (.fwAbort m) s = execFwAbort m s := rfl
@[simp] theorem exec_heatSet (m : W16) (die : W64) (heat : W64) (s : State) :
    exec (.heatSet m die heat) s = execHeatSet m die heat s := rfl
@[simp] theorem exec_partition (m : W16) (pid : W64) (s : State) :
    exec (.partition m pid) s = execPartition m pid s := rfl
@[simp] theorem exec_forceRelease (m : W16) (s : State) :
    exec (.forceRelease m) s = execForceRelease m s := rfl
@[simp] theorem exec_scrub (m : W16) (nonce : BitVec 256) (s : State) :
    exec (.scrub m nonce) s = execScrub m nonce s := rfl
@[simp] theorem exec_recover (m : W16) (s : State) :
    exec (.recover m) s = execRecover m s := rfl
@[simp] theorem exec_opkey (m : W16) (hash : BitVec 256) (s : State) :
    exec (.opkey m hash) s = execOpkey m hash s := rfl
@[simp] theorem exec_counters (m : W16) (addr : W64) (ctx : W64) (s : State) :
    exec (.counters m addr ctx) s = execCounters m addr ctx s := rfl
@[simp] theorem exec_dieReset (m : W16) (die : W64) (s : State) :
    exec (.dieReset m die) s = execDieReset m die s := rfl
@[simp] theorem exec_hangWatchdog (die : Nat) (s : State) :
    exec (.hangWatchdog die) s = execHangWatchdog die s := rfl
@[simp] theorem exec_fatalInternalError (die : Nat) (s : State) :
    exec (.fatalInternalError die) s = execFatalInternalError die s := rfl
@[simp] theorem exec_dieResetComplete (die : Nat) (s : State) :
    exec (.dieResetComplete die) s = execDieResetComplete die s := rfl
@[simp] theorem exec_moduleReset (s : State) :
    exec (.moduleReset) s = execModuleReset s := rfl
@[simp] theorem exec_powerUp (s : State) :
    exec (.powerUp) s = execPowerUp s := rfl
@[simp] theorem exec_mgmtImageReceived (image : List Byte) (s : State) :
    exec (.mgmtImageReceived image) s = execMgmtImageReceived image s := rfl
@[simp] theorem exec_attestationQuote (m : W16) (s : State) :
    exec (.attestationQuote m) s = execAttestationQuote m s := rfl
@[simp] theorem exec_arithmeticClockStep (die : Nat) (ticks : Nat) (s : State) :
    exec (.arithmeticClockStep die ticks) s = execArithmeticClockStep die ticks s := rfl
@[simp] theorem exec_portDownPeriodEnd (s : State) :
    exec (.portDownPeriodEnd) s = execPortDownPeriodEnd s := rfl
@[simp] theorem exec_powerLoss (s : State) :
    exec (.powerLoss) s = execPowerLoss s := rfl
@[simp] theorem exec_waitReRead (q : Nat) (s : State) :
    exec (.waitReRead q) s = execWaitReRead q s := rfl
@[simp] theorem exec_gangBarrierArrival (hdr : FHdr) (slice : Nat) (bar : Nat) (s : State) :
    exec (.gangBarrierArrival hdr slice bar) s = execGangBarrierArrival hdr slice bar s := rfl
@[simp] theorem exec_gangBarrierCompletion (hdr : FHdr) (slice : Nat) (bar : Nat) (s : State) :
    exec (.gangBarrierCompletion hdr slice bar) s = execGangBarrierCompletion hdr slice bar s := rfl
@[simp] theorem exec_mailboxCommandDone (s : State) :
    exec (.mailboxCommandDone) s = execMailboxCommandDone s := rfl

end Sys2Proof.Machine
end

