-- ==== Sys2Proof/Laws/Store.lean ====
section
/-! SUPPORT. Tables and stores: reading after writing, and the canonical form kept. -/
namespace Sys2Proof

variable {α : Type}

theorem Tab.get?_set_same (t : Tab α) (k : Nat) (v : α) : Tab.get? (Tab.set t k v) k = some v := by
  induction t with
  | nil => simp [Tab.set, Tab.get?]
  | cons e t ih =>
    obtain ⟨i, w⟩ := e
    simp only [Tab.set]
    split
    · simp [Tab.get?]
    · split <;> simp_all [Tab.get?]

theorem Tab.get?_set_ne (t : Tab α) {k j : Nat} (v : α) (h : j ≠ k) : Tab.get? (Tab.set t k v) j = Tab.get? t j := by
  induction t with
  | nil => simp [Tab.set, Tab.get?, h]
  | cons e t ih =>
    obtain ⟨i, w⟩ := e
    simp only [Tab.set]
    split
    · simp [Tab.get?, h]
    · split
      · subst k; simp [Tab.get?, h]
      · simp [Tab.get?, ih]

theorem Tab.get?_erase_same (t : Tab α) (k : Nat) : Tab.get? (Tab.erase t k) k = none := by
  induction t with
  | nil => rfl
  | cons e t ih => obtain ⟨i, w⟩ := e; simp only [Tab.erase]; split <;> simp_all [Tab.get?]

theorem Tab.get?_erase_ne (t : Tab α) {k j : Nat} (h : j ≠ k) : Tab.get? (Tab.erase t k) j = Tab.get? t j := by
  induction t with
  | nil => rfl
  | cons e t ih =>
    obtain ⟨i, w⟩ := e
    simp only [Tab.erase]
    split
    · subst k; simp [Tab.get?, h, ih]
    · simp [Tab.get?, ih]

/-- What every entry and the default satisfy, every read satisfies. -/
theorem Store.get_of_all {d : α} {s : Store α} {p : α → Bool} (hd : p d = true) (h : s.all (fun e => p e.2) = true) (k : Nat) :
    p (Store.get d s k) = true := by
  unfold Store.get
  induction s with
  | nil => exact hd
  | cons e t ih =>
    simp only [List.all_cons, Bool.and_eq_true] at h
    simp only [Tab.get?]
    split
    · exact h.1
    · exact ih h.2

@[simp] theorem Store.get_put_same [DecidableEq α] (d : α) (s : Store α) (k : Nat) (v : α) :
    Store.get d (Store.put d s k v) k = v := by
  unfold Store.put Store.get
  split <;> simp_all [Tab.get?_set_same, Tab.get?_erase_same]

theorem Store.get_put_ne [DecidableEq α] (d : α) (s : Store α) {k j : Nat} (v : α) (h : j ≠ k) :
    Store.get d (Store.put d s k v) j = Store.get d s j := by
  unfold Store.put Store.get
  split <;> simp_all [Tab.get?_set_ne, Tab.get?_erase_ne]

/-- Every key of a table is above a bound. -/
def Tab.above (b : Nat) : Tab α → Prop
  | [] => True
  | e :: t => b < e.1 ∧ Tab.above b t

theorem Tab.above_mono {b c : Nat} (h : b ≤ c) : ∀ t : Tab α, Tab.above c t → Tab.above b t
  | [], _ => trivial
  | _ :: t, ⟨x, y⟩ => ⟨Nat.lt_of_le_of_lt h x, Tab.above_mono h t y⟩

theorem Tab.above_of_wf : ∀ (t : Tab α) (e : Nat × α), Tab.wf (e :: t) = true → Tab.above e.1 t
  | [], _, _ => trivial
  | a :: t, e, h => by
    simp only [Tab.wf, Bool.and_eq_true, decide_eq_true_eq] at h
    exact ⟨h.1, Tab.above_mono (Nat.le_of_lt h.1) t (Tab.above_of_wf t a h.2)⟩

theorem Tab.wf_cons (t : Tab α) (e : Nat × α) : Tab.wf (e :: t) = true ↔ Tab.above e.1 t ∧ Tab.wf t = true := by
  constructor
  · intro h
    refine ⟨Tab.above_of_wf t e h, ?_⟩
    cases t with
    | nil => rfl
    | cons a t => simp only [Tab.wf, Bool.and_eq_true] at h; exact h.2
  · intro ⟨h, w⟩
    cases t with
    | nil => rfl
    | cons a t => simp only [Tab.wf, Bool.and_eq_true, decide_eq_true_eq]; exact ⟨h.1, w⟩

theorem Tab.above_set {b k : Nat} (t : Tab α) (v : α) (hk : b < k) (h : Tab.above b t) : Tab.above b (Tab.set t k v) := by
  induction t with
  | nil => exact ⟨hk, trivial⟩
  | cons e t ih =>
    obtain ⟨i, w⟩ := e
    simp only [Tab.set]
    split
    · exact ⟨hk, h⟩
    · split
      · exact ⟨hk, h.2⟩
      · exact ⟨h.1, ih h.2⟩

theorem Tab.wf_set (t : Tab α) (k : Nat) (v : α) (h : Tab.wf t = true) : Tab.wf (Tab.set t k v) = true := by
  induction t with
  | nil => rfl
  | cons e t ih =>
    obtain ⟨i, w⟩ := e
    have h' := (Tab.wf_cons t (i, w)).1 h
    simp only [Tab.set]
    split
    · rename_i lt
      exact (Tab.wf_cons _ _).2 ⟨⟨lt, Tab.above_mono (Nat.le_of_lt lt) t h'.1⟩, h⟩
    · split
      · subst k; exact (Tab.wf_cons _ _).2 ⟨h'.1, h'.2⟩
      · rename_i a b
        exact (Tab.wf_cons _ _).2 ⟨Tab.above_set t v (by simp only; omega) h'.1, ih h'.2⟩

theorem Tab.above_erase {b : Nat} (k : Nat) : ∀ t : Tab α, Tab.above b t → Tab.above b (Tab.erase t k)
  | [], _ => trivial
  | (i, w) :: t, ⟨x, y⟩ => by
    simp only [Tab.erase]
    split
    · exact Tab.above_erase k t y
    · exact ⟨x, Tab.above_erase k t y⟩

theorem Tab.wf_erase (t : Tab α) (k : Nat) (h : Tab.wf t = true) : Tab.wf (Tab.erase t k) = true := by
  induction t with
  | nil => rfl
  | cons e t ih =>
    obtain ⟨i, w⟩ := e
    have h' := (Tab.wf_cons t (i, w)).1 h
    simp only [Tab.erase]
    split
    · exact ih h'.2
    · exact (Tab.wf_cons _ _).2 ⟨Tab.above_erase k t h'.1, ih h'.2⟩

theorem Tab.above_filter {b : Nat} (p : Nat × α → Bool) : ∀ t : Tab α, Tab.above b t → Tab.above b (t.filter p)
  | [], _ => trivial
  | e :: t, ⟨x, y⟩ => by
    simp only [List.filter]
    split
    · exact ⟨x, Tab.above_filter p t y⟩
    · exact Tab.above_filter p t y

theorem Tab.wf_filter (p : Nat × α → Bool) (t : Tab α) (h : Tab.wf t = true) : Tab.wf (t.filter p) = true := by
  induction t with
  | nil => rfl
  | cons e t ih =>
    have h' := (Tab.wf_cons t e).1 h
    simp only [List.filter]
    split
    · exact (Tab.wf_cons _ _).2 ⟨Tab.above_filter p t h'.1, ih h'.2⟩
    · exact ih h'.2

theorem Tab.mem_set {t : Tab α} {k : Nat} {v : α} {e : Nat × α} (h : e ∈ Tab.set t k v) : e = (k, v) ∨ e ∈ t := by
  induction t with
  | nil => simpa [Tab.set] using h
  | cons a t ih =>
    obtain ⟨i, w⟩ := a
    simp only [Tab.set] at h
    split at h
    · simpa using h
    · split at h
      · rcases List.mem_cons.1 h with h | h <;> simp [h]
      · rcases List.mem_cons.1 h with h | h
        · simp [h]
        · rcases ih h with h | h <;> simp [h]

theorem Tab.mem_erase {t : Tab α} {k : Nat} {e : Nat × α} (h : e ∈ Tab.erase t k) : e ∈ t := by
  induction t with
  | nil => simp [Tab.erase] at h
  | cons a t ih =>
    obtain ⟨i, w⟩ := a
    simp only [Tab.erase] at h
    split at h
    · exact List.mem_cons_of_mem _ (ih h)
    · rcases List.mem_cons.1 h with h | h
      · simp [h]
      · exact List.mem_cons_of_mem _ (ih h)

/-- Writing keeps the canonical form. -/
theorem Store.wf_put [DecidableEq α] (d : α) (s : Store α) (k : Nat) (v : α) (h : Store.wf d s = true) :
    Store.wf d (Store.put d s k v) = true := by
  simp only [Store.wf, Bool.and_eq_true, List.all_eq_true, decide_eq_true_eq] at h ⊢
  unfold Store.put
  split
  · exact ⟨Tab.wf_erase s k h.1, fun e he => h.2 e (Tab.mem_erase he)⟩
  · rename_i hv
    refine ⟨Tab.wf_set s k v h.1, fun e he => ?_⟩
    rcases Tab.mem_set he with rfl | he
    · exact hv
    · exact h.2 e he

/-- Keeping some entries keeps the canonical form. -/
theorem Store.wf_filter [DecidableEq α] (d : α) (s : Store α) (p : Nat × α → Bool) (h : Store.wf d s = true) :
    Store.wf d (s.filter p) = true := by
  simp only [Store.wf, Bool.and_eq_true, List.all_eq_true, decide_eq_true_eq] at h ⊢
  exact ⟨Tab.wf_filter p s h.1, fun e he => h.2 e (List.mem_filter.1 he).1⟩

theorem Store.wf_clear [DecidableEq α] (d : α) (s : Store α) (lo hi : Nat) (h : Store.wf d s = true) :
    Store.wf d (Store.clear s lo hi) = true := Store.wf_filter d s _ h

end Sys2Proof
end

