-- ==== Sys2Proof/Laws/State.lean ====
section
/-! SUPPORT. What the updates of State leave of each field; registers read after they are written. -/
namespace Sys2Proof.Machine

@[simp] theorem State.setCur_now (s : State) (f : Ctx → Ctx) : (s.setCur f).now = s.now := rfl
@[simp] theorem State.setCur_free (s : State) (f : Ctx → Ctx) : (s.setCur f).free = s.free := rfl
@[simp] theorem State.setCur_nextId (s : State) (f : Ctx → Ctx) : (s.setCur f).nextId = s.nextId := rfl
@[simp] theorem State.setCur_turns (s : State) (f : Ctx → Ctx) : (s.setCur f).turns = s.turns := rfl
@[simp] theorem State.setCur_others (s : State) (f : Ctx → Ctx) : (s.setCur f).others = s.others := rfl
@[simp] theorem State.setCur_units (s : State) (f : Ctx → Ctx) : (s.setCur f).units = s.units := rfl
@[simp] theorem State.setCur_ents (s : State) (f : Ctx → Ctx) : (s.setCur f).ents = s.ents := rfl
@[simp] theorem State.setCur_launches (s : State) (f : Ctx → Ctx) : (s.setCur f).launches = s.launches := rfl
@[simp] theorem State.setCur_graphs (s : State) (f : Ctx → Ctx) : (s.setCur f).graphs = s.graphs := rfl
@[simp] theorem State.setCur_jobs (s : State) (f : Ctx → Ctx) : (s.setCur f).jobs = s.jobs := rfl
@[simp] theorem State.setCur_serials (s : State) (f : Ctx → Ctx) : (s.setCur f).serials = s.serials := rfl
@[simp] theorem State.setCur_returns (s : State) (f : Ctx → Ctx) : (s.setCur f).returns = s.returns := rfl
@[simp] theorem State.setCur_cancels (s : State) (f : Ctx → Ctx) : (s.setCur f).cancels = s.cancels := rfl
@[simp] theorem State.setCur_joins (s : State) (f : Ctx → Ctx) : (s.setCur f).joins = s.joins := rfl
@[simp] theorem State.setCur_pend (s : State) (f : Ctx → Ctx) : (s.setCur f).pend = s.pend := rfl
@[simp] theorem State.setCur_detached (s : State) (f : Ctx → Ctx) : (s.setCur f).detached = s.detached := rfl
@[simp] theorem State.setCur_frags (s : State) (f : Ctx → Ctx) : (s.setCur f).frags = s.frags := rfl
@[simp] theorem State.setCur_chains (s : State) (f : Ctx → Ctx) : (s.setCur f).chains = s.chains := rfl
@[simp] theorem State.setCur_occ (s : State) (f : Ctx → Ctx) : (s.setCur f).occ = s.occ := rfl
@[simp] theorem State.setCur_spOwner (s : State) (f : Ctx → Ctx) : (s.setCur f).spOwner = s.spOwner := rfl
@[simp] theorem State.setCur_mem (s : State) (f : Ctx → Ctx) : (s.setCur f).mem = s.mem := rfl
@[simp] theorem State.setCur_accs (s : State) (f : Ctx → Ctx) : (s.setCur f).accs = s.accs := rfl
@[simp] theorem State.setCur_accVis (s : State) (f : Ctx → Ctx) : (s.setCur f).accVis = s.accVis := rfl
@[simp] theorem State.setCur_ecc (s : State) (f : Ctx → Ctx) : (s.setCur f).ecc = s.ecc := rfl
@[simp] theorem State.setCur_lastq (s : State) (f : Ctx → Ctx) : (s.setCur f).lastq = s.lastq := rfl
@[simp] theorem State.setCur_resv (s : State) (f : Ctx → Ctx) : (s.setCur f).resv = s.resv := rfl
@[simp] theorem State.setCur_holds (s : State) (f : Ctx → Ctx) : (s.setCur f).holds = s.holds := rfl
@[simp] theorem State.setCur_dies (s : State) (f : Ctx → Ctx) : (s.setCur f).dies = s.dies := rfl
@[simp] theorem State.setCur_links (s : State) (f : Ctx → Ctx) : (s.setCur f).links = s.links := rfl
@[simp] theorem State.setCur_fab (s : State) (f : Ctx → Ctx) : (s.setCur f).fab = s.fab := rfl
@[simp] theorem State.setCur_own (s : State) (f : Ctx → Ctx) : (s.setCur f).own = s.own := rfl
@[simp] theorem State.setCur_queues (s : State) (f : Ctx → Ctx) : (s.setCur f).queues = s.queues := rfl
@[simp] theorem State.setCur_twSeen (s : State) (f : Ctx → Ctx) : (s.setCur f).twSeen = s.twSeen := rfl
@[simp] theorem State.setCur_mbox (s : State) (f : Ctx → Ctx) : (s.setCur f).mbox = s.mbox := rfl
@[simp] theorem State.setCur_boot (s : State) (f : Ctx → Ctx) : (s.setCur f).boot = s.boot := rfl
@[simp] theorem State.setCur_errs (s : State) (f : Ctx → Ctx) : (s.setCur f).errs = s.errs := rfl
@[simp] theorem State.setCur_keys (s : State) (f : Ctx → Ctx) : (s.setCur f).keys = s.keys := rfl
@[simp] theorem State.setCur_msis (s : State) (f : Ctx → Ctx) : (s.setCur f).msis = s.msis := rfl
@[simp] theorem State.setCur_pkg (s : State) (f : Ctx → Ctx) : (s.setCur f).pkg = s.pkg := rfl
@[simp] theorem State.setCur_vlim (s : State) (f : Ctx → Ctx) : (s.setCur f).vlim = s.vlim := rfl
@[simp] theorem State.setCur_recs (s : State) (f : Ctx → Ctx) : (s.setCur f).recs = s.recs := rfl
@[simp] theorem State.setCur_rejects (s : State) (f : Ctx → Ctx) : (s.setCur f).rejects = s.rejects := rfl
@[simp] theorem State.setCur_hostBad (s : State) (f : Ctx → Ctx) : (s.setCur f).hostBad = s.hostBad := rfl
@[simp] theorem State.setCur_eccPart (s : State) (f : Ctx → Ctx) : (s.setCur f).eccPart = s.eccPart := rfl
@[simp] theorem State.setCur_late (s : State) (f : Ctx → Ctx) : (s.setCur f).late = s.late := rfl

@[simp] theorem State.modFrag_now (s : State) (i : Nat) (f : Frag → Frag) : (s.modFrag i f).now = s.now := rfl
@[simp] theorem State.modFrag_free (s : State) (i : Nat) (f : Frag → Frag) : (s.modFrag i f).free = s.free := rfl
@[simp] theorem State.modFrag_nextId (s : State) (i : Nat) (f : Frag → Frag) : (s.modFrag i f).nextId = s.nextId := rfl
@[simp] theorem State.modFrag_turns (s : State) (i : Nat) (f : Frag → Frag) : (s.modFrag i f).turns = s.turns := rfl
@[simp] theorem State.modFrag_cur (s : State) (i : Nat) (f : Frag → Frag) : (s.modFrag i f).cur = s.cur := rfl
@[simp] theorem State.modFrag_others (s : State) (i : Nat) (f : Frag → Frag) : (s.modFrag i f).others = s.others := rfl
@[simp] theorem State.modFrag_units (s : State) (i : Nat) (f : Frag → Frag) : (s.modFrag i f).units = s.units := rfl
@[simp] theorem State.modFrag_ents (s : State) (i : Nat) (f : Frag → Frag) : (s.modFrag i f).ents = s.ents := rfl
@[simp] theorem State.modFrag_launches (s : State) (i : Nat) (f : Frag → Frag) : (s.modFrag i f).launches = s.launches := rfl
@[simp] theorem State.modFrag_graphs (s : State) (i : Nat) (f : Frag → Frag) : (s.modFrag i f).graphs = s.graphs := rfl
@[simp] theorem State.modFrag_jobs (s : State) (i : Nat) (f : Frag → Frag) : (s.modFrag i f).jobs = s.jobs := rfl
@[simp] theorem State.modFrag_serials (s : State) (i : Nat) (f : Frag → Frag) : (s.modFrag i f).serials = s.serials := rfl
@[simp] theorem State.modFrag_returns (s : State) (i : Nat) (f : Frag → Frag) : (s.modFrag i f).returns = s.returns := rfl
@[simp] theorem State.modFrag_cancels (s : State) (i : Nat) (f : Frag → Frag) : (s.modFrag i f).cancels = s.cancels := rfl
@[simp] theorem State.modFrag_joins (s : State) (i : Nat) (f : Frag → Frag) : (s.modFrag i f).joins = s.joins := rfl
@[simp] theorem State.modFrag_pend (s : State) (i : Nat) (f : Frag → Frag) : (s.modFrag i f).pend = s.pend := rfl
@[simp] theorem State.modFrag_detached (s : State) (i : Nat) (f : Frag → Frag) : (s.modFrag i f).detached = s.detached := rfl
@[simp] theorem State.modFrag_chains (s : State) (i : Nat) (f : Frag → Frag) : (s.modFrag i f).chains = s.chains := rfl
@[simp] theorem State.modFrag_occ (s : State) (i : Nat) (f : Frag → Frag) : (s.modFrag i f).occ = s.occ := rfl
@[simp] theorem State.modFrag_spOwner (s : State) (i : Nat) (f : Frag → Frag) : (s.modFrag i f).spOwner = s.spOwner := rfl
@[simp] theorem State.modFrag_mem (s : State) (i : Nat) (f : Frag → Frag) : (s.modFrag i f).mem = s.mem := rfl
@[simp] theorem State.modFrag_accs (s : State) (i : Nat) (f : Frag → Frag) : (s.modFrag i f).accs = s.accs := rfl
@[simp] theorem State.modFrag_accVis (s : State) (i : Nat) (f : Frag → Frag) : (s.modFrag i f).accVis = s.accVis := rfl
@[simp] theorem State.modFrag_ecc (s : State) (i : Nat) (f : Frag → Frag) : (s.modFrag i f).ecc = s.ecc := rfl
@[simp] theorem State.modFrag_lastq (s : State) (i : Nat) (f : Frag → Frag) : (s.modFrag i f).lastq = s.lastq := rfl
@[simp] theorem State.modFrag_resv (s : State) (i : Nat) (f : Frag → Frag) : (s.modFrag i f).resv = s.resv := rfl
@[simp] theorem State.modFrag_holds (s : State) (i : Nat) (f : Frag → Frag) : (s.modFrag i f).holds = s.holds := rfl
@[simp] theorem State.modFrag_dies (s : State) (i : Nat) (f : Frag → Frag) : (s.modFrag i f).dies = s.dies := rfl
@[simp] theorem State.modFrag_links (s : State) (i : Nat) (f : Frag → Frag) : (s.modFrag i f).links = s.links := rfl
@[simp] theorem State.modFrag_fab (s : State) (i : Nat) (f : Frag → Frag) : (s.modFrag i f).fab = s.fab := rfl
@[simp] theorem State.modFrag_own (s : State) (i : Nat) (f : Frag → Frag) : (s.modFrag i f).own = s.own := rfl
@[simp] theorem State.modFrag_queues (s : State) (i : Nat) (f : Frag → Frag) : (s.modFrag i f).queues = s.queues := rfl
@[simp] theorem State.modFrag_twSeen (s : State) (i : Nat) (f : Frag → Frag) : (s.modFrag i f).twSeen = s.twSeen := rfl
@[simp] theorem State.modFrag_mbox (s : State) (i : Nat) (f : Frag → Frag) : (s.modFrag i f).mbox = s.mbox := rfl
@[simp] theorem State.modFrag_boot (s : State) (i : Nat) (f : Frag → Frag) : (s.modFrag i f).boot = s.boot := rfl
@[simp] theorem State.modFrag_errs (s : State) (i : Nat) (f : Frag → Frag) : (s.modFrag i f).errs = s.errs := rfl
@[simp] theorem State.modFrag_keys (s : State) (i : Nat) (f : Frag → Frag) : (s.modFrag i f).keys = s.keys := rfl
@[simp] theorem State.modFrag_msis (s : State) (i : Nat) (f : Frag → Frag) : (s.modFrag i f).msis = s.msis := rfl
@[simp] theorem State.modFrag_pkg (s : State) (i : Nat) (f : Frag → Frag) : (s.modFrag i f).pkg = s.pkg := rfl
@[simp] theorem State.modFrag_vlim (s : State) (i : Nat) (f : Frag → Frag) : (s.modFrag i f).vlim = s.vlim := rfl
@[simp] theorem State.modFrag_recs (s : State) (i : Nat) (f : Frag → Frag) : (s.modFrag i f).recs = s.recs := rfl
@[simp] theorem State.modFrag_rejects (s : State) (i : Nat) (f : Frag → Frag) : (s.modFrag i f).rejects = s.rejects := rfl
@[simp] theorem State.modFrag_hostBad (s : State) (i : Nat) (f : Frag → Frag) : (s.modFrag i f).hostBad = s.hostBad := rfl
@[simp] theorem State.modFrag_eccPart (s : State) (i : Nat) (f : Frag → Frag) : (s.modFrag i f).eccPart = s.eccPart := rfl
@[simp] theorem State.modFrag_late (s : State) (i : Nat) (f : Frag → Frag) : (s.modFrag i f).late = s.late := rfl

@[simp] theorem State.modDie_now (s : State) (d : Nat) (f : Die → Die) : (s.modDie d f).now = s.now := rfl
@[simp] theorem State.modDie_free (s : State) (d : Nat) (f : Die → Die) : (s.modDie d f).free = s.free := rfl
@[simp] theorem State.modDie_nextId (s : State) (d : Nat) (f : Die → Die) : (s.modDie d f).nextId = s.nextId := rfl
@[simp] theorem State.modDie_turns (s : State) (d : Nat) (f : Die → Die) : (s.modDie d f).turns = s.turns := rfl
@[simp] theorem State.modDie_cur (s : State) (d : Nat) (f : Die → Die) : (s.modDie d f).cur = s.cur := rfl
@[simp] theorem State.modDie_others (s : State) (d : Nat) (f : Die → Die) : (s.modDie d f).others = s.others := rfl
@[simp] theorem State.modDie_units (s : State) (d : Nat) (f : Die → Die) : (s.modDie d f).units = s.units := rfl
@[simp] theorem State.modDie_ents (s : State) (d : Nat) (f : Die → Die) : (s.modDie d f).ents = s.ents := rfl
@[simp] theorem State.modDie_launches (s : State) (d : Nat) (f : Die → Die) : (s.modDie d f).launches = s.launches := rfl
@[simp] theorem State.modDie_graphs (s : State) (d : Nat) (f : Die → Die) : (s.modDie d f).graphs = s.graphs := rfl
@[simp] theorem State.modDie_jobs (s : State) (d : Nat) (f : Die → Die) : (s.modDie d f).jobs = s.jobs := rfl
@[simp] theorem State.modDie_serials (s : State) (d : Nat) (f : Die → Die) : (s.modDie d f).serials = s.serials := rfl
@[simp] theorem State.modDie_returns (s : State) (d : Nat) (f : Die → Die) : (s.modDie d f).returns = s.returns := rfl
@[simp] theorem State.modDie_cancels (s : State) (d : Nat) (f : Die → Die) : (s.modDie d f).cancels = s.cancels := rfl
@[simp] theorem State.modDie_joins (s : State) (d : Nat) (f : Die → Die) : (s.modDie d f).joins = s.joins := rfl
@[simp] theorem State.modDie_pend (s : State) (d : Nat) (f : Die → Die) : (s.modDie d f).pend = s.pend := rfl
@[simp] theorem State.modDie_detached (s : State) (d : Nat) (f : Die → Die) : (s.modDie d f).detached = s.detached := rfl
@[simp] theorem State.modDie_frags (s : State) (d : Nat) (f : Die → Die) : (s.modDie d f).frags = s.frags := rfl
@[simp] theorem State.modDie_chains (s : State) (d : Nat) (f : Die → Die) : (s.modDie d f).chains = s.chains := rfl
@[simp] theorem State.modDie_occ (s : State) (d : Nat) (f : Die → Die) : (s.modDie d f).occ = s.occ := rfl
@[simp] theorem State.modDie_spOwner (s : State) (d : Nat) (f : Die → Die) : (s.modDie d f).spOwner = s.spOwner := rfl
@[simp] theorem State.modDie_mem (s : State) (d : Nat) (f : Die → Die) : (s.modDie d f).mem = s.mem := rfl
@[simp] theorem State.modDie_accs (s : State) (d : Nat) (f : Die → Die) : (s.modDie d f).accs = s.accs := rfl
@[simp] theorem State.modDie_accVis (s : State) (d : Nat) (f : Die → Die) : (s.modDie d f).accVis = s.accVis := rfl
@[simp] theorem State.modDie_ecc (s : State) (d : Nat) (f : Die → Die) : (s.modDie d f).ecc = s.ecc := rfl
@[simp] theorem State.modDie_lastq (s : State) (d : Nat) (f : Die → Die) : (s.modDie d f).lastq = s.lastq := rfl
@[simp] theorem State.modDie_resv (s : State) (d : Nat) (f : Die → Die) : (s.modDie d f).resv = s.resv := rfl
@[simp] theorem State.modDie_holds (s : State) (d : Nat) (f : Die → Die) : (s.modDie d f).holds = s.holds := rfl
@[simp] theorem State.modDie_links (s : State) (d : Nat) (f : Die → Die) : (s.modDie d f).links = s.links := rfl
@[simp] theorem State.modDie_fab (s : State) (d : Nat) (f : Die → Die) : (s.modDie d f).fab = s.fab := rfl
@[simp] theorem State.modDie_own (s : State) (d : Nat) (f : Die → Die) : (s.modDie d f).own = s.own := rfl
@[simp] theorem State.modDie_queues (s : State) (d : Nat) (f : Die → Die) : (s.modDie d f).queues = s.queues := rfl
@[simp] theorem State.modDie_twSeen (s : State) (d : Nat) (f : Die → Die) : (s.modDie d f).twSeen = s.twSeen := rfl
@[simp] theorem State.modDie_mbox (s : State) (d : Nat) (f : Die → Die) : (s.modDie d f).mbox = s.mbox := rfl
@[simp] theorem State.modDie_boot (s : State) (d : Nat) (f : Die → Die) : (s.modDie d f).boot = s.boot := rfl
@[simp] theorem State.modDie_errs (s : State) (d : Nat) (f : Die → Die) : (s.modDie d f).errs = s.errs := rfl
@[simp] theorem State.modDie_keys (s : State) (d : Nat) (f : Die → Die) : (s.modDie d f).keys = s.keys := rfl
@[simp] theorem State.modDie_msis (s : State) (d : Nat) (f : Die → Die) : (s.modDie d f).msis = s.msis := rfl
@[simp] theorem State.modDie_pkg (s : State) (d : Nat) (f : Die → Die) : (s.modDie d f).pkg = s.pkg := rfl
@[simp] theorem State.modDie_vlim (s : State) (d : Nat) (f : Die → Die) : (s.modDie d f).vlim = s.vlim := rfl
@[simp] theorem State.modDie_recs (s : State) (d : Nat) (f : Die → Die) : (s.modDie d f).recs = s.recs := rfl
@[simp] theorem State.modDie_rejects (s : State) (d : Nat) (f : Die → Die) : (s.modDie d f).rejects = s.rejects := rfl
@[simp] theorem State.modDie_hostBad (s : State) (d : Nat) (f : Die → Die) : (s.modDie d f).hostBad = s.hostBad := rfl
@[simp] theorem State.modDie_eccPart (s : State) (d : Nat) (f : Die → Die) : (s.modDie d f).eccPart = s.eccPart := rfl
@[simp] theorem State.modDie_late (s : State) (d : Nat) (f : Die → Die) : (s.modDie d f).late = s.late := rfl

@[simp] theorem State.modPort_now (s : State) (d p : Nat) (f : Port → Port) : (s.modPort d p f).now = s.now := rfl
@[simp] theorem State.modPort_free (s : State) (d p : Nat) (f : Port → Port) : (s.modPort d p f).free = s.free := rfl
@[simp] theorem State.modPort_nextId (s : State) (d p : Nat) (f : Port → Port) : (s.modPort d p f).nextId = s.nextId := rfl
@[simp] theorem State.modPort_turns (s : State) (d p : Nat) (f : Port → Port) : (s.modPort d p f).turns = s.turns := rfl
@[simp] theorem State.modPort_cur (s : State) (d p : Nat) (f : Port → Port) : (s.modPort d p f).cur = s.cur := rfl
@[simp] theorem State.modPort_others (s : State) (d p : Nat) (f : Port → Port) : (s.modPort d p f).others = s.others := rfl
@[simp] theorem State.modPort_units (s : State) (d p : Nat) (f : Port → Port) : (s.modPort d p f).units = s.units := rfl
@[simp] theorem State.modPort_ents (s : State) (d p : Nat) (f : Port → Port) : (s.modPort d p f).ents = s.ents := rfl
@[simp] theorem State.modPort_launches (s : State) (d p : Nat) (f : Port → Port) : (s.modPort d p f).launches = s.launches := rfl
@[simp] theorem State.modPort_graphs (s : State) (d p : Nat) (f : Port → Port) : (s.modPort d p f).graphs = s.graphs := rfl
@[simp] theorem State.modPort_jobs (s : State) (d p : Nat) (f : Port → Port) : (s.modPort d p f).jobs = s.jobs := rfl
@[simp] theorem State.modPort_serials (s : State) (d p : Nat) (f : Port → Port) : (s.modPort d p f).serials = s.serials := rfl
@[simp] theorem State.modPort_returns (s : State) (d p : Nat) (f : Port → Port) : (s.modPort d p f).returns = s.returns := rfl
@[simp] theorem State.modPort_cancels (s : State) (d p : Nat) (f : Port → Port) : (s.modPort d p f).cancels = s.cancels := rfl
@[simp] theorem State.modPort_joins (s : State) (d p : Nat) (f : Port → Port) : (s.modPort d p f).joins = s.joins := rfl
@[simp] theorem State.modPort_pend (s : State) (d p : Nat) (f : Port → Port) : (s.modPort d p f).pend = s.pend := rfl
@[simp] theorem State.modPort_detached (s : State) (d p : Nat) (f : Port → Port) : (s.modPort d p f).detached = s.detached := rfl
@[simp] theorem State.modPort_frags (s : State) (d p : Nat) (f : Port → Port) : (s.modPort d p f).frags = s.frags := rfl
@[simp] theorem State.modPort_chains (s : State) (d p : Nat) (f : Port → Port) : (s.modPort d p f).chains = s.chains := rfl
@[simp] theorem State.modPort_occ (s : State) (d p : Nat) (f : Port → Port) : (s.modPort d p f).occ = s.occ := rfl
@[simp] theorem State.modPort_spOwner (s : State) (d p : Nat) (f : Port → Port) : (s.modPort d p f).spOwner = s.spOwner := rfl
@[simp] theorem State.modPort_mem (s : State) (d p : Nat) (f : Port → Port) : (s.modPort d p f).mem = s.mem := rfl
@[simp] theorem State.modPort_accs (s : State) (d p : Nat) (f : Port → Port) : (s.modPort d p f).accs = s.accs := rfl
@[simp] theorem State.modPort_accVis (s : State) (d p : Nat) (f : Port → Port) : (s.modPort d p f).accVis = s.accVis := rfl
@[simp] theorem State.modPort_ecc (s : State) (d p : Nat) (f : Port → Port) : (s.modPort d p f).ecc = s.ecc := rfl
@[simp] theorem State.modPort_lastq (s : State) (d p : Nat) (f : Port → Port) : (s.modPort d p f).lastq = s.lastq := rfl
@[simp] theorem State.modPort_resv (s : State) (d p : Nat) (f : Port → Port) : (s.modPort d p f).resv = s.resv := rfl
@[simp] theorem State.modPort_holds (s : State) (d p : Nat) (f : Port → Port) : (s.modPort d p f).holds = s.holds := rfl
@[simp] theorem State.modPort_links (s : State) (d p : Nat) (f : Port → Port) : (s.modPort d p f).links = s.links := rfl
@[simp] theorem State.modPort_own (s : State) (d p : Nat) (f : Port → Port) : (s.modPort d p f).own = s.own := rfl
@[simp] theorem State.modPort_queues (s : State) (d p : Nat) (f : Port → Port) : (s.modPort d p f).queues = s.queues := rfl
@[simp] theorem State.modPort_twSeen (s : State) (d p : Nat) (f : Port → Port) : (s.modPort d p f).twSeen = s.twSeen := rfl
@[simp] theorem State.modPort_mbox (s : State) (d p : Nat) (f : Port → Port) : (s.modPort d p f).mbox = s.mbox := rfl
@[simp] theorem State.modPort_boot (s : State) (d p : Nat) (f : Port → Port) : (s.modPort d p f).boot = s.boot := rfl
@[simp] theorem State.modPort_errs (s : State) (d p : Nat) (f : Port → Port) : (s.modPort d p f).errs = s.errs := rfl
@[simp] theorem State.modPort_keys (s : State) (d p : Nat) (f : Port → Port) : (s.modPort d p f).keys = s.keys := rfl
@[simp] theorem State.modPort_msis (s : State) (d p : Nat) (f : Port → Port) : (s.modPort d p f).msis = s.msis := rfl
@[simp] theorem State.modPort_pkg (s : State) (d p : Nat) (f : Port → Port) : (s.modPort d p f).pkg = s.pkg := rfl
@[simp] theorem State.modPort_vlim (s : State) (d p : Nat) (f : Port → Port) : (s.modPort d p f).vlim = s.vlim := rfl
@[simp] theorem State.modPort_recs (s : State) (d p : Nat) (f : Port → Port) : (s.modPort d p f).recs = s.recs := rfl
@[simp] theorem State.modPort_rejects (s : State) (d p : Nat) (f : Port → Port) : (s.modPort d p f).rejects = s.rejects := rfl
@[simp] theorem State.modPort_hostBad (s : State) (d p : Nat) (f : Port → Port) : (s.modPort d p f).hostBad = s.hostBad := rfl
@[simp] theorem State.modPort_eccPart (s : State) (d p : Nat) (f : Port → Port) : (s.modPort d p f).eccPart = s.eccPart := rfl
@[simp] theorem State.modPort_late (s : State) (d p : Nat) (f : Port → Port) : (s.modPort d p f).late = s.late := rfl
@[simp] theorem State.modPort_dies (s : State) (d p : Nat) (f : Port → Port) : (s.modPort d p f).dies = s.dies := rfl

@[simp] theorem State.modHq_now (s : State) (q : Nat) (f : HQueue → HQueue) : (s.modHq q f).now = s.now := rfl
@[simp] theorem State.modHq_free (s : State) (q : Nat) (f : HQueue → HQueue) : (s.modHq q f).free = s.free := rfl
@[simp] theorem State.modHq_nextId (s : State) (q : Nat) (f : HQueue → HQueue) : (s.modHq q f).nextId = s.nextId := rfl
@[simp] theorem State.modHq_turns (s : State) (q : Nat) (f : HQueue → HQueue) : (s.modHq q f).turns = s.turns := rfl
@[simp] theorem State.modHq_cur (s : State) (q : Nat) (f : HQueue → HQueue) : (s.modHq q f).cur = s.cur := rfl
@[simp] theorem State.modHq_others (s : State) (q : Nat) (f : HQueue → HQueue) : (s.modHq q f).others = s.others := rfl
@[simp] theorem State.modHq_units (s : State) (q : Nat) (f : HQueue → HQueue) : (s.modHq q f).units = s.units := rfl
@[simp] theorem State.modHq_ents (s : State) (q : Nat) (f : HQueue → HQueue) : (s.modHq q f).ents = s.ents := rfl
@[simp] theorem State.modHq_launches (s : State) (q : Nat) (f : HQueue → HQueue) : (s.modHq q f).launches = s.launches := rfl
@[simp] theorem State.modHq_graphs (s : State) (q : Nat) (f : HQueue → HQueue) : (s.modHq q f).graphs = s.graphs := rfl
@[simp] theorem State.modHq_jobs (s : State) (q : Nat) (f : HQueue → HQueue) : (s.modHq q f).jobs = s.jobs := rfl
@[simp] theorem State.modHq_serials (s : State) (q : Nat) (f : HQueue → HQueue) : (s.modHq q f).serials = s.serials := rfl
@[simp] theorem State.modHq_returns (s : State) (q : Nat) (f : HQueue → HQueue) : (s.modHq q f).returns = s.returns := rfl
@[simp] theorem State.modHq_cancels (s : State) (q : Nat) (f : HQueue → HQueue) : (s.modHq q f).cancels = s.cancels := rfl
@[simp] theorem State.modHq_joins (s : State) (q : Nat) (f : HQueue → HQueue) : (s.modHq q f).joins = s.joins := rfl
@[simp] theorem State.modHq_pend (s : State) (q : Nat) (f : HQueue → HQueue) : (s.modHq q f).pend = s.pend := rfl
@[simp] theorem State.modHq_detached (s : State) (q : Nat) (f : HQueue → HQueue) : (s.modHq q f).detached = s.detached := rfl
@[simp] theorem State.modHq_frags (s : State) (q : Nat) (f : HQueue → HQueue) : (s.modHq q f).frags = s.frags := rfl
@[simp] theorem State.modHq_chains (s : State) (q : Nat) (f : HQueue → HQueue) : (s.modHq q f).chains = s.chains := rfl
@[simp] theorem State.modHq_occ (s : State) (q : Nat) (f : HQueue → HQueue) : (s.modHq q f).occ = s.occ := rfl
@[simp] theorem State.modHq_spOwner (s : State) (q : Nat) (f : HQueue → HQueue) : (s.modHq q f).spOwner = s.spOwner := rfl
@[simp] theorem State.modHq_mem (s : State) (q : Nat) (f : HQueue → HQueue) : (s.modHq q f).mem = s.mem := rfl
@[simp] theorem State.modHq_accs (s : State) (q : Nat) (f : HQueue → HQueue) : (s.modHq q f).accs = s.accs := rfl
@[simp] theorem State.modHq_accVis (s : State) (q : Nat) (f : HQueue → HQueue) : (s.modHq q f).accVis = s.accVis := rfl
@[simp] theorem State.modHq_ecc (s : State) (q : Nat) (f : HQueue → HQueue) : (s.modHq q f).ecc = s.ecc := rfl
@[simp] theorem State.modHq_lastq (s : State) (q : Nat) (f : HQueue → HQueue) : (s.modHq q f).lastq = s.lastq := rfl
@[simp] theorem State.modHq_resv (s : State) (q : Nat) (f : HQueue → HQueue) : (s.modHq q f).resv = s.resv := rfl
@[simp] theorem State.modHq_holds (s : State) (q : Nat) (f : HQueue → HQueue) : (s.modHq q f).holds = s.holds := rfl
@[simp] theorem State.modHq_dies (s : State) (q : Nat) (f : HQueue → HQueue) : (s.modHq q f).dies = s.dies := rfl
@[simp] theorem State.modHq_links (s : State) (q : Nat) (f : HQueue → HQueue) : (s.modHq q f).links = s.links := rfl
@[simp] theorem State.modHq_fab (s : State) (q : Nat) (f : HQueue → HQueue) : (s.modHq q f).fab = s.fab := rfl
@[simp] theorem State.modHq_own (s : State) (q : Nat) (f : HQueue → HQueue) : (s.modHq q f).own = s.own := rfl
@[simp] theorem State.modHq_twSeen (s : State) (q : Nat) (f : HQueue → HQueue) : (s.modHq q f).twSeen = s.twSeen := rfl
@[simp] theorem State.modHq_mbox (s : State) (q : Nat) (f : HQueue → HQueue) : (s.modHq q f).mbox = s.mbox := rfl
@[simp] theorem State.modHq_boot (s : State) (q : Nat) (f : HQueue → HQueue) : (s.modHq q f).boot = s.boot := rfl
@[simp] theorem State.modHq_errs (s : State) (q : Nat) (f : HQueue → HQueue) : (s.modHq q f).errs = s.errs := rfl
@[simp] theorem State.modHq_keys (s : State) (q : Nat) (f : HQueue → HQueue) : (s.modHq q f).keys = s.keys := rfl
@[simp] theorem State.modHq_msis (s : State) (q : Nat) (f : HQueue → HQueue) : (s.modHq q f).msis = s.msis := rfl
@[simp] theorem State.modHq_pkg (s : State) (q : Nat) (f : HQueue → HQueue) : (s.modHq q f).pkg = s.pkg := rfl
@[simp] theorem State.modHq_vlim (s : State) (q : Nat) (f : HQueue → HQueue) : (s.modHq q f).vlim = s.vlim := rfl
@[simp] theorem State.modHq_recs (s : State) (q : Nat) (f : HQueue → HQueue) : (s.modHq q f).recs = s.recs := rfl
@[simp] theorem State.modHq_rejects (s : State) (q : Nat) (f : HQueue → HQueue) : (s.modHq q f).rejects = s.rejects := rfl
@[simp] theorem State.modHq_hostBad (s : State) (q : Nat) (f : HQueue → HQueue) : (s.modHq q f).hostBad = s.hostBad := rfl
@[simp] theorem State.modHq_eccPart (s : State) (q : Nat) (f : HQueue → HQueue) : (s.modHq q f).eccPart = s.eccPart := rfl
@[simp] theorem State.modHq_late (s : State) (q : Nat) (f : HQueue → HQueue) : (s.modHq q f).late = s.late := rfl

@[simp] theorem State.modLink_now (s : State) (a b : Nat) (f : Link → Link) : (s.modLink a b f).now = s.now := rfl
@[simp] theorem State.modLink_free (s : State) (a b : Nat) (f : Link → Link) : (s.modLink a b f).free = s.free := rfl
@[simp] theorem State.modLink_nextId (s : State) (a b : Nat) (f : Link → Link) : (s.modLink a b f).nextId = s.nextId := rfl
@[simp] theorem State.modLink_turns (s : State) (a b : Nat) (f : Link → Link) : (s.modLink a b f).turns = s.turns := rfl
@[simp] theorem State.modLink_cur (s : State) (a b : Nat) (f : Link → Link) : (s.modLink a b f).cur = s.cur := rfl
@[simp] theorem State.modLink_others (s : State) (a b : Nat) (f : Link → Link) : (s.modLink a b f).others = s.others := rfl
@[simp] theorem State.modLink_units (s : State) (a b : Nat) (f : Link → Link) : (s.modLink a b f).units = s.units := rfl
@[simp] theorem State.modLink_ents (s : State) (a b : Nat) (f : Link → Link) : (s.modLink a b f).ents = s.ents := rfl
@[simp] theorem State.modLink_launches (s : State) (a b : Nat) (f : Link → Link) : (s.modLink a b f).launches = s.launches := rfl
@[simp] theorem State.modLink_graphs (s : State) (a b : Nat) (f : Link → Link) : (s.modLink a b f).graphs = s.graphs := rfl
@[simp] theorem State.modLink_jobs (s : State) (a b : Nat) (f : Link → Link) : (s.modLink a b f).jobs = s.jobs := rfl
@[simp] theorem State.modLink_serials (s : State) (a b : Nat) (f : Link → Link) : (s.modLink a b f).serials = s.serials := rfl
@[simp] theorem State.modLink_returns (s : State) (a b : Nat) (f : Link → Link) : (s.modLink a b f).returns = s.returns := rfl
@[simp] theorem State.modLink_cancels (s : State) (a b : Nat) (f : Link → Link) : (s.modLink a b f).cancels = s.cancels := rfl
@[simp] theorem State.modLink_joins (s : State) (a b : Nat) (f : Link → Link) : (s.modLink a b f).joins = s.joins := rfl
@[simp] theorem State.modLink_pend (s : State) (a b : Nat) (f : Link → Link) : (s.modLink a b f).pend = s.pend := rfl
@[simp] theorem State.modLink_detached (s : State) (a b : Nat) (f : Link → Link) : (s.modLink a b f).detached = s.detached := rfl
@[simp] theorem State.modLink_frags (s : State) (a b : Nat) (f : Link → Link) : (s.modLink a b f).frags = s.frags := rfl
@[simp] theorem State.modLink_chains (s : State) (a b : Nat) (f : Link → Link) : (s.modLink a b f).chains = s.chains := rfl
@[simp] theorem State.modLink_occ (s : State) (a b : Nat) (f : Link → Link) : (s.modLink a b f).occ = s.occ := rfl
@[simp] theorem State.modLink_spOwner (s : State) (a b : Nat) (f : Link → Link) : (s.modLink a b f).spOwner = s.spOwner := rfl
@[simp] theorem State.modLink_mem (s : State) (a b : Nat) (f : Link → Link) : (s.modLink a b f).mem = s.mem := rfl
@[simp] theorem State.modLink_accs (s : State) (a b : Nat) (f : Link → Link) : (s.modLink a b f).accs = s.accs := rfl
@[simp] theorem State.modLink_accVis (s : State) (a b : Nat) (f : Link → Link) : (s.modLink a b f).accVis = s.accVis := rfl
@[simp] theorem State.modLink_ecc (s : State) (a b : Nat) (f : Link → Link) : (s.modLink a b f).ecc = s.ecc := rfl
@[simp] theorem State.modLink_lastq (s : State) (a b : Nat) (f : Link → Link) : (s.modLink a b f).lastq = s.lastq := rfl
@[simp] theorem State.modLink_resv (s : State) (a b : Nat) (f : Link → Link) : (s.modLink a b f).resv = s.resv := rfl
@[simp] theorem State.modLink_holds (s : State) (a b : Nat) (f : Link → Link) : (s.modLink a b f).holds = s.holds := rfl
@[simp] theorem State.modLink_dies (s : State) (a b : Nat) (f : Link → Link) : (s.modLink a b f).dies = s.dies := rfl
@[simp] theorem State.modLink_fab (s : State) (a b : Nat) (f : Link → Link) : (s.modLink a b f).fab = s.fab := rfl
@[simp] theorem State.modLink_own (s : State) (a b : Nat) (f : Link → Link) : (s.modLink a b f).own = s.own := rfl
@[simp] theorem State.modLink_queues (s : State) (a b : Nat) (f : Link → Link) : (s.modLink a b f).queues = s.queues := rfl
@[simp] theorem State.modLink_twSeen (s : State) (a b : Nat) (f : Link → Link) : (s.modLink a b f).twSeen = s.twSeen := rfl
@[simp] theorem State.modLink_mbox (s : State) (a b : Nat) (f : Link → Link) : (s.modLink a b f).mbox = s.mbox := rfl
@[simp] theorem State.modLink_boot (s : State) (a b : Nat) (f : Link → Link) : (s.modLink a b f).boot = s.boot := rfl
@[simp] theorem State.modLink_errs (s : State) (a b : Nat) (f : Link → Link) : (s.modLink a b f).errs = s.errs := rfl
@[simp] theorem State.modLink_keys (s : State) (a b : Nat) (f : Link → Link) : (s.modLink a b f).keys = s.keys := rfl
@[simp] theorem State.modLink_msis (s : State) (a b : Nat) (f : Link → Link) : (s.modLink a b f).msis = s.msis := rfl
@[simp] theorem State.modLink_pkg (s : State) (a b : Nat) (f : Link → Link) : (s.modLink a b f).pkg = s.pkg := rfl
@[simp] theorem State.modLink_vlim (s : State) (a b : Nat) (f : Link → Link) : (s.modLink a b f).vlim = s.vlim := rfl
@[simp] theorem State.modLink_recs (s : State) (a b : Nat) (f : Link → Link) : (s.modLink a b f).recs = s.recs := rfl
@[simp] theorem State.modLink_rejects (s : State) (a b : Nat) (f : Link → Link) : (s.modLink a b f).rejects = s.rejects := rfl
@[simp] theorem State.modLink_hostBad (s : State) (a b : Nat) (f : Link → Link) : (s.modLink a b f).hostBad = s.hostBad := rfl
@[simp] theorem State.modLink_eccPart (s : State) (a b : Nat) (f : Link → Link) : (s.modLink a b f).eccPart = s.eccPart := rfl
@[simp] theorem State.modLink_late (s : State) (a b : Nat) (f : Link → Link) : (s.modLink a b f).late = s.late := rfl

@[simp] theorem State.count_now (s : State) (f : Errs → Errs) : (s.count f).now = s.now := rfl
@[simp] theorem State.count_free (s : State) (f : Errs → Errs) : (s.count f).free = s.free := rfl
@[simp] theorem State.count_nextId (s : State) (f : Errs → Errs) : (s.count f).nextId = s.nextId := rfl
@[simp] theorem State.count_turns (s : State) (f : Errs → Errs) : (s.count f).turns = s.turns := rfl
@[simp] theorem State.count_cur (s : State) (f : Errs → Errs) : (s.count f).cur = s.cur := rfl
@[simp] theorem State.count_others (s : State) (f : Errs → Errs) : (s.count f).others = s.others := rfl
@[simp] theorem State.count_units (s : State) (f : Errs → Errs) : (s.count f).units = s.units := rfl
@[simp] theorem State.count_ents (s : State) (f : Errs → Errs) : (s.count f).ents = s.ents := rfl
@[simp] theorem State.count_launches (s : State) (f : Errs → Errs) : (s.count f).launches = s.launches := rfl
@[simp] theorem State.count_graphs (s : State) (f : Errs → Errs) : (s.count f).graphs = s.graphs := rfl
@[simp] theorem State.count_jobs (s : State) (f : Errs → Errs) : (s.count f).jobs = s.jobs := rfl
@[simp] theorem State.count_serials (s : State) (f : Errs → Errs) : (s.count f).serials = s.serials := rfl
@[simp] theorem State.count_returns (s : State) (f : Errs → Errs) : (s.count f).returns = s.returns := rfl
@[simp] theorem State.count_cancels (s : State) (f : Errs → Errs) : (s.count f).cancels = s.cancels := rfl
@[simp] theorem State.count_joins (s : State) (f : Errs → Errs) : (s.count f).joins = s.joins := rfl
@[simp] theorem State.count_pend (s : State) (f : Errs → Errs) : (s.count f).pend = s.pend := rfl
@[simp] theorem State.count_detached (s : State) (f : Errs → Errs) : (s.count f).detached = s.detached := rfl
@[simp] theorem State.count_frags (s : State) (f : Errs → Errs) : (s.count f).frags = s.frags := rfl
@[simp] theorem State.count_chains (s : State) (f : Errs → Errs) : (s.count f).chains = s.chains := rfl
@[simp] theorem State.count_occ (s : State) (f : Errs → Errs) : (s.count f).occ = s.occ := rfl
@[simp] theorem State.count_spOwner (s : State) (f : Errs → Errs) : (s.count f).spOwner = s.spOwner := rfl
@[simp] theorem State.count_mem (s : State) (f : Errs → Errs) : (s.count f).mem = s.mem := rfl
@[simp] theorem State.count_accs (s : State) (f : Errs → Errs) : (s.count f).accs = s.accs := rfl
@[simp] theorem State.count_accVis (s : State) (f : Errs → Errs) : (s.count f).accVis = s.accVis := rfl
@[simp] theorem State.count_ecc (s : State) (f : Errs → Errs) : (s.count f).ecc = s.ecc := rfl
@[simp] theorem State.count_lastq (s : State) (f : Errs → Errs) : (s.count f).lastq = s.lastq := rfl
@[simp] theorem State.count_resv (s : State) (f : Errs → Errs) : (s.count f).resv = s.resv := rfl
@[simp] theorem State.count_holds (s : State) (f : Errs → Errs) : (s.count f).holds = s.holds := rfl
@[simp] theorem State.count_dies (s : State) (f : Errs → Errs) : (s.count f).dies = s.dies := rfl
@[simp] theorem State.count_links (s : State) (f : Errs → Errs) : (s.count f).links = s.links := rfl
@[simp] theorem State.count_fab (s : State) (f : Errs → Errs) : (s.count f).fab = s.fab := rfl
@[simp] theorem State.count_own (s : State) (f : Errs → Errs) : (s.count f).own = s.own := rfl
@[simp] theorem State.count_queues (s : State) (f : Errs → Errs) : (s.count f).queues = s.queues := rfl
@[simp] theorem State.count_twSeen (s : State) (f : Errs → Errs) : (s.count f).twSeen = s.twSeen := rfl
@[simp] theorem State.count_mbox (s : State) (f : Errs → Errs) : (s.count f).mbox = s.mbox := rfl
@[simp] theorem State.count_boot (s : State) (f : Errs → Errs) : (s.count f).boot = s.boot := rfl
@[simp] theorem State.count_keys (s : State) (f : Errs → Errs) : (s.count f).keys = s.keys := rfl
@[simp] theorem State.count_msis (s : State) (f : Errs → Errs) : (s.count f).msis = s.msis := rfl
@[simp] theorem State.count_pkg (s : State) (f : Errs → Errs) : (s.count f).pkg = s.pkg := rfl
@[simp] theorem State.count_vlim (s : State) (f : Errs → Errs) : (s.count f).vlim = s.vlim := rfl
@[simp] theorem State.count_recs (s : State) (f : Errs → Errs) : (s.count f).recs = s.recs := rfl
@[simp] theorem State.count_rejects (s : State) (f : Errs → Errs) : (s.count f).rejects = s.rejects := rfl
@[simp] theorem State.count_hostBad (s : State) (f : Errs → Errs) : (s.count f).hostBad = s.hostBad := rfl
@[simp] theorem State.count_eccPart (s : State) (f : Errs → Errs) : (s.count f).eccPart = s.eccPart := rfl
@[simp] theorem State.count_late (s : State) (f : Errs → Errs) : (s.count f).late = s.late := rfl

@[simp] theorem State.send_now (s : State) (p : FPkt) : (s.send p).now = s.now := rfl
@[simp] theorem State.send_free (s : State) (p : FPkt) : (s.send p).free = s.free := rfl
@[simp] theorem State.send_nextId (s : State) (p : FPkt) : (s.send p).nextId = s.nextId := rfl
@[simp] theorem State.send_turns (s : State) (p : FPkt) : (s.send p).turns = s.turns := rfl
@[simp] theorem State.send_cur (s : State) (p : FPkt) : (s.send p).cur = s.cur := rfl
@[simp] theorem State.send_others (s : State) (p : FPkt) : (s.send p).others = s.others := rfl
@[simp] theorem State.send_units (s : State) (p : FPkt) : (s.send p).units = s.units := rfl
@[simp] theorem State.send_ents (s : State) (p : FPkt) : (s.send p).ents = s.ents := rfl
@[simp] theorem State.send_launches (s : State) (p : FPkt) : (s.send p).launches = s.launches := rfl
@[simp] theorem State.send_graphs (s : State) (p : FPkt) : (s.send p).graphs = s.graphs := rfl
@[simp] theorem State.send_jobs (s : State) (p : FPkt) : (s.send p).jobs = s.jobs := rfl
@[simp] theorem State.send_serials (s : State) (p : FPkt) : (s.send p).serials = s.serials := rfl
@[simp] theorem State.send_returns (s : State) (p : FPkt) : (s.send p).returns = s.returns := rfl
@[simp] theorem State.send_cancels (s : State) (p : FPkt) : (s.send p).cancels = s.cancels := rfl
@[simp] theorem State.send_joins (s : State) (p : FPkt) : (s.send p).joins = s.joins := rfl
@[simp] theorem State.send_pend (s : State) (p : FPkt) : (s.send p).pend = s.pend := rfl
@[simp] theorem State.send_detached (s : State) (p : FPkt) : (s.send p).detached = s.detached := rfl
@[simp] theorem State.send_frags (s : State) (p : FPkt) : (s.send p).frags = s.frags := rfl
@[simp] theorem State.send_chains (s : State) (p : FPkt) : (s.send p).chains = s.chains := rfl
@[simp] theorem State.send_occ (s : State) (p : FPkt) : (s.send p).occ = s.occ := rfl
@[simp] theorem State.send_spOwner (s : State) (p : FPkt) : (s.send p).spOwner = s.spOwner := rfl
@[simp] theorem State.send_mem (s : State) (p : FPkt) : (s.send p).mem = s.mem := rfl
@[simp] theorem State.send_accs (s : State) (p : FPkt) : (s.send p).accs = s.accs := rfl
@[simp] theorem State.send_accVis (s : State) (p : FPkt) : (s.send p).accVis = s.accVis := rfl
@[simp] theorem State.send_ecc (s : State) (p : FPkt) : (s.send p).ecc = s.ecc := rfl
@[simp] theorem State.send_lastq (s : State) (p : FPkt) : (s.send p).lastq = s.lastq := rfl
@[simp] theorem State.send_resv (s : State) (p : FPkt) : (s.send p).resv = s.resv := rfl
@[simp] theorem State.send_holds (s : State) (p : FPkt) : (s.send p).holds = s.holds := rfl
@[simp] theorem State.send_dies (s : State) (p : FPkt) : (s.send p).dies = s.dies := rfl
@[simp] theorem State.send_links (s : State) (p : FPkt) : (s.send p).links = s.links := rfl
@[simp] theorem State.send_own (s : State) (p : FPkt) : (s.send p).own = s.own := rfl
@[simp] theorem State.send_queues (s : State) (p : FPkt) : (s.send p).queues = s.queues := rfl
@[simp] theorem State.send_twSeen (s : State) (p : FPkt) : (s.send p).twSeen = s.twSeen := rfl
@[simp] theorem State.send_mbox (s : State) (p : FPkt) : (s.send p).mbox = s.mbox := rfl
@[simp] theorem State.send_boot (s : State) (p : FPkt) : (s.send p).boot = s.boot := rfl
@[simp] theorem State.send_errs (s : State) (p : FPkt) : (s.send p).errs = s.errs := rfl
@[simp] theorem State.send_keys (s : State) (p : FPkt) : (s.send p).keys = s.keys := rfl
@[simp] theorem State.send_msis (s : State) (p : FPkt) : (s.send p).msis = s.msis := rfl
@[simp] theorem State.send_pkg (s : State) (p : FPkt) : (s.send p).pkg = s.pkg := rfl
@[simp] theorem State.send_vlim (s : State) (p : FPkt) : (s.send p).vlim = s.vlim := rfl
@[simp] theorem State.send_recs (s : State) (p : FPkt) : (s.send p).recs = s.recs := rfl
@[simp] theorem State.send_rejects (s : State) (p : FPkt) : (s.send p).rejects = s.rejects := rfl
@[simp] theorem State.send_hostBad (s : State) (p : FPkt) : (s.send p).hostBad = s.hostBad := rfl
@[simp] theorem State.send_eccPart (s : State) (p : FPkt) : (s.send p).eccPart = s.eccPart := rfl
@[simp] theorem State.send_late (s : State) (p : FPkt) : (s.send p).late = s.late := rfl

@[simp] theorem State.wg_now (s : State) (r : GReg) (v : W64) : (s.wg r v).now = s.now := rfl
@[simp] theorem State.wg_free (s : State) (r : GReg) (v : W64) : (s.wg r v).free = s.free := rfl
@[simp] theorem State.wg_nextId (s : State) (r : GReg) (v : W64) : (s.wg r v).nextId = s.nextId := rfl
@[simp] theorem State.wg_turns (s : State) (r : GReg) (v : W64) : (s.wg r v).turns = s.turns := rfl
@[simp] theorem State.wg_others (s : State) (r : GReg) (v : W64) : (s.wg r v).others = s.others := rfl
@[simp] theorem State.wg_units (s : State) (r : GReg) (v : W64) : (s.wg r v).units = s.units := rfl
@[simp] theorem State.wg_ents (s : State) (r : GReg) (v : W64) : (s.wg r v).ents = s.ents := rfl
@[simp] theorem State.wg_launches (s : State) (r : GReg) (v : W64) : (s.wg r v).launches = s.launches := rfl
@[simp] theorem State.wg_graphs (s : State) (r : GReg) (v : W64) : (s.wg r v).graphs = s.graphs := rfl
@[simp] theorem State.wg_jobs (s : State) (r : GReg) (v : W64) : (s.wg r v).jobs = s.jobs := rfl
@[simp] theorem State.wg_serials (s : State) (r : GReg) (v : W64) : (s.wg r v).serials = s.serials := rfl
@[simp] theorem State.wg_returns (s : State) (r : GReg) (v : W64) : (s.wg r v).returns = s.returns := rfl
@[simp] theorem State.wg_cancels (s : State) (r : GReg) (v : W64) : (s.wg r v).cancels = s.cancels := rfl
@[simp] theorem State.wg_joins (s : State) (r : GReg) (v : W64) : (s.wg r v).joins = s.joins := rfl
@[simp] theorem State.wg_pend (s : State) (r : GReg) (v : W64) : (s.wg r v).pend = s.pend := rfl
@[simp] theorem State.wg_detached (s : State) (r : GReg) (v : W64) : (s.wg r v).detached = s.detached := rfl
@[simp] theorem State.wg_frags (s : State) (r : GReg) (v : W64) : (s.wg r v).frags = s.frags := rfl
@[simp] theorem State.wg_chains (s : State) (r : GReg) (v : W64) : (s.wg r v).chains = s.chains := rfl
@[simp] theorem State.wg_occ (s : State) (r : GReg) (v : W64) : (s.wg r v).occ = s.occ := rfl
@[simp] theorem State.wg_spOwner (s : State) (r : GReg) (v : W64) : (s.wg r v).spOwner = s.spOwner := rfl
@[simp] theorem State.wg_mem (s : State) (r : GReg) (v : W64) : (s.wg r v).mem = s.mem := rfl
@[simp] theorem State.wg_accs (s : State) (r : GReg) (v : W64) : (s.wg r v).accs = s.accs := rfl
@[simp] theorem State.wg_accVis (s : State) (r : GReg) (v : W64) : (s.wg r v).accVis = s.accVis := rfl
@[simp] theorem State.wg_ecc (s : State) (r : GReg) (v : W64) : (s.wg r v).ecc = s.ecc := rfl
@[simp] theorem State.wg_lastq (s : State) (r : GReg) (v : W64) : (s.wg r v).lastq = s.lastq := rfl
@[simp] theorem State.wg_resv (s : State) (r : GReg) (v : W64) : (s.wg r v).resv = s.resv := rfl
@[simp] theorem State.wg_holds (s : State) (r : GReg) (v : W64) : (s.wg r v).holds = s.holds := rfl
@[simp] theorem State.wg_dies (s : State) (r : GReg) (v : W64) : (s.wg r v).dies = s.dies := rfl
@[simp] theorem State.wg_links (s : State) (r : GReg) (v : W64) : (s.wg r v).links = s.links := rfl
@[simp] theorem State.wg_fab (s : State) (r : GReg) (v : W64) : (s.wg r v).fab = s.fab := rfl
@[simp] theorem State.wg_own (s : State) (r : GReg) (v : W64) : (s.wg r v).own = s.own := rfl
@[simp] theorem State.wg_queues (s : State) (r : GReg) (v : W64) : (s.wg r v).queues = s.queues := rfl
@[simp] theorem State.wg_twSeen (s : State) (r : GReg) (v : W64) : (s.wg r v).twSeen = s.twSeen := rfl
@[simp] theorem State.wg_mbox (s : State) (r : GReg) (v : W64) : (s.wg r v).mbox = s.mbox := rfl
@[simp] theorem State.wg_boot (s : State) (r : GReg) (v : W64) : (s.wg r v).boot = s.boot := rfl
@[simp] theorem State.wg_errs (s : State) (r : GReg) (v : W64) : (s.wg r v).errs = s.errs := rfl
@[simp] theorem State.wg_keys (s : State) (r : GReg) (v : W64) : (s.wg r v).keys = s.keys := rfl
@[simp] theorem State.wg_msis (s : State) (r : GReg) (v : W64) : (s.wg r v).msis = s.msis := rfl
@[simp] theorem State.wg_pkg (s : State) (r : GReg) (v : W64) : (s.wg r v).pkg = s.pkg := rfl
@[simp] theorem State.wg_vlim (s : State) (r : GReg) (v : W64) : (s.wg r v).vlim = s.vlim := rfl
@[simp] theorem State.wg_recs (s : State) (r : GReg) (v : W64) : (s.wg r v).recs = s.recs := rfl
@[simp] theorem State.wg_rejects (s : State) (r : GReg) (v : W64) : (s.wg r v).rejects = s.rejects := rfl
@[simp] theorem State.wg_hostBad (s : State) (r : GReg) (v : W64) : (s.wg r v).hostBad = s.hostBad := rfl
@[simp] theorem State.wg_eccPart (s : State) (r : GReg) (v : W64) : (s.wg r v).eccPart = s.eccPart := rfl
@[simp] theorem State.wg_late (s : State) (r : GReg) (v : W64) : (s.wg r v).late = s.late := rfl

@[simp] theorem State.setCur_cur (s : State) (f : Ctx → Ctx) : (s.setCur f).cur = f s.cur := rfl
@[simp] theorem State.count_errs (s : State) (f : Errs → Errs) : (s.count f).errs = f s.errs := rfl
@[simp] theorem State.wg_cur (s : State) (r : GReg) (v : W64) : (s.wg r v).cur = s.cur.wg r v := rfl

@[simp] theorem advance_now (s : State) : (advance s).now = s.now := rfl
@[simp] theorem advance_free (s : State) : (advance s).free = s.free := rfl
@[simp] theorem advance_nextId (s : State) : (advance s).nextId = s.nextId := rfl
@[simp] theorem advance_turns (s : State) : (advance s).turns = s.turns := rfl
@[simp] theorem advance_others (s : State) : (advance s).others = s.others := rfl
@[simp] theorem advance_units (s : State) : (advance s).units = s.units := rfl
@[simp] theorem advance_ents (s : State) : (advance s).ents = s.ents := rfl
@[simp] theorem advance_launches (s : State) : (advance s).launches = s.launches := rfl
@[simp] theorem advance_graphs (s : State) : (advance s).graphs = s.graphs := rfl
@[simp] theorem advance_jobs (s : State) : (advance s).jobs = s.jobs := rfl
@[simp] theorem advance_serials (s : State) : (advance s).serials = s.serials := rfl
@[simp] theorem advance_returns (s : State) : (advance s).returns = s.returns := rfl
@[simp] theorem advance_cancels (s : State) : (advance s).cancels = s.cancels := rfl
@[simp] theorem advance_joins (s : State) : (advance s).joins = s.joins := rfl
@[simp] theorem advance_pend (s : State) : (advance s).pend = s.pend := rfl
@[simp] theorem advance_detached (s : State) : (advance s).detached = s.detached := rfl
@[simp] theorem advance_frags (s : State) : (advance s).frags = s.frags := rfl
@[simp] theorem advance_chains (s : State) : (advance s).chains = s.chains := rfl
@[simp] theorem advance_occ (s : State) : (advance s).occ = s.occ := rfl
@[simp] theorem advance_spOwner (s : State) : (advance s).spOwner = s.spOwner := rfl
@[simp] theorem advance_mem (s : State) : (advance s).mem = s.mem := rfl
@[simp] theorem advance_accs (s : State) : (advance s).accs = s.accs := rfl
@[simp] theorem advance_accVis (s : State) : (advance s).accVis = s.accVis := rfl
@[simp] theorem advance_ecc (s : State) : (advance s).ecc = s.ecc := rfl
@[simp] theorem advance_lastq (s : State) : (advance s).lastq = s.lastq := rfl
@[simp] theorem advance_resv (s : State) : (advance s).resv = s.resv := rfl
@[simp] theorem advance_holds (s : State) : (advance s).holds = s.holds := rfl
@[simp] theorem advance_dies (s : State) : (advance s).dies = s.dies := rfl
@[simp] theorem advance_links (s : State) : (advance s).links = s.links := rfl
@[simp] theorem advance_fab (s : State) : (advance s).fab = s.fab := rfl
@[simp] theorem advance_own (s : State) : (advance s).own = s.own := rfl
@[simp] theorem advance_queues (s : State) : (advance s).queues = s.queues := rfl
@[simp] theorem advance_twSeen (s : State) : (advance s).twSeen = s.twSeen := rfl
@[simp] theorem advance_mbox (s : State) : (advance s).mbox = s.mbox := rfl
@[simp] theorem advance_boot (s : State) : (advance s).boot = s.boot := rfl
@[simp] theorem advance_errs (s : State) : (advance s).errs = s.errs := rfl
@[simp] theorem advance_keys (s : State) : (advance s).keys = s.keys := rfl
@[simp] theorem advance_msis (s : State) : (advance s).msis = s.msis := rfl
@[simp] theorem advance_pkg (s : State) : (advance s).pkg = s.pkg := rfl
@[simp] theorem advance_cur_cid (s : State) : (advance s).cur.cid = s.cur.cid := rfl
@[simp] theorem advance_cur_phase (s : State) : (advance s).cur.phase = s.cur.phase := rfl
@[simp] theorem advance_cur_uid (s : State) : (advance s).cur.uid = s.cur.uid := rfl
@[simp] theorem advance_cur_lid (s : State) : (advance s).cur.lid = s.cur.lid := rfl
@[simp] theorem advance_cur_compid (s : State) : (advance s).cur.compid = s.cur.compid := rfl
@[simp] theorem advance_cur_unit (s : State) : (advance s).cur.unit = s.cur.unit := rfl
@[simp] theorem advance_cur_sec (s : State) : (advance s).cur.sec = s.cur.sec := rfl
@[simp] theorem advance_cur_seq (s : State) : (advance s).cur.seq = s.cur.seq := rfl
@[simp] theorem advance_cur_arr (s : State) : (advance s).cur.arr = s.cur.arr := rfl
@[simp] theorem advance_cur_h (s : State) : (advance s).cur.h = s.cur.h := rfl
@[simp] theorem advance_cur_w (s : State) : (advance s).cur.w = s.cur.w := rfl
@[simp] theorem advance_cur_slot (s : State) : (advance s).cur.slot = s.cur.slot := rfl
@[simp] theorem advance_cur_pc (s : State) : (advance s).cur.pc = s.cur.pc + 8 := rfl
@[simp] theorem advance_cur_g (s : State) : (advance s).cur.g = s.cur.g := rfl
@[simp] theorem advance_cur_p (s : State) : (advance s).cur.p = s.cur.p := rfl
@[simp] theorem advance_cur_m (s : State) : (advance s).cur.m = s.cur.m := rfl
@[simp] theorem advance_cur_v (s : State) : (advance s).cur.v = s.cur.v := rfl
@[simp] theorem advance_cur_k (s : State) : (advance s).cur.k = s.cur.k := rfl
@[simp] theorem advance_cur_aflags (s : State) : (advance s).cur.aflags = s.cur.aflags := rfl
@[simp] theorem advance_cur_amask (s : State) : (advance s).cur.amask = s.cur.amask := rfl
@[simp] theorem advance_cur_rmode (s : State) : (advance s).cur.rmode = s.cur.rmode := rfl
@[simp] theorem advance_cur_splive (s : State) : (advance s).cur.splive = s.cur.splive := rfl
@[simp] theorem advance_cur_acclive (s : State) : (advance s).cur.acclive = s.cur.acclive := rfl
@[simp] theorem advance_cur_nunits (s : State) : (advance s).cur.nunits = s.cur.nunits := rfl
@[simp] theorem advance_cur_lhandle (s : State) : (advance s).cur.lhandle = s.cur.lhandle := rfl
@[simp] theorem advance_cur_nfrag (s : State) : (advance s).cur.nfrag = s.cur.nfrag := rfl
@[simp] theorem advance_cur_lparam (s : State) : (advance s).cur.lparam = s.cur.lparam := rfl
@[simp] theorem advance_cur_tcause (s : State) : (advance s).cur.tcause = s.cur.tcause := rfl
@[simp] theorem advance_cur_tpc (s : State) : (advance s).cur.tpc = s.cur.tpc := rfl
@[simp] theorem advance_cur_tword (s : State) : (advance s).cur.tword = s.cur.tword := rfl
@[simp] theorem advance_cur_taddr (s : State) : (advance s).cur.taddr = s.cur.taddr := rfl
@[simp] theorem advance_cur_tdata (s : State) : (advance s).cur.tdata = s.cur.tdata := rfl
@[simp] theorem advance_cur_tvec (s : State) : (advance s).cur.tvec = s.cur.tvec := rfl
@[simp] theorem advance_cur_sm (s : State) : (advance s).cur.sm = s.cur.sm := rfl
@[simp] theorem advance_cur_pfh (s : State) : (advance s).cur.pfh = s.cur.pfh := rfl
@[simp] theorem advance_cur_sscr (s : State) : (advance s).cur.sscr = s.cur.sscr := rfl
@[simp] theorem advance_cur_ctxid (s : State) : (advance s).cur.ctxid = s.cur.ctxid := rfl
@[simp] theorem advance_cur_bars (s : State) : (advance s).cur.bars = s.cur.bars := rfl
@[simp] theorem advance_cur_splits (s : State) : (advance s).cur.splits = s.cur.splits := rfl
@[simp] theorem advance_cur_wc (s : State) : (advance s).cur.wc = s.cur.wc := rfl
@[simp] theorem advance_cur_icache (s : State) : (advance s).cur.icache = s.cur.icache := rfl
@[simp] theorem advance_cur_wait (s : State) : (advance s).cur.wait = .none := rfl
@[simp] theorem advance_cur_since (s : State) : (advance s).cur.since = s.cur.since := rfl
@[simp] theorem advance_cur_halted (s : State) : (advance s).cur.halted = s.cur.halted := rfl
@[simp] theorem advance_cur_pfault (s : State) : (advance s).cur.pfault = s.cur.pfault := rfl
@[simp] theorem advance_cur_notBefore (s : State) : (advance s).cur.notBefore = s.cur.notBefore := rfl
@[simp] theorem advance_cur_vec (s : State) : (advance s).cur.vec = s.cur.vec := rfl
@[simp] theorem advance_cur_marker (s : State) : (advance s).cur.marker = s.cur.marker := rfl
@[simp] theorem advance_cur_barAt (s : State) : (advance s).cur.barAt = s.cur.barAt := rfl

@[simp] theorem jump_now (s : State) (pc : W64) : (jump s pc).now = s.now := rfl
@[simp] theorem jump_free (s : State) (pc : W64) : (jump s pc).free = s.free := rfl
@[simp] theorem jump_nextId (s : State) (pc : W64) : (jump s pc).nextId = s.nextId := rfl
@[simp] theorem jump_turns (s : State) (pc : W64) : (jump s pc).turns = s.turns := rfl
@[simp] theorem jump_others (s : State) (pc : W64) : (jump s pc).others = s.others := rfl
@[simp] theorem jump_units (s : State) (pc : W64) : (jump s pc).units = s.units := rfl
@[simp] theorem jump_ents (s : State) (pc : W64) : (jump s pc).ents = s.ents := rfl
@[simp] theorem jump_launches (s : State) (pc : W64) : (jump s pc).launches = s.launches := rfl
@[simp] theorem jump_graphs (s : State) (pc : W64) : (jump s pc).graphs = s.graphs := rfl
@[simp] theorem jump_jobs (s : State) (pc : W64) : (jump s pc).jobs = s.jobs := rfl
@[simp] theorem jump_serials (s : State) (pc : W64) : (jump s pc).serials = s.serials := rfl
@[simp] theorem jump_returns (s : State) (pc : W64) : (jump s pc).returns = s.returns := rfl
@[simp] theorem jump_cancels (s : State) (pc : W64) : (jump s pc).cancels = s.cancels := rfl
@[simp] theorem jump_joins (s : State) (pc : W64) : (jump s pc).joins = s.joins := rfl
@[simp] theorem jump_pend (s : State) (pc : W64) : (jump s pc).pend = s.pend := rfl
@[simp] theorem jump_detached (s : State) (pc : W64) : (jump s pc).detached = s.detached := rfl
@[simp] theorem jump_frags (s : State) (pc : W64) : (jump s pc).frags = s.frags := rfl
@[simp] theorem jump_chains (s : State) (pc : W64) : (jump s pc).chains = s.chains := rfl
@[simp] theorem jump_occ (s : State) (pc : W64) : (jump s pc).occ = s.occ := rfl
@[simp] theorem jump_spOwner (s : State) (pc : W64) : (jump s pc).spOwner = s.spOwner := rfl
@[simp] theorem jump_mem (s : State) (pc : W64) : (jump s pc).mem = s.mem := rfl
@[simp] theorem jump_accs (s : State) (pc : W64) : (jump s pc).accs = s.accs := rfl
@[simp] theorem jump_accVis (s : State) (pc : W64) : (jump s pc).accVis = s.accVis := rfl
@[simp] theorem jump_ecc (s : State) (pc : W64) : (jump s pc).ecc = s.ecc := rfl
@[simp] theorem jump_lastq (s : State) (pc : W64) : (jump s pc).lastq = s.lastq := rfl
@[simp] theorem jump_resv (s : State) (pc : W64) : (jump s pc).resv = s.resv := rfl
@[simp] theorem jump_holds (s : State) (pc : W64) : (jump s pc).holds = s.holds := rfl
@[simp] theorem jump_dies (s : State) (pc : W64) : (jump s pc).dies = s.dies := rfl
@[simp] theorem jump_links (s : State) (pc : W64) : (jump s pc).links = s.links := rfl
@[simp] theorem jump_fab (s : State) (pc : W64) : (jump s pc).fab = s.fab := rfl
@[simp] theorem jump_own (s : State) (pc : W64) : (jump s pc).own = s.own := rfl
@[simp] theorem jump_queues (s : State) (pc : W64) : (jump s pc).queues = s.queues := rfl
@[simp] theorem jump_twSeen (s : State) (pc : W64) : (jump s pc).twSeen = s.twSeen := rfl
@[simp] theorem jump_mbox (s : State) (pc : W64) : (jump s pc).mbox = s.mbox := rfl
@[simp] theorem jump_boot (s : State) (pc : W64) : (jump s pc).boot = s.boot := rfl
@[simp] theorem jump_errs (s : State) (pc : W64) : (jump s pc).errs = s.errs := rfl
@[simp] theorem jump_keys (s : State) (pc : W64) : (jump s pc).keys = s.keys := rfl
@[simp] theorem jump_msis (s : State) (pc : W64) : (jump s pc).msis = s.msis := rfl
@[simp] theorem jump_pkg (s : State) (pc : W64) : (jump s pc).pkg = s.pkg := rfl
@[simp] theorem jump_cur_cid (s : State) (pc : W64) : (jump s pc).cur.cid = s.cur.cid := rfl
@[simp] theorem jump_cur_phase (s : State) (pc : W64) : (jump s pc).cur.phase = s.cur.phase := rfl
@[simp] theorem jump_cur_uid (s : State) (pc : W64) : (jump s pc).cur.uid = s.cur.uid := rfl
@[simp] theorem jump_cur_lid (s : State) (pc : W64) : (jump s pc).cur.lid = s.cur.lid := rfl
@[simp] theorem jump_cur_compid (s : State) (pc : W64) : (jump s pc).cur.compid = s.cur.compid := rfl
@[simp] theorem jump_cur_unit (s : State) (pc : W64) : (jump s pc).cur.unit = s.cur.unit := rfl
@[simp] theorem jump_cur_sec (s : State) (pc : W64) : (jump s pc).cur.sec = s.cur.sec := rfl
@[simp] theorem jump_cur_seq (s : State) (pc : W64) : (jump s pc).cur.seq = s.cur.seq := rfl
@[simp] theorem jump_cur_arr (s : State) (pc : W64) : (jump s pc).cur.arr = s.cur.arr := rfl
@[simp] theorem jump_cur_h (s : State) (pc : W64) : (jump s pc).cur.h = s.cur.h := rfl
@[simp] theorem jump_cur_w (s : State) (pc : W64) : (jump s pc).cur.w = s.cur.w := rfl
@[simp] theorem jump_cur_slot (s : State) (pc : W64) : (jump s pc).cur.slot = s.cur.slot := rfl
@[simp] theorem jump_cur_pc (s : State) (pc : W64) : (jump s pc).cur.pc = pc := rfl
@[simp] theorem jump_cur_g (s : State) (pc : W64) : (jump s pc).cur.g = s.cur.g := rfl
@[simp] theorem jump_cur_p (s : State) (pc : W64) : (jump s pc).cur.p = s.cur.p := rfl
@[simp] theorem jump_cur_m (s : State) (pc : W64) : (jump s pc).cur.m = s.cur.m := rfl
@[simp] theorem jump_cur_v (s : State) (pc : W64) : (jump s pc).cur.v = s.cur.v := rfl
@[simp] theorem jump_cur_k (s : State) (pc : W64) : (jump s pc).cur.k = s.cur.k := rfl
@[simp] theorem jump_cur_aflags (s : State) (pc : W64) : (jump s pc).cur.aflags = s.cur.aflags := rfl
@[simp] theorem jump_cur_amask (s : State) (pc : W64) : (jump s pc).cur.amask = s.cur.amask := rfl
@[simp] theorem jump_cur_rmode (s : State) (pc : W64) : (jump s pc).cur.rmode = s.cur.rmode := rfl
@[simp] theorem jump_cur_splive (s : State) (pc : W64) : (jump s pc).cur.splive = s.cur.splive := rfl
@[simp] theorem jump_cur_acclive (s : State) (pc : W64) : (jump s pc).cur.acclive = s.cur.acclive := rfl
@[simp] theorem jump_cur_nunits (s : State) (pc : W64) : (jump s pc).cur.nunits = s.cur.nunits := rfl
@[simp] theorem jump_cur_lhandle (s : State) (pc : W64) : (jump s pc).cur.lhandle = s.cur.lhandle := rfl
@[simp] theorem jump_cur_nfrag (s : State) (pc : W64) : (jump s pc).cur.nfrag = s.cur.nfrag := rfl
@[simp] theorem jump_cur_lparam (s : State) (pc : W64) : (jump s pc).cur.lparam = s.cur.lparam := rfl
@[simp] theorem jump_cur_tcause (s : State) (pc : W64) : (jump s pc).cur.tcause = s.cur.tcause := rfl
@[simp] theorem jump_cur_tpc (s : State) (pc : W64) : (jump s pc).cur.tpc = s.cur.tpc := rfl
@[simp] theorem jump_cur_tword (s : State) (pc : W64) : (jump s pc).cur.tword = s.cur.tword := rfl
@[simp] theorem jump_cur_taddr (s : State) (pc : W64) : (jump s pc).cur.taddr = s.cur.taddr := rfl
@[simp] theorem jump_cur_tdata (s : State) (pc : W64) : (jump s pc).cur.tdata = s.cur.tdata := rfl
@[simp] theorem jump_cur_tvec (s : State) (pc : W64) : (jump s pc).cur.tvec = s.cur.tvec := rfl
@[simp] theorem jump_cur_sm (s : State) (pc : W64) : (jump s pc).cur.sm = s.cur.sm := rfl
@[simp] theorem jump_cur_pfh (s : State) (pc : W64) : (jump s pc).cur.pfh = s.cur.pfh := rfl
@[simp] theorem jump_cur_sscr (s : State) (pc : W64) : (jump s pc).cur.sscr = s.cur.sscr := rfl
@[simp] theorem jump_cur_ctxid (s : State) (pc : W64) : (jump s pc).cur.ctxid = s.cur.ctxid := rfl
@[simp] theorem jump_cur_bars (s : State) (pc : W64) : (jump s pc).cur.bars = s.cur.bars := rfl
@[simp] theorem jump_cur_splits (s : State) (pc : W64) : (jump s pc).cur.splits = s.cur.splits := rfl
@[simp] theorem jump_cur_wc (s : State) (pc : W64) : (jump s pc).cur.wc = s.cur.wc := rfl
@[simp] theorem jump_cur_icache (s : State) (pc : W64) : (jump s pc).cur.icache = s.cur.icache := rfl
@[simp] theorem jump_cur_wait (s : State) (pc : W64) : (jump s pc).cur.wait = .none := rfl
@[simp] theorem jump_cur_since (s : State) (pc : W64) : (jump s pc).cur.since = s.cur.since := rfl
@[simp] theorem jump_cur_halted (s : State) (pc : W64) : (jump s pc).cur.halted = s.cur.halted := rfl
@[simp] theorem jump_cur_pfault (s : State) (pc : W64) : (jump s pc).cur.pfault = s.cur.pfault := rfl
@[simp] theorem jump_cur_notBefore (s : State) (pc : W64) : (jump s pc).cur.notBefore = s.cur.notBefore := rfl
@[simp] theorem jump_cur_vec (s : State) (pc : W64) : (jump s pc).cur.vec = s.cur.vec := rfl
@[simp] theorem jump_cur_marker (s : State) (pc : W64) : (jump s pc).cur.marker = s.cur.marker := rfl
@[simp] theorem jump_cur_barAt (s : State) (pc : W64) : (jump s pc).cur.barAt = s.cur.barAt := rfl

/- Registers -/

theorem toNat_ne {n : Nat} {a b : BitVec n} (h : a ≠ b) : a.toNat ≠ b.toNat := fun e => h (BitVec.eq_of_toNat_eq e)

theorem Ctx.rg_wg_same (c : Ctx) (r : GReg) (v : W64) : (c.wg r v).rg r = if r = 0#6 then 0 else v := by
  by_cases h : r = 0#6 <;> simp [Ctx.wg, Ctx.rg, h]
theorem Ctx.rg_wg_ne (c : Ctx) {r q : GReg} (v : W64) (h : q ≠ r) : (c.wg r v).rg q = c.rg q := by
  unfold Ctx.wg Ctx.rg
  split
  · rfl
  · split
    · rfl
    · exact Store.get_put_ne 0 c.g v (toNat_ne h)
@[simp] theorem Ctx.rg_zero (c : Ctx) : c.rg 0#6 = 0 := rfl
@[simp] theorem Ctx.rp_zero (c : Ctx) : c.rp 0#3 = true := rfl
@[simp] theorem Ctx.rk_zero (c : Ctx) : c.rk 0#5 = Token.reset := rfl
theorem Ctx.rp_wp_same (c : Ctx) (r : PNum) (b : Bool) : (c.wp r b).rp r = if r = 0#3 then true else b := by
  by_cases h : r = 0#3
  · simp [Ctx.wp, Ctx.rp, h]
  · have hr := r.isLt
    cases b <;> simp [Ctx.wp, Ctx.rp, h, hr]
theorem Ctx.rp_wp_ne (c : Ctx) {r q : PNum} (b : Bool) (h : q ≠ r) : (c.wp r b).rp q = c.rp q := by
  by_cases h0 : r = 0#3
  · simp [Ctx.wp, Ctx.rp, h0]
  · have hn := toNat_ne h
    have hq := q.isLt
    unfold Ctx.wp Ctx.rp
    cases b <;> simp only [if_neg h0, if_true, if_false, Bool.false_eq_true] <;> congr 1 <;>
      simp [hq] <;> omega
@[simp] theorem Ctx.rm_wm_same (c : Ctx) (r : MNum) (x : BitVec 128) : (c.wm r x).rm r = x := by
  simp [Ctx.wm, Ctx.rm]
theorem Ctx.rm_wm_ne (c : Ctx) {r q : MNum} (x : BitVec 128) (h : q ≠ r) : (c.wm r x).rm q = c.rm q := by
  simp only [Ctx.wm, Ctx.rm, Store.get_put_ne _ _ _ (toNat_ne h)]
@[simp] theorem Ctx.rv_wv_same (c : Ctx) (r : VNum) (x : VReg) : (c.wv r x).rv r = x := by
  simp [Ctx.wv, Ctx.rv]
theorem Ctx.rv_wv_ne (c : Ctx) {r q : VNum} (x : VReg) (h : q ≠ r) : (c.wv r x).rv q = c.rv q := by
  simp only [Ctx.wv, Ctx.rv, Store.get_put_ne _ _ _ (toNat_ne h)]
theorem Ctx.rk_wk_same (c : Ctx) (r : KNum) (t : Token) : (c.wk r t).rk r = if r = 0#5 then Token.reset else t := by
  by_cases h : r = 0#5 <;> simp [Ctx.wk, Ctx.rk, h]
theorem Ctx.rk_wk_ne (c : Ctx) {r q : KNum} (t : Token) (h : q ≠ r) : (c.wk r t).rk q = c.rk q := by
  unfold Ctx.wk Ctx.rk
  split
  · rfl
  · split
    · rfl
    · exact Store.get_put_ne Token.reset c.k t (toNat_ne h)

end Sys2Proof.Machine
end

