-- ==== Sys2Proof/Laws/Issue.lean ====
section
/-! SUPPORT. What issue, a result and a trap do, in the words of Safety.lean. -/
namespace Sys2Proof.Machine

/-- A word that issues takes a next state, that of its body. -/
theorem issue_eq {s : State} {gd : Guard} (h : Issues s gd) (f : State → State) : issue gd s f = .next (f s) := by
  obtain ⟨h1, h2, h3, h4⟩ := h
  simp [issue, h1, h2, h3, h4]

/-- A false guard only moves on (R258). -/
theorem issue_false {s : State} {gd : Guard} (h1 : s.cur.phase = .running) (h2 : s.cur.halted = false)
    (h3 : s.cur.pfault = none) (h4 : guardTrue s.cur gd = false) (f : State → State) :
    issue gd s f = .next (advance s) := by
  simp [issue, h1, h2, h3, h4]

@[simp] theorem gives_next (t : State) (p : State → Prop) : Gives (.next t) p ↔ p t :=
  ⟨fun ⟨u, h, hp⟩ => by cases h; exact hp, fun h => ⟨t, rfl, h⟩⟩

theorem sameMem_refl (s : State) : SameMem s s := ⟨fun _ => rfl, fun _ => rfl⟩

/-- A cycle of issue moves the context's earliest next one and drops BARs that it has left, nothing else (R80, R289). -/
theorem cycled_only (s : State) : OnlyCur s s.cycled := ⟨rfl, fun _ => rfl, fun _ => rfl⟩
theorem cycled_cur (s : State) : s.cycled.cur =
    { s.cur with notBefore := s.now + (s.die (s.cur.seq / 16)).tpc, barAt := s.cycled.cur.barAt } := rfl

theorem regStep_result (s : State) (d : GReg) (v : W64) : RegStep s (result s d v) d v :=
  ⟨Ctx.rg_wg_same s.cur d v, fun _ hr => Ctx.rg_wg_ne s.cur v hr, rfl, rfl, fun _ => rfl, fun _ => rfl⟩

theorem regFlagStep_result (s : State) (d : GReg) (v : W64) (fl : BitVec 8) :
    RegFlagStep s (result (setFlags s fl) d v) d v fl :=
  ⟨Ctx.rg_wg_same _ d v, fun _ hr => Ctx.rg_wg_ne _ v hr, rfl, rfl, rfl, fun _ => rfl, fun _ => rfl⟩

theorem predStep_wp (s : State) (d : PNum) (b : Bool) : PredStep s (advance (s.setCur (·.wp d b))) d b :=
  ⟨Ctx.rp_wp_same s.cur d b, fun _ hr => Ctx.rp_wp_ne s.cur b hr, rfl, rfl, fun _ => rfl, fun _ => rfl⟩

theorem pcStep_advance (s : State) : PcStep s (advance s) (s.cur.pc + 8) := ⟨rfl, rfl, fun _ => rfl, fun _ => rfl⟩
theorem pcStep_jump (s : State) (pc : W64) : PcStep s (jump s pc) pc := ⟨rfl, rfl, fun _ => rfl, fun _ => rfl⟩

/-- A trap with a handler ready is the entry of R213. -/
theorem trapStep_trap {s : State} (h : HandlerReady s) (w : W64) (c : Nat) (a d : W64) :
    TrapStep s (trap s w c a d) w c a d := by
  have : trap s w c a d = s.setCur (fun x => { x with
      tpc := x.pc, tword := w, tcause := u64 c, taddr := a, tdata := d, sm := true, pc := x.tvec, wait := .none,
      pfault := none }) := by
    unfold trap
    rw [h.1, if_neg (by simpa using h.2)]
  rw [this]
  exact ⟨rfl, rfl, fun _ => rfl, fun _ => rfl⟩

end Sys2Proof.Machine
end

