-- ==== Sys2Proof/Laws/Memory.lean ====
section
/-! SUPPORT. What the memory operations do: each keeps the canonical form, and changes no byte but those it writes. -/
namespace Sys2Proof.Machine

/- Single bytes -/

@[simp] theorem memByte_setByte (s : State) (k b j : Nat) :
    memByte (setByte s k b) j = if j = k then BitVec.ofNat 8 b else memByte s j := by
  unfold memByte setByte
  by_cases h : j = k
  · subst h; simp
  · simp [h, Store.get_put_ne _ _ _ h]

theorem setByte_memInv {s : State} (h : MemInv s) (k b : Nat) : MemInv (setByte s k b) := Store.wf_put _ _ _ _ h

/-- `t` differs from `s` in memory at keys of `p`, in the ECC words that became correct and in the tail words seen. -/
def OnlyBytes (p : Nat → Prop) (s t : State) : Prop :=
  t = { s with mem := t.mem, ecc := t.ecc, twSeen := t.twSeen } ∧ (∀ e ∈ t.ecc, e ∈ s.ecc) ∧
  (∀ e ∈ t.twSeen, e ∈ s.twSeen) ∧ ∀ k, ¬ p k → memByte t k = memByte s k

theorem OnlyBytes.refl (p : Nat → Prop) (s : State) : OnlyBytes p s s := ⟨rfl, fun _ h => h, fun _ h => h, fun _ _ => rfl⟩

theorem OnlyBytes.mono {p q : Nat → Prop} {s t : State} (h : OnlyBytes p s t) (hpq : ∀ k, p k → q k) : OnlyBytes q s t :=
  ⟨h.1, h.2.1, h.2.2.1, fun k hk => h.2.2.2 k (fun hp => hk (hpq k hp))⟩

theorem OnlyBytes.trans {p : Nat → Prop} {s t u : State} (h1 : OnlyBytes p s t) (h2 : OnlyBytes p t u) :
    OnlyBytes p s u := by
  obtain ⟨e1, a1, b1, c1⟩ := h1
  obtain ⟨e2, a2, b2, c2⟩ := h2
  refine ⟨?_, fun e he => a1 e (a2 e he), fun e he => b1 e (b2 e he), fun k hk => (c2 k hk).trans (c1 k hk)⟩
  rw [e2, e1]

theorem setByte_only (s : State) (k b : Nat) : OnlyBytes (fun j => j = k) s (setByte s k b) :=
  ⟨rfl, fun _ h => h, fun _ h => (List.mem_filter.1 h).1, fun j hj => by simp [hj]⟩

theorem setBytes_only (s : State) (k : Nat) : ∀ bs : List Nat,
    OnlyBytes (fun j => k ≤ j ∧ j < k + bs.length) s (setBytes s k bs) := by
  intro bs
  induction bs generalizing s k with
  | nil => exact OnlyBytes.refl _ s
  | cons b t ih =>
    refine OnlyBytes.trans ((setByte_only s k b).mono ?_) ((ih (setByte s k b) (k + 1)).mono ?_)
    · intro j hj; simp only [List.length_cons]; omega
    · intro j hj; simp only [List.length_cons]; omega

theorem setBytes_memInv {s : State} (h : MemInv s) (k : Nat) (bs : List Nat) : MemInv (setBytes s k bs) := by
  induction bs generalizing s k with
  | nil => exact h
  | cons b t ih => exact ih (setByte_memInv h k b) (k + 1)

/-- Bytes written read back. -/
theorem memByte_setBytes (s : State) (k : Nat) (bs : List Nat) (i : Nat) (hi : i < bs.length) :
    memByte (setBytes s k bs) (k + i) = BitVec.ofNat 8 (bs[i]'hi) := by
  induction bs generalizing s k i with
  | nil => simp at hi
  | cons b t ih =>
    cases i with
    | zero =>
      show memByte (setBytes (setByte s k b) (k + 1) t) k = _
      rw [(setBytes_only (setByte s k b) (k + 1) t).2.2.2 k (by omega)]
      simp
    | succ n =>
      have := ih (setByte s k b) (k + 1) n (by simpa using hi)
      rw [show k + 1 + n = k + (n + 1) by omega] at this
      simpa [setBytes] using this

theorem putBytes_only (s : State) (k : Nat) : ∀ bs : List Nat,
    OnlyBytes (fun j => k ≤ j ∧ j < k + bs.length) s (putBytes s k bs) := by
  intro bs
  induction bs generalizing s k with
  | nil => exact OnlyBytes.refl _ s
  | cons b t ih =>
    have h1 : OnlyBytes (fun j => j = k) s { s with mem := Store.put memDefault s.mem k (BitVec.ofNat 8 b) } :=
      ⟨rfl, fun _ h => h, fun _ h => h, fun j hj => by simp [memByte, Store.get_put_ne _ _ _ hj]⟩
    refine OnlyBytes.trans (h1.mono ?_) ((ih _ (k + 1)).mono ?_)
    · intro j hj; simp only [List.length_cons]; omega
    · intro j hj; simp only [List.length_cons]; omega

theorem putBytes_memInv {s : State} (h : MemInv s) (k : Nat) (bs : List Nat) : MemInv (putBytes s k bs) := by
  induction bs generalizing s k with
  | nil => exact h
  | cons b t ih =>
    exact ih (s := { s with mem := Store.put memDefault s.mem k (BitVec.ofNat 8 b) }) (Store.wf_put _ _ _ _ h) (k + 1)

/-- Tail words that count as written: nothing else changes. -/
theorem seen_only (s : State) (p : Nat × Nat → Bool) :
    OnlyBytes (fun _ => False) s { s with twSeen := s.twSeen.filter p } :=
  ⟨rfl, fun _ h => h, fun _ h => (List.mem_filter.1 h).1, fun _ _ => rfl⟩

/- Enciphered blocks have 16 bytes -/

theorem leList_length : ∀ n x : Nat, (leList n x).length = n
  | 0, _ => rfl
  | n + 1, x => by simp [leList, leList_length n]

theorem xtsEnc_length (k : BitVec 512) (a : Nat) (b : List Nat) : (xtsEnc k a b).length ≤ 16 := by
  unfold xtsEnc xorL xtsTweak
  rw [List.length_zipWith, leList_length]
  exact Nat.min_le_right _ _

/- Locations -/

theorem eccFix_only (s : State) (k n : Nat) : OnlyBytes (fun _ => False) s (eccFix s k n) := by
  unfold eccFix
  split
  · exact OnlyBytes.refl _ s
  · exact ⟨rfl, fun _ h => (List.mem_filter.1 h).1, fun _ h => h, fun _ _ => rfl⟩

@[simp] theorem memByte_eccFix (s : State) (k n j : Nat) : memByte (eccFix s k n) j = memByte s j :=
  (eccFix_only s k n).2.2.2 j (fun h => h)

/-- Whether a location is a byte of memory. -/
def Loc.isMem : Loc → Bool
  | .mem _ _ _ => true
  | .acc _ _ => false

/-- Under a page's key a write puts back the enciphered block. -/
theorem writeLoc_block (s : State) (k slot phys b : Nat) (hs : slot ≠ 0) :
    ∃ bs : List Nat, bs.length ≤ 16 ∧ writeLoc s (.mem k slot phys) b =
      putBytes { s with twSeen := s.twSeen.filter (fun e => !(e.2 ≤ k && k < e.2 + 8)) } (k - phys % 16) bs :=
  ⟨_, xtsEnc_length (slotKey s slot) (phys / 16 * 16)
    ((xtsDec (slotKey s slot) (phys / 16 * 16) (memBlock s (k - phys % 16))).set (phys % 16) (b % 256)),
    by rw [writeLoc, if_neg hs]⟩

theorem writeLoc_only (s : State) (l : Loc) (b : Nat) (h : l.isMem = true) : OnlyBytes l.touches s (writeLoc s l b) := by
  cases l with
  | acc w i => simp [Loc.isMem] at h
  | mem k slot phys =>
    by_cases hs : slot = 0
    · simp only [writeLoc, hs, if_true]
      exact (setByte_only s k b).mono (fun j hj => by simpa [Loc.touches] using hj)
    · obtain ⟨bs, hl, e⟩ := writeLoc_block s k slot phys b hs
      rw [e]
      refine ((seen_only s _).mono (fun _ hf => hf.elim)).trans ((putBytes_only _ _ bs).mono (fun j hj => ?_))
      simp only [Loc.touches, hs, if_false]
      omega

theorem writeLoc_memInv {s : State} (h : MemInv s) (l : Loc) (b : Nat) : MemInv (writeLoc s l b) := by
  cases l with
  | acc w i => exact h
  | mem k slot phys =>
    by_cases hs : slot = 0
    · simp only [writeLoc, hs, if_true]; exact setByte_memInv h _ _
    · obtain ⟨bs, _, e⟩ := writeLoc_block s k slot phys b hs
      rw [e]
      have h' : MemInv { s with twSeen := s.twSeen.filter (fun e => !(e.2 ≤ k && k < e.2 + 8)) } := h
      exact putBytes_memInv h' _ _

theorem writeBytesAt_only (s : State) (ls : List Loc) (v : Nat) (h : ∀ l ∈ ls, l.isMem = true) :
    OnlyBytes (fun k => ∃ l ∈ ls, l.touches k) s (writeBytesAt s ls v) := by
  induction ls generalizing s v with
  | nil => exact OnlyBytes.refl _ s
  | cons l t ih =>
    refine OnlyBytes.trans ((writeLoc_only s l (v % 256) (h l (by simp))).mono ?_)
      ((ih (writeLoc s l (v % 256)) (v / 256) (fun x hx => h x (by simp [hx]))).mono ?_)
    · intro k hk; exact ⟨l, by simp, hk⟩
    · rintro k ⟨x, hx, hk⟩; exact ⟨x, by simp [hx], hk⟩

theorem writeBytesAt_memInv {s : State} (h : MemInv s) (ls : List Loc) (v : Nat) : MemInv (writeBytesAt s ls v) := by
  induction ls generalizing s v with
  | nil => exact h
  | cons l t ih => exact ih (writeLoc_memInv h l _) _

theorem eccFix_memInv {s : State} (h : MemInv s) (k n : Nat) : MemInv (eccFix s k n) := by
  unfold eccFix; split <;> exact h

theorem eccFixKeys_only (s : State) (keys : List Nat) : OnlyBytes (fun _ => False) s (eccFixKeys s keys) := by
  unfold eccFixKeys
  split
  · exact OnlyBytes.refl _ s
  · exact ⟨rfl, fun e he => (List.mem_filter.1 he).1, fun _ h => h, fun _ _ => rfl⟩

@[simp] theorem memByte_eccFixKeys (s : State) (keys : List Nat) (j : Nat) : memByte (eccFixKeys s keys) j = memByte s j :=
  (eccFixKeys_only s keys).2.2.2 j (fun h => h)

theorem eccFixKeys_memInv {s : State} (h : MemInv s) (keys : List Nat) : MemInv (eccFixKeys s keys) := by
  unfold eccFixKeys; split <;> exact h

/-- What writing an element does: of memory, at most the bytes its locations touch. -/
theorem writeLocs_only (s : State) (ls : List Loc) (v : Nat) (h : ∀ l ∈ ls, l.isMem = true) :
    OnlyBytes (fun k => ∃ l ∈ ls, l.touches k) s (writeLocs s ls v) := by
  unfold writeLocs
  exact (writeBytesAt_only s ls v h).trans ((eccFixKeys_only _ _).mono (fun _ hf => hf.elim))

theorem writeLocs_memInv {s : State} (h : MemInv s) (ls : List Loc) (v : Nat) : MemInv (writeLocs s ls v) :=
  eccFixKeys_memInv (writeBytesAt_memInv h ls v) _

theorem eccMerge_memInv {s : State} (h : MemInv s) (id : Nat) (keys : List Nat) : MemInv (eccMerge s id keys) := by
  unfold eccMerge; split
  · exact h
  · exact eccFixKeys_memInv h _

theorem writePiece_memInv {s : State} (h : MemInv s) (id : Nat) (ls : List Loc) (v : Nat) : MemInv (writePiece s id ls v) :=
  eccMerge_memInv (writeBytesAt_memInv h ls v) _ _

/- Plain locations: consecutive bytes under key slot 0 -/

theorem Plain.tail {l : Loc} {t : List Loc} {k n : Nat} (h : Plain (l :: t) k (n + 1)) : Plain t (k + 1) n :=
  ⟨by simpa using h.1, fun i hi => by
    obtain ⟨p, hp⟩ := h.2 (i + 1) (by omega)
    exact ⟨p, by rw [show k + 1 + i = k + (i + 1) by omega]; simpa using hp⟩⟩

theorem Plain.head {l : Loc} {t : List Loc} {k n : Nat} (h : Plain (l :: t) k (n + 1)) : ∃ p, l = .mem k 0 p := by
  obtain ⟨p, hp⟩ := h.2 0 (by omega)
  exact ⟨p, by simpa using hp⟩

theorem readLocs_plain (s : State) {ls : List Loc} {k n : Nat} (h : Plain ls k n) : readLocs s ls = memNat s k n := by
  induction n generalizing ls k with
  | zero => rw [List.eq_nil_of_length_eq_zero h.1]; rfl
  | succ n ih =>
    cases ls with
    | nil => simp [Plain] at h
    | cons l t =>
      obtain ⟨p, rfl⟩ := h.head
      simp [readLocs, readLoc, memNat, ih h.tail]

theorem Plain.isMem {ls : List Loc} {k n : Nat} (h : Plain ls k n) : ∀ l ∈ ls, l.isMem = true := by
  intro l hl
  obtain ⟨i, hi, rfl⟩ := List.getElem_of_mem hl
  obtain ⟨p, hp⟩ := h.2 i (by rw [← h.1]; exact hi)
  rw [List.getElem?_eq_getElem hi] at hp
  rw [Option.some.inj hp]; rfl

theorem Plain.touched {ls : List Loc} {k n j : Nat} (h : Plain ls k n) (hj : ∃ l ∈ ls, l.touches j) :
    k ≤ j ∧ j < k + n := by
  obtain ⟨l, hl, ht⟩ := hj
  obtain ⟨i, hi, rfl⟩ := List.getElem_of_mem hl
  have hi' : i < n := by rw [← h.1]; exact hi
  obtain ⟨p, hp⟩ := h.2 i hi'
  rw [List.getElem?_eq_getElem hi] at hp
  rw [Option.some.inj hp] at ht
  simp only [Loc.touches, if_true] at ht
  omega

theorem memNat_congr {s t : State} {k n : Nat} (h : ∀ i < n, memByte t (k + i) = memByte s (k + i)) :
    memNat t k n = memNat s k n := by
  induction n generalizing k with
  | zero => rfl
  | succ n ih =>
    have h0 := h 0 (by omega)
    simp only [Nat.add_zero] at h0
    simp only [memNat, h0]
    rw [ih (fun i hi => by rw [show k + 1 + i = k + (i + 1) by omega]; exact h (i + 1) (by omega))]

theorem memNat_writeBytesAt (s : State) {ls : List Loc} {k n : Nat} (v : Nat) (h : Plain ls k n) :
    memNat (writeBytesAt s ls v) k n = v % 256 ^ n := by
  induction n generalizing ls k s v with
  | zero => simp [memNat, Nat.mod_one]
  | succ n ih =>
    cases ls with
    | nil => simp [Plain] at h
    | cons l t =>
      obtain ⟨p, rfl⟩ := h.head
      have ht := h.tail
      simp only [memNat, writeBytesAt]
      rw [ih _ (v / 256) ht, (writeBytesAt_only _ t _ ht.isMem).2.2.2 k (fun hk => by
        have := ht.touched hk; omega)]
      simp only [writeLoc, if_true, memByte_setByte]
      rw [Nat.pow_succ, Nat.mul_comm (256 ^ n) 256, Nat.mod_mul]
      simp

/-- An element written under key slot 0 reads back. -/
theorem memNat_writeLocs (s : State) {ls : List Loc} {k n : Nat} (v : Nat) (h : Plain ls k n) :
    memNat (writeLocs s ls v) k n = v % 256 ^ n := by
  rw [← memNat_writeBytesAt s v h]
  exact memNat_congr (fun i _ => by simp [writeLocs])

/- Held homes -/

/-- Where nothing is held, no access is. -/
theorem heldBy_nothing {s : State} (h : nothingHeld s = true) (die home : Nat) : heldBy s die home = false := by
  simp only [nothingHeld, Bool.and_eq_true] at h
  have hd : (s.die home).resetAt.isNone = true := Store.get_of_all (p := fun x : Die => x.resetAt.isNone) rfl h.1 home
  have hl : (!windowOpen s (s.link die home)) = true :=
    Store.get_of_all (p := fun x : Link => !windowOpen s x) rfl h.2 _
  simp only [Bool.not_eq_true'] at hl
  simp [heldBy, Option.isNone_iff_eq_none.mp hd, hl]

theorem walkHeld_nothing {s : State} (h : nothingHeld s = true) (va : Nat) : ∀ fuel level die tab,
    walkHeld s va fuel level die tab = false
  | 0, _, _, _ => rfl
  | fuel + 1, level, die, tab => by
    simp only [walkHeld, heldBy_nothing h, Bool.false_or]
    split
    · exact walkHeld_nothing h va fuel _ _ _
    · rfl

theorem translateHeld_nothing {s : State} (h : nothingHeld s = true) (ctx : W16) (va : Nat) : translateHeld s ctx va = false := by
  unfold translateHeld; split
  · rfl
  · exact walkHeld_nothing h _ _ _ _ _

theorem leafCheck_held (s : State) (ctx : W16) (op : MemOp) (a : W64) (l : Leaf) (lv : Nat) :
    (leafCheck s ctx op a l lv).held = false := by
  unfold leafCheck; simp only; repeat' split
  all_goals rfl

theorem access_nothing {s : State} (h : nothingHeld s = true) (w : Who) (op : MemOp) (a : W64) (n : Nat) :
    (access s w op a n).held = false := by
  unfold access Leaf.held
  simp only [translateHeld_nothing h, heldBy_nothing h, Bool.or_self, Bool.false_eq_true, if_false]
  repeat' split
  all_goals first
    | rfl
    | next heq => exact (congrArg Res.held heq).symm.trans (leafCheck_held s w.ctxid op a _ _)

/- The combining buffer -/

/-- Bytes stay where a home of them is held or an older element that stays shares a byte: where nothing is held, none. -/
theorem wcKept_eq (s : State) (w : Who) (l : List WcByte) : wcKept s w l = wcStay s w l l [] := by
  unfold wcKept; split
  · next h =>
    have key : ∀ t, wcStay s w l t [] = [] := by
      intro t
      induction t with
      | nil => rfl
      | cons b t ih => simp [wcStay, WcByte.place, access_nothing h, ih]
    exact (key l).symm
  · rfl

theorem writeEach_memInv {s : State} (h : MemInv s) (l : List (Loc × Nat)) : MemInv (writeEach s l) := by
  induction l generalizing s with
  | nil => exact h
  | cons b t ih => exact ih (writeLoc_memInv h _ _)

theorem writeWc_memInv {s : State} (h : MemInv s) (l : List (Loc × Nat)) : MemInv (writeWc s l) :=
  eccFixKeys_memInv (writeEach_memInv h _) _

theorem flushWc_memInv {s : State} (h : MemInv s) (w : Who) (l : List WcByte) : MemInv (flushWc s w l) := writeWc_memInv h _

theorem modCtx_memInv {s : State} (h : MemInv s) (cid : Nat) (f : Ctx → Ctx) : MemInv (s.modCtx cid f) := by
  unfold State.modCtx; split <;> exact h

theorem flush_memInv {s : State} (h : MemInv s) (cid : Nat) : MemInv (s.flush cid) := by
  unfold State.flush; split
  · exact h
  · exact modCtx_memInv (flushWc_memInv h _ _) _ _

theorem flushSome_memInv {s : State} (h : MemInv s) (cid : Nat) (p : WcByte → Bool) : MemInv (s.flushSome cid p) := by
  unfold State.flushSome; split
  · exact h
  · exact modCtx_memInv (writeWc_memInv h _) _ _

/- Element stores -/

theorem putFor_memInv {s : State} (h : MemInv s) (cid : Nat) (sec : Bool) (e a : W64) (ls : List Loc) (leaf : Option Leaf)
    (n v : Nat) : MemInv (putFor s cid sec e a ls leaf n v) := by
  unfold putFor; split
  · exact h
  · split
    · split
      · exact modCtx_memInv h _ _
      · exact writeLocs_memInv h _ _
    · exact writeLocs_memInv h _ _

theorem putSpans_memInv {s : State} (h : MemInv s) (cid : Nat) (sec : Bool) (e : W64) (l : List Span) (v : Nat) :
    MemInv (putSpans s cid sec e l v) := by
  induction l generalizing s v with
  | nil => exact h
  | cons x t ih => exact ih (eccMerge_memInv (putFor_memInv h _ _ _ _ _ _ _ _) _ _) _

/-- A vector store keeps memory's form, whatever of it a step makes. -/
theorem vecWrites_memInv (w : Who) (cid : Nat) (sec : Bool) (n : Nat) {s : State} (h : MemInv s) (p : VecPart) :
    MemInv (vecWrites w cid sec n s p).1 := by
  induction n generalizing s p with
  | zero => exact h
  | succ n ih =>
    obtain ⟨i, accs, vals, spans⟩ := p
    cases accs with
    | nil => exact h
    | cons x t => cases vals with
      | nil => exact h
      | cons v vs => cases spans with
        | nil => exact h
        | cons c cs =>
          simp only [vecWrites]
          split
          · exact h
          · exact ih (putSpans_memInv h _ _ _ _ _) _

end Sys2Proof.Machine
end

