-- ==== Sys2Proof/Laws/PerInstr.lean ====
section
/-! SUPPORT. Facts that hold of every constructor of Instr, one lemma each: what has an encoding (R259). -/
namespace Sys2Proof.Laws.Encoded

/-- An instruction has a word exactly if it is an instruction word and not an event of an agent. -/
def Statement (i : Instr) : Prop := (encode i).isSome = i.isWord

theorem aclr (gd : Guard) (ko : KNum) (ka : KNum) (kb : KNum) (kc : KNum) (gb : GReg) (bg : Bool) : Statement (.aclr gd ko ka kb kc gb bg) := rfl
theorem add (gd : Guard) (d : GReg) (a : GReg) (b : GReg) : Statement (.add gd d a b) := rfl
theorem and (gd : Guard) (d : GReg) (a : GReg) (b : GReg) : Statement (.and gd d a b) := rfl
theorem andn (gd : Guard) (d : GReg) (a : GReg) (b : GReg) : Statement (.andn gd d a b) := rfl
theorem addi (gd : Guard) (d : GReg) (a : GReg) (imm : W32) : Statement (.addi gd d a imm) := rfl
theorem andi (gd : Guard) (d : GReg) (a : GReg) (imm : W32) : Statement (.andi gd d a imm) := rfl
theorem adrain (gd : Guard) (ko : KNum) (ka : KNum) (kb : KNum) (kc : KNum) (ga : GReg) (gb : GReg) (bg : Bool) : Statement (.adrain gd ko ka kb kc ga gb bg) := rfl
theorem amo (gd : Guard) (d : GReg) (a : GReg) (b : GReg) (c : GReg) (op : AmoOp) (wide : Bool) : Statement (.amo gd d a b c op wide) := rfl
theorem aq (gd : Guard) : Statement (.aq gd) := rfl
theorem arel (gd : Guard) : Statement (.arel gd) := rfl
theorem arrive (gd : Guard) (ko : KNum) (ka : KNum) (kb : KNum) (kc : KNum) (ga : GReg) (gb : GReg) : Statement (.arrive gd ko ka kb kc ga gb) := rfl
theorem aswap (gd : Guard) (ko : KNum) (ka : KNum) (kb : KNum) (kc : KNum) (bg : Bool) : Statement (.aswap gd ko ka kb kc bg) := rfl
theorem bar (gd : Guard) (mode : BarMode) (scope : BarScope) (id : BitVec 4) : Statement (.bar gd mode scope id) := rfl
theorem br (gd : Guard) (off : W32) : Statement (.br gd off) := rfl
theorem brl (gd : Guard) (off : W32) : Statement (.brl gd off) := rfl
theorem cancel (gd : Guard) (a : GReg) (lvl : Level) : Statement (.cancel gd a lvl) := rfl
theorem cas (gd : Guard) (d : GReg) (a : GReg) (b : GReg) (c : GReg) (wide : Bool) : Statement (.cas gd d a b c wide) := rfl
theorem chain (gd : Guard) (a : GReg) (spill : Bool) (off : BitVec 28) : Statement (.chain gd a spill off) := rfl
theorem clz (gd : Guard) (d : GReg) (a : GReg) : Statement (.clz gd d a) := rfl
theorem cmp (gd : Guard) (d : PNum) (a : GReg) (b : GReg) (cond : Cond) : Statement (.cmp gd d a b cond) := rfl
theorem cmpi (gd : Guard) (d : PNum) (a : GReg) (cond : Cond) (imm : W32) : Statement (.cmpi gd d a cond imm) := rfl
theorem div (gd : Guard) (d : GReg) (a : GReg) (b : GReg) : Statement (.div gd d a b) := rfl
theorem divu (gd : Guard) (d : GReg) (a : GReg) (b : GReg) : Statement (.divu gd d a b) := rfl
theorem edge (gd : Guard) (ko : KNum) (ka : KNum) (kb : KNum) (kc : KNum) (ga : GReg) (bg : Bool) : Statement (.edge gd ko ka kb kc ga bg) := rfl
theorem eret (gd : Guard) : Statement (.eret gd) := rfl
theorem exit (gd : Guard) (mask : BitVec 6) : Statement (.exit gd mask) := rfl
theorem ext (gd : Guard) (d : GReg) (a : GReg) (width : ExtW) (sgn : Bool) : Statement (.ext gd d a width sgn) := rfl
theorem fence (gd : Guard) (wc : Bool) (sys : Bool) (eng : Bool) (ifetch : Bool) : Statement (.fence gd wc sys eng ifetch) := rfl
theorem ffuse (gd : Guard) : Statement (.ffuse gd) := rfl
theorem fsplit (gd : Guard) (d : GReg) (a : GReg) (col : Bool) : Statement (.fsplit gd d a col) := rfl
theorem gcfg (gd : Guard) (ko : KNum) (ka : KNum) (kb : KNum) (kc : KNum) (ga : GReg) : Statement (.gcfg gd ko ka kb kc ga) := rfl
theorem gspill (gd : Guard) (ko : KNum) (ka : KNum) (kb : KNum) (kc : KNum) (ga : GReg) : Statement (.gspill gd ko ka kb kc ga) := rfl
theorem gstart (gd : Guard) (ko : KNum) (ka : KNum) (kb : KNum) (kc : KNum) : Statement (.gstart gd ko ka kb kc) := rfl
theorem gstop (gd : Guard) (ko : KNum) (ka : KNum) (kb : KNum) (kc : KNum) : Statement (.gstop gd ko ka kb kc) := rfl
theorem jr (gd : Guard) (a : GReg) (off : W32) : Statement (.jr gd a off) := rfl
theorem jrl (gd : Guard) (a : GReg) (off : W32) : Statement (.jrl gd a off) := rfl
theorem kwatch (gd : Guard) (ko : KNum) (ka : KNum) (kb : KNum) (kc : KNum) (ga : GReg) (gb : GReg) : Statement (.kwatch gd ko ka kb kc ga gb) := rfl
theorem launch (gd : Guard) (ko : KNum) (ka : KNum) (kb : KNum) (kc : KNum) (ga : GReg) : Statement (.launch gd ko ka kb kc ga) := rfl
theorem ld (gd : Guard) (d : GReg) (a : GReg) (sz : BitVec 2) (sgn : Bool) (hint : BitVec 4) (off : W32) : Statement (.ld gd d a sz sgn hint off) := rfl
theorem st (gd : Guard) (d : GReg) (a : GReg) (sz : BitVec 2) (sys : Bool) (off : W32) : Statement (.st gd d a sz sys off) := rfl
theorem ldv (gd : Guard) (d : VNum) (a : GReg) (tag : Tag) (hint : BitVec 4) (off : W32) : Statement (.ldv gd d a tag hint off) := rfl
theorem stv (gd : Guard) (d : VNum) (a : GReg) (tag : Tag) (off : W32) : Statement (.stv gd d a tag off) := rfl
theorem li (gd : Guard) (d : GReg) (imm : W32) : Statement (.li gd d imm) := rfl
theorem lih (gd : Guard) (d : GReg) (a : GReg) (imm : W32) : Statement (.lih gd d a imm) := rfl
theorem loop (gd : Guard) (a : GReg) (off : W32) : Statement (.loop gd a off) := rfl
theorem max (gd : Guard) (d : GReg) (a : GReg) (b : GReg) : Statement (.max gd d a b) := rfl
theorem maxu (gd : Guard) (d : GReg) (a : GReg) (b : GReg) : Statement (.maxu gd d a b) := rfl
theorem min (gd : Guard) (d : GReg) (a : GReg) (b : GReg) : Statement (.min gd d a b) := rfl
theorem minu (gd : Guard) (d : GReg) (a : GReg) (b : GReg) : Statement (.minu gd d a b) := rfl
theorem mfc (gd : Guard) (d : GReg) (num : BitVec 12) : Statement (.mfc gd d num) := rfl
theorem mtc (gd : Guard) (a : GReg) (num : BitVec 12) : Statement (.mtc gd a num) := rfl
theorem mlog (gd : Guard) (d : MNum) (a : MNum) (b : MNum) (tbl : BitVec 4) : Statement (.mlog gd d a b tbl) := rfl
theorem mma (gd : Guard) (ko : KNum) (ka : KNum) (kb : KNum) (kc : KNum) (ga : GReg) (gb : GReg) (bg : Bool) (chn : Bool) (rag : Bool) (cin : Bool) (set : Bool) : Statement (.mma gd ko ka kb kc ga gb bg chn rag cin set) := rfl
theorem mul (gd : Guard) (d : GReg) (a : GReg) (b : GReg) : Statement (.mul gd d a b) := rfl
theorem mulh (gd : Guard) (d : GReg) (a : GReg) (b : GReg) : Statement (.mulh gd d a b) := rfl
theorem mulhu (gd : Guard) (d : GReg) (a : GReg) (b : GReg) : Statement (.mulhu gd d a b) := rfl
theorem nop (gd : Guard) : Statement (.nop gd) := rfl
theorem or (gd : Guard) (d : GReg) (a : GReg) (b : GReg) : Statement (.or gd d a b) := rfl
theorem ori (gd : Guard) (d : GReg) (a : GReg) (imm : W32) : Statement (.ori gd d a imm) := rfl
theorem popc (gd : Guard) (d : GReg) (a : GReg) : Statement (.popc gd d a) := rfl
theorem pset (gd : Guard) (d : PNum) (a : PNum) (b : PNum) (tbl : BitVec 4) : Statement (.pset gd d a b tbl) := rfl
theorem qmark (gd : Guard) (mask : BitVec 6) : Statement (.qmark gd mask) := rfl
theorem rem (gd : Guard) (d : GReg) (a : GReg) (b : GReg) : Statement (.rem gd d a b) := rfl
theorem remu (gd : Guard) (d : GReg) (a : GReg) (b : GReg) : Statement (.remu gd d a b) := rfl
theorem sel (gd : Guard) (d : GReg) (a : GReg) (b : GReg) (c : PNum) : Statement (.sel gd d a b c) := rfl
theorem shl (gd : Guard) (d : GReg) (a : GReg) (b : GReg) : Statement (.shl gd d a b) := rfl
theorem shr (gd : Guard) (d : GReg) (a : GReg) (b : GReg) : Statement (.shr gd d a b) := rfl
theorem shra (gd : Guard) (d : GReg) (a : GReg) (b : GReg) : Statement (.shra gd d a b) := rfl
theorem shli (gd : Guard) (d : GReg) (a : GReg) (sh : BitVec 6) : Statement (.shli gd d a sh) := rfl
theorem shri (gd : Guard) (d : GReg) (a : GReg) (sh : BitVec 6) : Statement (.shri gd d a sh) := rfl
theorem shrai (gd : Guard) (d : GReg) (a : GReg) (sh : BitVec 6) : Statement (.shrai gd d a sh) := rfl
theorem strm (gd : Guard) (ko : KNum) (ka : KNum) (kb : KNum) (kc : KNum) (ga : GReg) (gb : GReg) : Statement (.strm gd ko ka kb kc ga gb) := rfl
theorem sub (gd : Guard) (d : GReg) (a : GReg) (b : GReg) : Statement (.sub gd d a b) := rfl
theorem sys (gd : Guard) (code : BitVec 28) : Statement (.sys gd code) := rfl
theorem tjoin (gd : Guard) (ko : KNum) (ka : KNum) (kb : KNum) (kc : KNum) : Statement (.tjoin gd ko ka kb kc) := rfl
theorem tstat (gd : Guard) (d : GReg) (ka : KNum) : Statement (.tstat gd d ka) := rfl
theorem twait (gd : Guard) (ka : KNum) (kb : KNum) (kc : KNum) : Statement (.twait gd ka kb kc) := rfl
theorem trapf (gd : Guard) : Statement (.trapf gd) := rfl
theorem unchain (gd : Guard) : Statement (.unchain gd) := rfl
theorem vadd (gd : Guard) (d : VNum) (a : VNum) (b : VNum) (fmt : Tag) (rm : Rm) (sat : Bool) (mk : Option MNum) : Statement (.vadd gd d a b fmt rm sat mk) := rfl
theorem vsub (gd : Guard) (d : VNum) (a : VNum) (b : VNum) (fmt : Tag) (rm : Rm) (sat : Bool) (mk : Option MNum) : Statement (.vsub gd d a b fmt rm sat mk) := rfl
theorem vmul (gd : Guard) (d : VNum) (a : VNum) (b : VNum) (fmt : Tag) (rm : Rm) (sat : Bool) (mk : Option MNum) : Statement (.vmul gd d a b fmt rm sat mk) := rfl
theorem vfma (gd : Guard) (d : VNum) (a : VNum) (b : VNum) (c : VNum) (fmt : Tag) (rm : Rm) (sat : Bool) (mk : Option MNum) : Statement (.vfma gd d a b c fmt rm sat mk) := rfl
theorem vmin (gd : Guard) (d : VNum) (a : VNum) (b : VNum) (fmt : Tag) (rm : Rm) (sat : Bool) (mk : Option MNum) : Statement (.vmin gd d a b fmt rm sat mk) := rfl
theorem vmax (gd : Guard) (d : VNum) (a : VNum) (b : VNum) (fmt : Tag) (rm : Rm) (sat : Bool) (mk : Option MNum) : Statement (.vmax gd d a b fmt rm sat mk) := rfl
theorem vabs (gd : Guard) (d : VNum) (a : VNum) (fmt : Tag) (rm : Rm) (sat : Bool) (mk : Option MNum) : Statement (.vabs gd d a fmt rm sat mk) := rfl
theorem vneg (gd : Guard) (d : VNum) (a : VNum) (fmt : Tag) (rm : Rm) (sat : Bool) (mk : Option MNum) : Statement (.vneg gd d a fmt rm sat mk) := rfl
theorem vrcp (gd : Guard) (d : VNum) (a : VNum) (fmt : Tag) (rm : Rm) (sat : Bool) (mk : Option MNum) : Statement (.vrcp gd d a fmt rm sat mk) := rfl
theorem vrsq (gd : Guard) (d : VNum) (a : VNum) (fmt : Tag) (rm : Rm) (sat : Bool) (mk : Option MNum) : Statement (.vrsq gd d a fmt rm sat mk) := rfl
theorem vexp (gd : Guard) (d : VNum) (a : VNum) (fmt : Tag) (rm : Rm) (sat : Bool) (mk : Option MNum) : Statement (.vexp gd d a fmt rm sat mk) := rfl
theorem vlog (gd : Guard) (d : VNum) (a : VNum) (fmt : Tag) (rm : Rm) (sat : Bool) (mk : Option MNum) : Statement (.vlog gd d a fmt rm sat mk) := rfl
theorem viadd (gd : Guard) (d : VNum) (a : VNum) (b : VNum) (mk : Option MNum) : Statement (.viadd gd d a b mk) := rfl
theorem visub (gd : Guard) (d : VNum) (a : VNum) (b : VNum) (mk : Option MNum) : Statement (.visub gd d a b mk) := rfl
theorem vimul (gd : Guard) (d : VNum) (a : VNum) (b : VNum) (mk : Option MNum) : Statement (.vimul gd d a b mk) := rfl
theorem vand (gd : Guard) (d : VNum) (a : VNum) (b : VNum) (mk : Option MNum) : Statement (.vand gd d a b mk) := rfl
theorem vor (gd : Guard) (d : VNum) (a : VNum) (b : VNum) (mk : Option MNum) : Statement (.vor gd d a b mk) := rfl
theorem vxor (gd : Guard) (d : VNum) (a : VNum) (b : VNum) (mk : Option MNum) : Statement (.vxor gd d a b mk) := rfl
theorem vshl (gd : Guard) (d : VNum) (a : VNum) (b : VNum) (mk : Option MNum) : Statement (.vshl gd d a b mk) := rfl
theorem vshr (gd : Guard) (d : VNum) (a : VNum) (b : VNum) (mk : Option MNum) : Statement (.vshr gd d a b mk) := rfl
theorem vshra (gd : Guard) (d : VNum) (a : VNum) (b : VNum) (mk : Option MNum) : Statement (.vshra gd d a b mk) := rfl
theorem vbc (gd : Guard) (d : VNum) (a : GReg) (fmt : Tag) (mk : Option MNum) : Statement (.vbc gd d a fmt mk) := rfl
theorem vcmp (gd : Guard) (d : MNum) (a : VNum) (b : VNum) (cond : VCond) : Statement (.vcmp gd d a b cond) := rfl
theorem vcvt (gd : Guard) (d : VNum) (a : VNum) (fmt : Tag) (rm : Rm) (sat : Bool) (mk : Option MNum) : Statement (.vcvt gd d a fmt rm sat mk) := rfl
theorem vldx (gd : Guard) (d : VNum) (a : GReg) (b : VNum) (fmt : Tag) (mk : Option MNum) : Statement (.vldx gd d a b fmt mk) := rfl
theorem vstx (gd : Guard) (d : VNum) (a : GReg) (b : VNum) (fmt : Tag) (mk : Option MNum) : Statement (.vstx gd d a b fmt mk) := rfl
theorem vperm (gd : Guard) (d : VNum) (a : VNum) (b : VNum) (mk : Option MNum) : Statement (.vperm gd d a b mk) := rfl
theorem vqnt (gd : Guard) (d : VNum) (a : VNum) (fmt : Tag) (rm : Rm) (sat : Bool) (mk : Option MNum) : Statement (.vqnt gd d a fmt rm sat mk) := rfl
theorem vred (gd : Guard) (d : GReg) (a : VNum) (op : RedOp) (rm : Rm) : Statement (.vred gd d a op rm) := rfl
theorem vsel (gd : Guard) (d : VNum) (a : VNum) (b : VNum) (c : MNum) : Statement (.vsel gd d a b c) := rfl
theorem vtag (gd : Guard) (d : VNum) (a : VNum) (tag : Tag) : Statement (.vtag gd d a tag) := rfl
theorem vtagRead (gd : Guard) (d : GReg) (a : VNum) : Statement (.vtagRead gd d a) := rfl
theorem vxtr (gd : Guard) (d : GReg) (a : VNum) (b : GReg) : Statement (.vxtr gd d a b) := rfl
theorem waitge (gd : Guard) (d : GReg) (a : GReg) (sz : BitVec 2) (sgn : Bool) (hint : BitVec 4) (off : W32) : Statement (.waitge gd d a sz sgn hint off) := rfl
theorem wload (gd : Guard) (ko : KNum) (ka : KNum) (kb : KNum) (kc : KNum) (ga : GReg) (gb : GReg) (bg : Bool) : Statement (.wload gd ko ka kb kc ga gb bg) := rfl
theorem wswap (gd : Guard) (ko : KNum) (ka : KNum) (kb : KNum) (kc : KNum) (bg : Bool) : Statement (.wswap gd ko ka kb kc bg) := rfl
theorem xcast (gd : Guard) (ko : KNum) (ka : KNum) (kb : KNum) (kc : KNum) (ga : GReg) (gb : GReg) (res : Option GReg) : Statement (.xcast gd ko ka kb kc ga gb res) := rfl
theorem xcopy (gd : Guard) (ko : KNum) (ka : KNum) (kb : KNum) (kc : KNum) (ga : GReg) (gb : GReg) (res : Option GReg) : Statement (.xcopy gd ko ka kb kc ga gb res) := rfl
theorem xred (gd : Guard) (ko : KNum) (ka : KNum) (kb : KNum) (kc : KNum) (ga : GReg) (gb : GReg) (res : Option GReg) : Statement (.xred gd ko ka kb kc ga gb res) := rfl
theorem xfetch (gd : Guard) (ko : KNum) (ka : KNum) (kb : KNum) (kc : KNum) (ga : GReg) : Statement (.xfetch gd ko ka kb kc ga) := rfl
theorem xsend (gd : Guard) (ko : KNum) (ka : KNum) (kb : KNum) (kc : KNum) (ga : GReg) (gb : GReg) (add : Bool) (res : Option GReg) : Statement (.xsend gd ko ka kb kc ga gb add res) := rfl
theorem xor (gd : Guard) (d : GReg) (a : GReg) (b : GReg) : Statement (.xor gd d a b) := rfl
theorem xori (gd : Guard) (d : GReg) (a : GReg) (imm : W32) : Statement (.xori gd d a imm) := rfl
theorem yield (gd : Guard) (n : BitVec 6) : Statement (.yield gd n) := rfl
theorem commandStart (seq : Nat) (q : Nat) : Statement (.commandStart seq q) := rfl
theorem commandBoundary (seq : Nat) : Statement (.commandBoundary seq) := rfl
theorem commandCompletion (seq : Nat) (q : Nat) (id : Nat) (upto : Nat) : Statement (.commandCompletion seq q id upto) := rfl
theorem raggedCounterRead (seq : Nat) : Statement (.raggedCounterRead seq) := rfl
theorem spillEngineMove (seq : Nat) (port : Option Nat) : Statement (.spillEngineMove seq port) := rfl
theorem gridCycle (seq : Nat) : Statement (.gridCycle seq) := rfl
theorem kwatchRead (seq : Nat) (id : Nat) : Statement (.kwatchRead seq id) := rfl
theorem waitgeRead (cid : Nat) : Statement (.waitgeRead cid) := rfl
theorem wcVisibilityTimeout (cid : Nat) : Statement (.wcVisibilityTimeout cid) := rfl
theorem launchAccept (cid : Nat) (id : Nat) : Statement (.launchAccept cid id) := rfl
theorem weightReturn (src : PartSrc) : Statement (.weightReturn src) := rfl
theorem graphNodeSpawn (ent : Nat) (node : Nat) : Statement (.graphNodeSpawn ent node) := rfl
theorem fragmentFree (seq : Nat) : Statement (.fragmentFree seq) := rfl
theorem unitCompletion (lid : Nat) (unit : Nat) : Statement (.unitCompletion lid unit) := rfl
theorem selection : Statement (.selection) := rfl
theorem priorityAgeingStep (lid : Nat) : Statement (.priorityAgeingStep lid) := rfl
theorem waitQuantumExpiry (cid : Nat) : Statement (.waitQuantumExpiry cid) := rfl
theorem yieldWindowExpiry (cid : Nat) : Statement (.yieldWindowExpiry cid) := rfl
theorem quiesceComplete (cid : Nat) : Statement (.quiesceComplete cid) := rfl
theorem imageWriteDone (cid : Nat) : Statement (.imageWriteDone cid) := rfl
theorem resumptionReadDone (cid : Nat) : Statement (.resumptionReadDone cid) := rfl
theorem tenureLimit (seq : Nat) : Statement (.tenureLimit seq) := rfl
theorem cancelAtHome (idx : Nat) : Statement (.cancelAtHome idx) := rfl
theorem firmwarePageServiceDone (cid : Nat) (cmd : Option Nat) (maps : Option (List (Nat × Nat × W64 × W64))) : Statement (.firmwarePageServiceDone cid cmd maps) := rfl
theorem sliceReport (lid : Nat) : Statement (.sliceReport lid) := rfl
theorem ready (hdr : FHdr) (slice : Nat) (ok : Bool) : Statement (.ready hdr slice ok) := rfl
theorem sliceDecision (lid : Nat) : Statement (.sliceDecision lid) := rfl
theorem go (hdr : FHdr) (slice : Nat) : Statement (.go hdr slice) := rfl
theorem sliceStart (lid : Nat) : Statement (.sliceStart lid) := rfl
theorem abandon (hdr : FHdr) (slice : Nat) : Statement (.abandon hdr slice) := rfl
theorem fail (hdr : FHdr) (slice : Nat) : Statement (.fail hdr slice) := rfl
theorem sliceReoffer (lid : Nat) : Statement (.sliceReoffer lid) := rfl
theorem fabricWrite (rdie : Nat) (hdr : FHdr) (t : Target) (u : UnitAt) (data : List Byte) : Statement (.fabricWrite rdie hdr t u data) := rfl
theorem fabricAdd (rdie : Nat) (hdr : FHdr) (t : Target) (u : UnitAt) (fp : Bool) (data : List Byte) : Statement (.fabricAdd rdie hdr t u fp data) := rfl
theorem fetchOrder (rdie : Nat) (hdr : FHdr) (o : FetchOrder) (upto : Nat) : Statement (.fetchOrder rdie hdr o upto) := rfl
theorem fetchUnit (rdie : Nat) (hdr : FHdr) (o : FetchOrder) (off : Nat) (data : List Byte) : Statement (.fetchUnit rdie hdr o off data) := rfl
theorem fetchEnd (hdr : FHdr) (endOff : Nat) : Statement (.fetchEnd hdr endOff) := rfl
theorem landed (hdr : FHdr) (landedTo : Nat) : Statement (.landed hdr landedTo) := rfl
theorem fabricCommit (rdie : Nat) (hdr : FHdr) (addr : W64) (length : Nat) : Statement (.fabricCommit rdie hdr addr length) := rfl
theorem committed (hdr : FHdr) : Statement (.committed hdr) := rfl
theorem fabricStop (hdr : FHdr) : Statement (.fabricStop hdr) := rfl
theorem report (rdie : Nat) (hdr : FHdr) (resume : Nat) (endOff : Nat) : Statement (.report rdie hdr resume endOff) := rfl
theorem negativeReply (hdr : FHdr) (code : Nat) (n : NakAt) : Statement (.negativeReply hdr code n) := rfl
theorem acknowledgement (hdr : FHdr) (off : Nat) : Statement (.acknowledgement hdr off) := rfl
theorem resetNotice (pkg : Nat) (die : Nat) (inc : Nat) : Statement (.resetNotice pkg die inc) := rfl
theorem portLoss (pkg : Nat) : Statement (.portLoss pkg) := rfl
theorem noProgressTimeout (buf : FabBuffer) : Statement (.noProgressTimeout buf) := rfl
theorem fabricTime (ns : Nat) : Statement (.fabricTime ns) := rfl
theorem linkStep (a : Nat) (b : Nat) : Statement (.linkStep a b) := rfl
theorem retrainingWindowClose (a : Nat) (b : Nat) : Statement (.retrainingWindowClose a b) := rfl
theorem hostAccess (link : Nat) (die : Nat) (addr : Nat) (n : Nat) (wr : Option (List Byte)) : Statement (.hostAccess link die addr n wr) := rfl
theorem claim (m : W16) (n : W64) : Statement (.claim m n) := rfl
theorem handover (m : W16) (v : W64) : Statement (.handover m v) := rfl
theorem commit (m : W16) (n : BitVec 48) : Statement (.commit m n) := rfl
theorem release (m : W16) (v : W64) : Statement (.release m v) := rfl
theorem registerWrite (m : W16) (off : Nat) (v : W64) : Statement (.registerWrite m off v) := rfl
theorem tail (m : W16) (q : Nat) (v : W64) : Statement (.tail m q v) := rfl
theorem tailWordRead (q : Nat) : Statement (.tailWordRead q) := rfl
theorem queueEnable (m : W16) (q : Nat) : Statement (.queueEnable m q) := rfl
theorem queueDisable (m : W16) (q : Nat) : Statement (.queueDisable m q) := rfl
theorem stopPacket (q : Nat) : Statement (.stopPacket q) := rfl
theorem nopPacket (q : Nat) : Statement (.nopPacket q) := rfl
theorem launchPacket (q : Nat) : Statement (.launchPacket q) := rfl
theorem sliceLaunch (q : Nat) : Statement (.sliceLaunch q) := rfl
theorem graph (q : Nat) : Statement (.graph q) := rfl
theorem waitThreshold (q : Nat) : Statement (.waitThreshold q) := rfl
theorem waitQueue (q : Nat) : Statement (.waitQueue q) := rfl
theorem waitHandle (q : Nat) : Statement (.waitHandle q) := rfl
theorem waitRelease (q : Nat) : Statement (.waitRelease q) := rfl
theorem signalStore (q : Nat) : Statement (.signalStore q) := rfl
theorem signalAdd (q : Nat) : Statement (.signalAdd q) := rfl
theorem call (q : Nat) : Statement (.call q) := rfl
theorem pred (q : Nat) : Statement (.pred q) := rfl
theorem loopPacket (q : Nat) : Statement (.loopPacket q) := rfl
theorem ffence (q : Nat) : Statement (.ffence q) := rfl
theorem resumePacket (q : Nat) : Statement (.resumePacket q) := rfl
theorem chkpt (q : Nat) : Statement (.chkpt q) := rfl
theorem timePacket (q : Nat) : Statement (.timePacket q) := rfl
theorem phase (q : Nat) : Statement (.phase q) := rfl
theorem coalWindowExpiry (q : Nat) : Statement (.coalWindowExpiry q) := rfl
theorem jobOpen (m : W16) (ctx : W64) (rootDie : W64) (rootAddr : W64) (pfh : W64) (tvec : W64) (sscr : W64) (saveAddr : W64) (saveLen : W64) : Statement (.jobOpen m ctx rootDie rootAddr pfh tvec sscr saveAddr saveLen) := rfl
theorem jobClose (m : W16) (ctx : W64) : Statement (.jobClose m ctx) := rfl
theorem fatSet (m : W16) (index : W64) (addr : W64) : Statement (.fatSet m index addr) := rfl
theorem groupSet (m : W16) (gid : W64) (ver : W64) (addr : W64) (count : W64) : Statement (.groupSet m gid ver addr count) := rfl
theorem keyLoad (m : W16) (slot : W64) (addr : W64) : Statement (.keyLoad m slot addr) := rfl
theorem faultrec (m : W16) (handle : W64) (addr : W64) : Statement (.faultrec m handle addr) := rfl
theorem images (m : W16) (ctx : W64) (addr : W64) (count : W64) : Statement (.images m ctx addr count) := rfl
theorem imageFree (m : W16) (ctx : W64) (addr : W64) : Statement (.imageFree m ctx addr) := rfl
theorem fwStage (m : W16) (addr : W64) (len : W64) : Statement (.fwStage m addr len) := rfl
theorem fwCommit (m : W16) : Statement (.fwCommit m) := rfl
theorem fwAbort (m : W16) : Statement (.fwAbort m) := rfl
theorem heatSet (m : W16) (die : W64) (heat : W64) : Statement (.heatSet m die heat) := rfl
theorem partition (m : W16) (pid : W64) : Statement (.partition m pid) := rfl
theorem forceRelease (m : W16) : Statement (.forceRelease m) := rfl
theorem scrub (m : W16) (nonce : BitVec 256) : Statement (.scrub m nonce) := rfl
theorem recover (m : W16) : Statement (.recover m) := rfl
theorem opkey (m : W16) (hash : BitVec 256) : Statement (.opkey m hash) := rfl
theorem counters (m : W16) (addr : W64) (ctx : W64) : Statement (.counters m addr ctx) := rfl
theorem dieReset (m : W16) (die : W64) : Statement (.dieReset m die) := rfl
theorem hangWatchdog (die : Nat) : Statement (.hangWatchdog die) := rfl
theorem fatalInternalError (die : Nat) : Statement (.fatalInternalError die) := rfl
theorem dieResetComplete (die : Nat) : Statement (.dieResetComplete die) := rfl
theorem moduleReset : Statement (.moduleReset) := rfl
theorem powerUp : Statement (.powerUp) := rfl
theorem mgmtImageReceived (image : List Byte) : Statement (.mgmtImageReceived image) := rfl
theorem attestationQuote (m : W16) : Statement (.attestationQuote m) := rfl
theorem arithmeticClockStep (die : Nat) (ticks : Nat) : Statement (.arithmeticClockStep die ticks) := rfl
theorem portDownPeriodEnd : Statement (.portDownPeriodEnd) := rfl
theorem powerLoss : Statement (.powerLoss) := rfl
theorem waitReRead (q : Nat) : Statement (.waitReRead q) := rfl
theorem gangBarrierArrival (hdr : FHdr) (slice : Nat) (bar : Nat) : Statement (.gangBarrierArrival hdr slice bar) := rfl
theorem gangBarrierCompletion (hdr : FHdr) (slice : Nat) (bar : Nat) : Statement (.gangBarrierCompletion hdr slice bar) := rfl
theorem mailboxCommandDone : Statement (.mailboxCommandDone) := rfl

end Sys2Proof.Laws.Encoded
end

