-- ==== Sys2Proof/Tests/Slice0.lean ====
section
/-! SUPPORT. Tests: ill-formed terms refused, words written out from the encoding tables, single steps with results
from the spec's own examples, and a state for the hypotheses of every obligation. -/
namespace Sys2Proof.Tests
open Sys2Proof Sys2Proof.Machine

set_option Elab.async false

def gd0 : Guard := ⟨0, false⟩

/- Words (R259, R262 to R264, R87, R105, R119, R121, R195) -/

def reads (l : List (W64 × Instr)) : Bool :=
  l.all (fun e => match decode e.1 with
    | .ok i => decide (i = e.2)
    | .error _ => false)

theorem test_words_0 : reads [
    (0x40#8 ++ 0#3 ++ 0#1 ++ 1#5 ++ 2#5 ++ 3#5 ++ 4#5 ++ 0#6 ++ 6#6 ++ 0x4#8 ++ 0x1#12, .aclr gd0 1 2 3 4 6 true),
    (0x8#8 ++ 0#3 ++ 0#1 ++ 3#6 ++ 4#6 ++ 5#6 ++ 0#6 ++ 0x0#8 ++ 0#4 ++ 0#3 ++ 0#1 ++ 0#4 ++ 0x0#8, .add gd0 3 4 5),
    (0x8#8 ++ 0#3 ++ 0#1 ++ 3#6 ++ 4#6 ++ 5#6 ++ 0#6 ++ 0x10#8 ++ 0#4 ++ 0#3 ++ 0#1 ++ 0#4 ++ 0x0#8, .and gd0 3 4 5),
    (0x8#8 ++ 0#3 ++ 0#1 ++ 3#6 ++ 4#6 ++ 5#6 ++ 0#6 ++ 0x13#8 ++ 0#4 ++ 0#3 ++ 0#1 ++ 0#4 ++ 0x0#8, .andn gd0 3 4 5),
    (0x9#8 ++ 0#3 ++ 0#1 ++ 3#6 ++ 4#6 ++ 0x0#8 ++ 0xFFFFFFFF#32, .addi gd0 3 4 0xFFFFFFFF),
    (0x9#8 ++ 0#3 ++ 0#1 ++ 3#6 ++ 4#6 ++ 0x10#8 ++ 0xFFFFFFC0#32, .andi gd0 3 4 0xFFFFFFC0),
    (0x40#8 ++ 0#3 ++ 0#1 ++ 1#5 ++ 2#5 ++ 3#5 ++ 4#5 ++ 5#6 ++ 6#6 ++ 0x5#8 ++ 0x0#12, .adrain gd0 1 2 3 4 5 6 false),
    (0x28#8 ++ 0#3 ++ 0#1 ++ 1#6 ++ 2#6 ++ 3#6 ++ 0#6 ++ 0x8#8 ++ 0#4 ++ 0#3 ++ 0#1 ++ 1#4 ++ 0x0#8, .amo gd0 1 2 3 0 .xchg true),
    (0x45#8 ++ 0#3 ++ 0#1 ++ 0#6 ++ 0#6 ++ 0x0#12 ++ 0x0#28, .aq gd0),
    (0x46#8 ++ 0#3 ++ 0#1 ++ 0#6 ++ 0#6 ++ 0x0#12 ++ 0x0#28, .arel gd0),
    (0x51#8 ++ 0#3 ++ 0#1 ++ 1#5 ++ 2#5 ++ 3#5 ++ 4#5 ++ 5#6 ++ 6#6 ++ 0x0#8 ++ 0x0#12, .arrive gd0 1 2 3 4 5 6),
    (0x40#8 ++ 0#3 ++ 0#1 ++ 1#5 ++ 2#5 ++ 3#5 ++ 4#5 ++ 0#6 ++ 0#6 ++ 0x3#8 ++ 0x0#12, .aswap gd0 1 2 3 4 false)] = true := by decide +kernel
theorem test_words_1 : reads [
    (0x50#8 ++ 0#3 ++ 0#1 ++ 0#6 ++ 0#6 ++ 0x6#12 ++ 0xF#28, .bar gd0 .wait .launch 15),
    (0x10#8 ++ 0#3 ++ 0#1 ++ 0#6 ++ 0#6 ++ 0x0#8 ++ 0xFFFFFFFE#32, .br gd0 0xFFFFFFFE),
    (0x11#8 ++ 0#3 ++ 0#1 ++ 0#6 ++ 0#6 ++ 0x0#8 ++ 0x3#32, .brl gd0 3),
    (0x53#8 ++ 0#3 ++ 0#1 ++ 0#6 ++ 7#6 ++ 0x2#12 ++ 0x0#28, .cancel gd0 7 .phase),
    (0x29#8 ++ 0#3 ++ 0#1 ++ 1#6 ++ 2#6 ++ 3#6 ++ 4#6 ++ 0x0#8 ++ 0#4 ++ 0#3 ++ 0#1 ++ 0#4 ++ 0x0#8, .cas gd0 1 2 3 4 false),
    (0x43#8 ++ 0#3 ++ 0#1 ++ 0#6 ++ 7#6 ++ 0x1#12 ++ 0xABCDEF#28, .chain gd0 7 true 0xABCDEF),
    (0x8#8 ++ 0#3 ++ 0#1 ++ 3#6 ++ 4#6 ++ 0#6 ++ 0#6 ++ 0x28#8 ++ 0#4 ++ 0#3 ++ 0#1 ++ 0#4 ++ 0x0#8, .clz gd0 3 4),
    (0xA#8 ++ 0#3 ++ 0#1 ++ 5#6 ++ 4#6 ++ 6#6 ++ 0#6 ++ 0x4#8 ++ 0#4 ++ 0#3 ++ 0#1 ++ 0#4 ++ 0x0#8, .cmp gd0 5 4 6 .ltu),
    (0xB#8 ++ 0#3 ++ 0#1 ++ 5#6 ++ 4#6 ++ 0x3#8 ++ 0x9#32, .cmpi gd0 5 4 .ge 9),
    (0x8#8 ++ 0#3 ++ 0#1 ++ 3#6 ++ 4#6 ++ 5#6 ++ 0#6 ++ 0x5#8 ++ 0#4 ++ 0#3 ++ 0#1 ++ 0#4 ++ 0x0#8, .div gd0 3 4 5),
    (0x8#8 ++ 0#3 ++ 0#1 ++ 3#6 ++ 4#6 ++ 5#6 ++ 0#6 ++ 0x6#8 ++ 0#4 ++ 0#3 ++ 0#1 ++ 0#4 ++ 0x0#8, .divu gd0 3 4 5),
    (0x40#8 ++ 0#3 ++ 0#1 ++ 1#5 ++ 2#5 ++ 3#5 ++ 4#5 ++ 5#6 ++ 0#6 ++ 0x6#8 ++ 0x1#12, .edge gd0 1 2 3 4 5 true)] = true := by decide +kernel
theorem test_words_2 : reads [
    (0x58#8 ++ 0#3 ++ 0#1 ++ 0#6 ++ 0#6 ++ 0x0#12 ++ 0x0#28, .eret gd0),
    (0x55#8 ++ 0#3 ++ 0#1 ++ 0#6 ++ 0#6 ++ 0x0#12 ++ 0x3F#28, .exit gd0 0x3F),
    (0x8#8 ++ 0#3 ++ 0#1 ++ 3#6 ++ 4#6 ++ 0#6 ++ 0#6 ++ 0x2A#8 ++ 0#4 ++ 0#3 ++ 0#1 ++ 5#4 ++ 0x0#8, .ext gd0 3 4 .h true),
    (0x2A#8 ++ 0#3 ++ 0#1 ++ 0#6 ++ 0#6 ++ 0xA#12 ++ 0x0#28, .fence gd0 false true false true),
    (0x42#8 ++ 0#3 ++ 0#1 ++ 0#6 ++ 0#6 ++ 0x0#12 ++ 0x0#28, .ffuse gd0),
    (0x41#8 ++ 0#3 ++ 0#1 ++ 3#6 ++ 4#6 ++ 0x1#12 ++ 0x0#28, .fsplit gd0 3 4 true),
    (0x4C#8 ++ 0#3 ++ 0#1 ++ 1#5 ++ 2#5 ++ 3#5 ++ 4#5 ++ 5#6 ++ 0#6 ++ 0x0#8 ++ 0x0#12, .gcfg gd0 1 2 3 4 5),
    (0x4C#8 ++ 0#3 ++ 0#1 ++ 1#5 ++ 2#5 ++ 3#5 ++ 4#5 ++ 5#6 ++ 0#6 ++ 0x3#8 ++ 0x0#12, .gspill gd0 1 2 3 4 5),
    (0x4C#8 ++ 0#3 ++ 0#1 ++ 1#5 ++ 2#5 ++ 3#5 ++ 4#5 ++ 0#6 ++ 0#6 ++ 0x1#8 ++ 0x0#12, .gstart gd0 1 2 3 4),
    (0x4C#8 ++ 0#3 ++ 0#1 ++ 1#5 ++ 2#5 ++ 3#5 ++ 4#5 ++ 0#6 ++ 0#6 ++ 0x2#8 ++ 0x0#12, .gstop gd0 1 2 3 4),
    (0x12#8 ++ 0#3 ++ 0#1 ++ 63#6 ++ 0#6 ++ 0x0#8 ++ 0xFFFFFFF8#32, .jr gd0 63 0xFFFFFFF8),
    (0x13#8 ++ 0#3 ++ 0#1 ++ 5#6 ++ 0#6 ++ 0x0#8 ++ 0x10#32, .jrl gd0 5 16)] = true := by decide +kernel
theorem test_words_3 : reads [
    (0x2C#8 ++ 0#3 ++ 0#1 ++ 1#5 ++ 2#5 ++ 3#5 ++ 4#5 ++ 5#6 ++ 6#6 ++ 0x0#8 ++ 0x0#12, .kwatch gd0 1 2 3 4 5 6),
    (0x52#8 ++ 0#3 ++ 0#1 ++ 1#5 ++ 2#5 ++ 3#5 ++ 4#5 ++ 5#6 ++ 0#6 ++ 0x0#8 ++ 0x0#12, .launch gd0 1 2 3 4 5),
    (0x20#8 ++ 0#3 ++ 0#1 ++ 7#6 ++ 8#6 ++ 5#4 ++ 11#4 ++ 0xFFFFFFFC#32, .ld gd0 7 8 1 true 11 0xFFFFFFFC),
    (0x21#8 ++ 0#3 ++ 0#1 ++ 7#6 ++ 8#6 ++ 7#4 ++ 15#4 ++ 0x18#32, .st gd0 7 8 3 true 24),
    (0x22#8 ++ 0#3 ++ 0#1 ++ 31#6 ++ 8#6 ++ 8#4 ++ 0#4 ++ 0x40#32, .ldv gd0 31 8 .qc4 0 64),
    (0x23#8 ++ 0#3 ++ 0#1 ++ 31#6 ++ 8#6 ++ 10#4 ++ 15#4 ++ 0x40#32, .stv gd0 31 8 .ob4 64),
    (0x9#8 ++ 0#3 ++ 0#1 ++ 3#6 ++ 0#6 ++ 0x40#8 ++ 0x80000000#32, .li gd0 3 0x80000000),
    (0x9#8 ++ 0#3 ++ 0#1 ++ 3#6 ++ 4#6 ++ 0x41#8 ++ 0x12345678#32, .lih gd0 3 4 0x12345678),
    (0x14#8 ++ 0#3 ++ 0#1 ++ 9#6 ++ 0#6 ++ 0x0#8 ++ 0xFFFFFFFB#32, .loop gd0 9 0xFFFFFFFB),
    (0x8#8 ++ 0#3 ++ 0#1 ++ 3#6 ++ 4#6 ++ 5#6 ++ 0#6 ++ 0x22#8 ++ 0#4 ++ 0#3 ++ 0#1 ++ 0#4 ++ 0x0#8, .max gd0 3 4 5),
    (0x8#8 ++ 0#3 ++ 0#1 ++ 3#6 ++ 4#6 ++ 5#6 ++ 0#6 ++ 0x23#8 ++ 0#4 ++ 0#3 ++ 0#1 ++ 0#4 ++ 0x0#8, .maxu gd0 3 4 5),
    (0x8#8 ++ 0#3 ++ 0#1 ++ 3#6 ++ 4#6 ++ 5#6 ++ 0#6 ++ 0x20#8 ++ 0#4 ++ 0#3 ++ 0#1 ++ 0#4 ++ 0x0#8, .min gd0 3 4 5)] = true := by decide +kernel
theorem test_words_4 : reads [
    (0x8#8 ++ 0#3 ++ 0#1 ++ 3#6 ++ 4#6 ++ 5#6 ++ 0#6 ++ 0x21#8 ++ 0#4 ++ 0#3 ++ 0#1 ++ 0#4 ++ 0x0#8, .minu gd0 3 4 5),
    (0x59#8 ++ 0#3 ++ 0#1 ++ 3#6 ++ 0#6 ++ 0x31#12 ++ 0x0#28, .mfc gd0 3 0x031),
    (0x5A#8 ++ 0#3 ++ 0#1 ++ 0#6 ++ 4#6 ++ 0x106#12 ++ 0x0#28, .mtc gd0 4 0x106),
    (0x3A#8 ++ 0#3 ++ 0#1 ++ 1#6 ++ 2#6 ++ 3#6 ++ 0#6 ++ 0xE#8 ++ 0#4 ++ 0#3 ++ 0#1 ++ 0#4 ++ 0x0#8, .mlog gd0 1 2 3 0xE),
    (0x40#8 ++ 0#3 ++ 0#1 ++ 1#5 ++ 2#5 ++ 3#5 ++ 4#5 ++ 5#6 ++ 6#6 ++ 0x2#8 ++ 0x15#12, .mma gd0 1 2 3 4 5 6 true false true false true),
    (0x8#8 ++ 0#3 ++ 0#1 ++ 3#6 ++ 4#6 ++ 5#6 ++ 0#6 ++ 0x2#8 ++ 0#4 ++ 0#3 ++ 0#1 ++ 0#4 ++ 0x0#8, .mul gd0 3 4 5),
    (0x8#8 ++ 0#3 ++ 0#1 ++ 3#6 ++ 4#6 ++ 5#6 ++ 0#6 ++ 0x3#8 ++ 0#4 ++ 0#3 ++ 0#1 ++ 0#4 ++ 0x0#8, .mulh gd0 3 4 5),
    (0x8#8 ++ 0#3 ++ 0#1 ++ 3#6 ++ 4#6 ++ 5#6 ++ 0#6 ++ 0x4#8 ++ 0#4 ++ 0#3 ++ 0#1 ++ 0#4 ++ 0x0#8, .mulhu gd0 3 4 5),
    (0x1#8 ++ 0#3 ++ 0#1 ++ 0#6 ++ 0#6 ++ 0x0#12 ++ 0x0#28, .nop gd0),
    (0x8#8 ++ 0#3 ++ 0#1 ++ 3#6 ++ 4#6 ++ 5#6 ++ 0#6 ++ 0x11#8 ++ 0#4 ++ 0#3 ++ 0#1 ++ 0#4 ++ 0x0#8, .or gd0 3 4 5),
    (0x9#8 ++ 0#3 ++ 0#1 ++ 3#6 ++ 4#6 ++ 0x11#8 ++ 0x1#32, .ori gd0 3 4 1),
    (0x8#8 ++ 0#3 ++ 0#1 ++ 3#6 ++ 4#6 ++ 0#6 ++ 0#6 ++ 0x29#8 ++ 0#4 ++ 0#3 ++ 0#1 ++ 0#4 ++ 0x0#8, .popc gd0 3 4)] = true := by decide +kernel
theorem test_words_5 : reads [
    (0xC#8 ++ 0#3 ++ 0#1 ++ 1#6 ++ 2#6 ++ 3#6 ++ 0#6 ++ 0x6#8 ++ 0#4 ++ 0#3 ++ 0#1 ++ 0#4 ++ 0x0#8, .pset gd0 1 2 3 6),
    (0x5B#8 ++ 0#3 ++ 0#1 ++ 0#6 ++ 0#6 ++ 0x0#12 ++ 0x21#28, .qmark gd0 0x21),
    (0x8#8 ++ 0#3 ++ 0#1 ++ 3#6 ++ 4#6 ++ 5#6 ++ 0#6 ++ 0x7#8 ++ 0#4 ++ 0#3 ++ 0#1 ++ 0#4 ++ 0x0#8, .rem gd0 3 4 5),
    (0x8#8 ++ 0#3 ++ 0#1 ++ 3#6 ++ 4#6 ++ 5#6 ++ 0#6 ++ 0x8#8 ++ 0#4 ++ 0#3 ++ 0#1 ++ 0#4 ++ 0x0#8, .remu gd0 3 4 5),
    (0x8#8 ++ 0#3 ++ 0#1 ++ 3#6 ++ 4#6 ++ 5#6 ++ 7#6 ++ 0x30#8 ++ 0#4 ++ 0#3 ++ 0#1 ++ 0#4 ++ 0x0#8, .sel gd0 3 4 5 7),
    (0x8#8 ++ 0#3 ++ 0#1 ++ 3#6 ++ 4#6 ++ 5#6 ++ 0#6 ++ 0x18#8 ++ 0#4 ++ 0#3 ++ 0#1 ++ 0#4 ++ 0x0#8, .shl gd0 3 4 5),
    (0x8#8 ++ 0#3 ++ 0#1 ++ 3#6 ++ 4#6 ++ 5#6 ++ 0#6 ++ 0x19#8 ++ 0#4 ++ 0#3 ++ 0#1 ++ 0#4 ++ 0x0#8, .shr gd0 3 4 5),
    (0x8#8 ++ 0#3 ++ 0#1 ++ 3#6 ++ 4#6 ++ 5#6 ++ 0#6 ++ 0x1A#8 ++ 0#4 ++ 0#3 ++ 0#1 ++ 0#4 ++ 0x0#8, .shra gd0 3 4 5),
    (0x9#8 ++ 0#3 ++ 0#1 ++ 3#6 ++ 4#6 ++ 0x18#8 ++ 0x3F#32, .shli gd0 3 4 63),
    (0x9#8 ++ 0#3 ++ 0#1 ++ 3#6 ++ 4#6 ++ 0x19#8 ++ 0x3F#32, .shri gd0 3 4 63),
    (0x9#8 ++ 0#3 ++ 0#1 ++ 3#6 ++ 4#6 ++ 0x1A#8 ++ 0x3F#32, .shrai gd0 3 4 63),
    (0x48#8 ++ 0#3 ++ 0#1 ++ 1#5 ++ 2#5 ++ 3#5 ++ 4#5 ++ 5#6 ++ 6#6 ++ 0x5#8 ++ 0x0#12, .strm gd0 1 2 3 4 5 6)] = true := by decide +kernel
theorem test_words_6 : reads [
    (0x8#8 ++ 0#3 ++ 0#1 ++ 3#6 ++ 4#6 ++ 5#6 ++ 0#6 ++ 0x1#8 ++ 0#4 ++ 0#3 ++ 0#1 ++ 0#4 ++ 0x0#8, .sub gd0 3 4 5),
    (0x57#8 ++ 0#3 ++ 0#1 ++ 0#6 ++ 0#6 ++ 0x0#12 ++ 0xFFFFFFF#28, .sys gd0 0xFFFFFFF),
    (0x49#8 ++ 0#3 ++ 0#1 ++ 1#5 ++ 2#5 ++ 3#5 ++ 4#5 ++ 0#6 ++ 0#6 ++ 0x1#8 ++ 0x0#12, .tjoin gd0 1 2 3 4),
    (0x49#8 ++ 0#3 ++ 0#1 ++ 0#5 ++ 2#5 ++ 0#5 ++ 0#5 ++ 5#6 ++ 0#6 ++ 0x2#8 ++ 0x0#12, .tstat gd0 5 2),
    (0x49#8 ++ 0#3 ++ 0#1 ++ 0#5 ++ 2#5 ++ 3#5 ++ 4#5 ++ 0#6 ++ 0#6 ++ 0x0#8 ++ 0x0#12, .twait gd0 2 3 4),
    (0x56#8 ++ 0#3 ++ 0#1 ++ 0#6 ++ 0#6 ++ 0x0#12 ++ 0x0#28, .trapf gd0),
    (0x44#8 ++ 0#3 ++ 0#1 ++ 0#6 ++ 0#6 ++ 0x0#12 ++ 0x0#28, .unchain gd0),
    (0x30#8 ++ 0#3 ++ 0#1 ++ 1#6 ++ 2#6 ++ 3#6 ++ 0#6 ++ 0x0#8 ++ 2#4 ++ 1#3 ++ 1#1 ++ 15#4 ++ 0x0#8, .vadd gd0 1 2 3 .fp32 .rtz true (some 7)),
    (0x30#8 ++ 0#3 ++ 0#1 ++ 1#6 ++ 2#6 ++ 3#6 ++ 0#6 ++ 0x1#8 ++ 3#4 ++ 1#3 ++ 1#1 ++ 15#4 ++ 0x0#8, .vsub gd0 1 2 3 .bf16 .rtz true (some 7)),
    (0x30#8 ++ 0#3 ++ 0#1 ++ 1#6 ++ 2#6 ++ 3#6 ++ 0#6 ++ 0x2#8 ++ 4#4 ++ 1#3 ++ 1#1 ++ 15#4 ++ 0x0#8, .vmul gd0 1 2 3 .fp16 .rtz true (some 7)),
    (0x30#8 ++ 0#3 ++ 0#1 ++ 1#6 ++ 2#6 ++ 3#6 ++ 0#6 ++ 0x4#8 ++ 2#4 ++ 1#3 ++ 1#1 ++ 15#4 ++ 0x0#8, .vmin gd0 1 2 3 .fp32 .rtz true (some 7)),
    (0x30#8 ++ 0#3 ++ 0#1 ++ 1#6 ++ 2#6 ++ 3#6 ++ 0#6 ++ 0x5#8 ++ 4#4 ++ 1#3 ++ 1#1 ++ 15#4 ++ 0x0#8, .vmax gd0 1 2 3 .fp16 .rtz true (some 7))] = true := by decide +kernel
theorem test_words_7 : reads [
    (0x30#8 ++ 0#3 ++ 0#1 ++ 1#6 ++ 2#6 ++ 3#6 ++ 4#6 ++ 0x3#8 ++ 2#4 ++ 7#3 ++ 0#1 ++ 0#4 ++ 0x0#8, .vfma gd0 1 2 3 4 .fp32 .dyn false none),
    (0x30#8 ++ 0#3 ++ 0#1 ++ 1#6 ++ 2#6 ++ 0#6 ++ 0#6 ++ 0x6#8 ++ 2#4 ++ 4#3 ++ 0#1 ++ 8#4 ++ 0x0#8, .vabs gd0 1 2 .fp32 .rna false (some 0)),
    (0x30#8 ++ 0#3 ++ 0#1 ++ 1#6 ++ 2#6 ++ 0#6 ++ 0#6 ++ 0x7#8 ++ 2#4 ++ 4#3 ++ 0#1 ++ 8#4 ++ 0x0#8, .vneg gd0 1 2 .fp32 .rna false (some 0)),
    (0x30#8 ++ 0#3 ++ 0#1 ++ 1#6 ++ 2#6 ++ 0#6 ++ 0#6 ++ 0x8#8 ++ 2#4 ++ 4#3 ++ 0#1 ++ 8#4 ++ 0x0#8, .vrcp gd0 1 2 .fp32 .rna false (some 0)),
    (0x30#8 ++ 0#3 ++ 0#1 ++ 1#6 ++ 2#6 ++ 0#6 ++ 0#6 ++ 0x9#8 ++ 2#4 ++ 4#3 ++ 0#1 ++ 8#4 ++ 0x0#8, .vrsq gd0 1 2 .fp32 .rna false (some 0)),
    (0x30#8 ++ 0#3 ++ 0#1 ++ 1#6 ++ 2#6 ++ 0#6 ++ 0#6 ++ 0xA#8 ++ 2#4 ++ 4#3 ++ 0#1 ++ 8#4 ++ 0x0#8, .vexp gd0 1 2 .fp32 .rna false (some 0)),
    (0x30#8 ++ 0#3 ++ 0#1 ++ 1#6 ++ 2#6 ++ 0#6 ++ 0#6 ++ 0xB#8 ++ 2#4 ++ 4#3 ++ 0#1 ++ 8#4 ++ 0x0#8, .vlog gd0 1 2 .fp32 .rna false (some 0)),
    (0x31#8 ++ 0#3 ++ 0#1 ++ 31#6 ++ 30#6 ++ 29#6 ++ 0#6 ++ 0x0#8 ++ 0#4 ++ 0#3 ++ 0#1 ++ 0#4 ++ 0x0#8, .viadd gd0 31 30 29 none),
    (0x31#8 ++ 0#3 ++ 0#1 ++ 31#6 ++ 30#6 ++ 29#6 ++ 0#6 ++ 0x1#8 ++ 0#4 ++ 0#3 ++ 0#1 ++ 0#4 ++ 0x0#8, .visub gd0 31 30 29 none),
    (0x31#8 ++ 0#3 ++ 0#1 ++ 31#6 ++ 30#6 ++ 29#6 ++ 0#6 ++ 0x2#8 ++ 0#4 ++ 0#3 ++ 0#1 ++ 0#4 ++ 0x0#8, .vimul gd0 31 30 29 none),
    (0x31#8 ++ 0#3 ++ 0#1 ++ 31#6 ++ 30#6 ++ 29#6 ++ 0#6 ++ 0x10#8 ++ 0#4 ++ 0#3 ++ 0#1 ++ 0#4 ++ 0x0#8, .vand gd0 31 30 29 none),
    (0x31#8 ++ 0#3 ++ 0#1 ++ 31#6 ++ 30#6 ++ 29#6 ++ 0#6 ++ 0x11#8 ++ 0#4 ++ 0#3 ++ 0#1 ++ 0#4 ++ 0x0#8, .vor gd0 31 30 29 none)] = true := by decide +kernel
theorem test_words_8 : reads [
    (0x31#8 ++ 0#3 ++ 0#1 ++ 31#6 ++ 30#6 ++ 29#6 ++ 0#6 ++ 0x12#8 ++ 0#4 ++ 0#3 ++ 0#1 ++ 0#4 ++ 0x0#8, .vxor gd0 31 30 29 none),
    (0x31#8 ++ 0#3 ++ 0#1 ++ 31#6 ++ 30#6 ++ 29#6 ++ 0#6 ++ 0x18#8 ++ 0#4 ++ 0#3 ++ 0#1 ++ 0#4 ++ 0x0#8, .vshl gd0 31 30 29 none),
    (0x31#8 ++ 0#3 ++ 0#1 ++ 31#6 ++ 30#6 ++ 29#6 ++ 0#6 ++ 0x19#8 ++ 0#4 ++ 0#3 ++ 0#1 ++ 0#4 ++ 0x0#8, .vshr gd0 31 30 29 none),
    (0x31#8 ++ 0#3 ++ 0#1 ++ 31#6 ++ 30#6 ++ 29#6 ++ 0#6 ++ 0x1A#8 ++ 0#4 ++ 0#3 ++ 0#1 ++ 0#4 ++ 0x0#8, .vshra gd0 31 30 29 none),
    (0x37#8 ++ 0#3 ++ 0#1 ++ 1#6 ++ 63#6 ++ 0#6 ++ 0#6 ++ 0x0#8 ++ 2#4 ++ 0#3 ++ 0#1 ++ 9#4 ++ 0x0#8, .vbc gd0 1 63 .fp32 (some 1)),
    (0x33#8 ++ 0#3 ++ 0#1 ++ 7#6 ++ 2#6 ++ 3#6 ++ 0#6 ++ 0x6#8 ++ 0#4 ++ 0#3 ++ 0#1 ++ 0#4 ++ 0x0#8, .vcmp gd0 7 2 3 .unord),
    (0x32#8 ++ 0#3 ++ 0#1 ++ 1#6 ++ 2#6 ++ 0#6 ++ 0#6 ++ 0x0#8 ++ 0#4 ++ 2#3 ++ 1#1 ++ 0#4 ++ 0x0#8, .vcvt gd0 1 2 .i32 .rdn true none),
    (0x24#8 ++ 0#3 ++ 0#1 ++ 1#6 ++ 40#6 ++ 3#6 ++ 0#6 ++ 0x0#8 ++ 3#4 ++ 0#3 ++ 0#1 ++ 0#4 ++ 0x0#8, .vldx gd0 1 40 3 .bf16 none),
    (0x25#8 ++ 0#3 ++ 0#1 ++ 1#6 ++ 40#6 ++ 3#6 ++ 0#6 ++ 0x0#8 ++ 5#4 ++ 0#3 ++ 0#1 ++ 10#4 ++ 0x0#8, .vstx gd0 1 40 3 .e4m3 (some 2)),
    (0x36#8 ++ 0#3 ++ 0#1 ++ 1#6 ++ 2#6 ++ 3#6 ++ 0#6 ++ 0x0#8 ++ 0#4 ++ 0#3 ++ 0#1 ++ 8#4 ++ 0x0#8, .vperm gd0 1 2 3 (some 0)),
    (0x39#8 ++ 0#3 ++ 0#1 ++ 1#6 ++ 2#6 ++ 0#6 ++ 0#6 ++ 0x0#8 ++ 9#4 ++ 3#3 ++ 0#1 ++ 0#4 ++ 0x0#8, .vqnt gd0 1 2 .ob8 .rup false none),
    (0x35#8 ++ 0#3 ++ 0#1 ++ 40#6 ++ 2#6 ++ 0#6 ++ 0#6 ++ 0x1#8 ++ 0#4 ++ 7#3 ++ 0#1 ++ 0#4 ++ 0x0#8, .vred gd0 40 2 .max .dyn)] = true := by decide +kernel
theorem test_words_9 : reads [
    (0x34#8 ++ 0#3 ++ 0#1 ++ 1#6 ++ 2#6 ++ 3#6 ++ 5#6 ++ 0x0#8 ++ 0#4 ++ 0#3 ++ 0#1 ++ 0#4 ++ 0x0#8, .vsel gd0 1 2 3 5),
    (0x3B#8 ++ 0#3 ++ 0#1 ++ 1#6 ++ 2#6 ++ 0#6 ++ 0#6 ++ 0x0#8 ++ 15#4 ++ 0#3 ++ 0#1 ++ 0#4 ++ 0x0#8, .vtag gd0 1 2 .invalid),
    (0x3B#8 ++ 0#3 ++ 0#1 ++ 40#6 ++ 2#6 ++ 0#6 ++ 0#6 ++ 0x1#8 ++ 0#4 ++ 0#3 ++ 0#1 ++ 0#4 ++ 0x0#8, .vtagRead gd0 40 2),
    (0x38#8 ++ 0#3 ++ 0#1 ++ 40#6 ++ 2#6 ++ 41#6 ++ 0#6 ++ 0x0#8 ++ 0#4 ++ 0#3 ++ 0#1 ++ 0#4 ++ 0x0#8, .vxtr gd0 40 2 41),
    (0x2B#8 ++ 0#3 ++ 0#1 ++ 7#6 ++ 8#6 ++ 3#4 ++ 15#4 ++ 0x8#32, .waitge gd0 7 8 3 false 15 8),
    (0x40#8 ++ 0#3 ++ 0#1 ++ 1#5 ++ 2#5 ++ 3#5 ++ 4#5 ++ 5#6 ++ 6#6 ++ 0x0#8 ++ 0x1#12, .wload gd0 1 2 3 4 5 6 true),
    (0x40#8 ++ 0#3 ++ 0#1 ++ 1#5 ++ 2#5 ++ 3#5 ++ 4#5 ++ 0#6 ++ 0#6 ++ 0x1#8 ++ 0x0#12, .wswap gd0 1 2 3 4 false),
    (0x48#8 ++ 0#3 ++ 0#1 ++ 1#5 ++ 2#5 ++ 3#5 ++ 4#5 ++ 5#6 ++ 6#6 ++ 0x1#8 ++ 0x260#12, .xcast gd0 1 2 3 4 5 6 (some 9)),
    (0x48#8 ++ 0#3 ++ 0#1 ++ 1#5 ++ 2#5 ++ 3#5 ++ 4#5 ++ 5#6 ++ 6#6 ++ 0x0#8 ++ 0x0#12, .xcopy gd0 1 2 3 4 5 6 none),
    (0x48#8 ++ 0#3 ++ 0#1 ++ 1#5 ++ 2#5 ++ 3#5 ++ 4#5 ++ 5#6 ++ 6#6 ++ 0x4#8 ++ 0xFE0#12, .xred gd0 1 2 3 4 5 6 (some 63)),
    (0x48#8 ++ 0#3 ++ 0#1 ++ 1#5 ++ 2#5 ++ 3#5 ++ 4#5 ++ 5#6 ++ 0#6 ++ 0x2#8 ++ 0x0#12, .xfetch gd0 1 2 3 4 5),
    (0x48#8 ++ 0#3 ++ 0#1 ++ 1#5 ++ 2#5 ++ 3#5 ++ 4#5 ++ 5#6 ++ 6#6 ++ 0x3#8 ++ 0x1E2#12, .xsend gd0 1 2 3 4 5 6 true (some 7))] = true := by decide +kernel
theorem test_words_10 : reads [
    (0x8#8 ++ 0#3 ++ 0#1 ++ 3#6 ++ 4#6 ++ 5#6 ++ 0#6 ++ 0x12#8 ++ 0#4 ++ 0#3 ++ 0#1 ++ 0#4 ++ 0x0#8, .xor gd0 3 4 5),
    (0x9#8 ++ 0#3 ++ 0#1 ++ 3#6 ++ 4#6 ++ 0x12#8 ++ 0xFFFFFFFF#32, .xori gd0 3 4 0xFFFFFFFF),
    (0x54#8 ++ 0#3 ++ 0#1 ++ 0#6 ++ 0#6 ++ 0x0#12 ++ 0x3F#28, .yield gd0 63),
    (0x8#8 ++ 2#3 ++ 1#1 ++ 3#6 ++ 4#6 ++ 5#6 ++ 0#6 ++ 0x0#8 ++ 0#4 ++ 0#3 ++ 0#1 ++ 0#4 ++ 0x0#8, .add ⟨2, true⟩ 3 4 5)] = true := by decide +kernel

/- Ill-formed terms (R261 step 2), one for each check of Instr.wf -/

def refusedAll (l : List Instr) : Bool := l.all (fun i => !i.wf)
theorem test_illformed_refused : refusedAll [.aclr gd0 0 0 0 0 1 false, .adrain gd0 0 0 0 0 1 1 false, .amo gd0 1 2 3 4 .add false,
    .arrive gd0 0 0 0 0 1 1, .aswap gd0 0 0 0 0 false, .chain gd0 1 false 1, .cmp gd0 0 1 2 .eq, .cmpi gd0 0 1 .eq 0,
    .edge gd0 0 0 0 0 1 false, .gcfg gd0 0 0 0 0 1, .gspill gd0 0 0 0 0 1, .gstart gd0 0 0 0 0, .gstop gd0 0 0 0 0,
    .jr gd0 1 4, .jrl gd0 1 1, .kwatch gd0 0 0 0 0 1 1, .launch gd0 0 0 0 0 1] = true := by decide +kernel
theorem test_illformed_refused_2 : refusedAll [.ld gd0 1 2 3 true 15 0, .ld gd0 1 2 3 false 12 0, .ldv gd0 1 2 .invalid 15 0, .ldv gd0 1 2 .i32 13 0,
    .stv gd0 1 2 .invalid 0, .loop gd0 0 1, .mfc gd0 1 0x00C, .mtc gd0 1 0x109, .mma gd0 0 0 0 0 1 1 false false false false false,
    .mma gd0 1 0 0 0 0 1 false false true true false, .mma gd0 1 0 0 0 1 1 false true false false true,
    .mma gd0 1 0 0 0 1 1 false false false true false, .pset gd0 0 1 2 6, .strm gd0 0 0 0 0 1 1, .tjoin gd0 0 1 2 3] = true := by decide +kernel
theorem test_illformed_refused_3 : refusedAll [.vadd gd0 1 2 3 .e4m3 .rne false none, .vexp gd0 1 2 .i32 .rne false none, .vbc gd0 1 2 .ob8 none,
    .vcvt gd0 1 2 .qc4 .rne false none, .vldx gd0 1 2 3 .e2m1 none, .vstx gd0 1 2 3 .invalid none,
    .vqnt gd0 1 2 .fp32 .rne false none, .waitge gd0 1 2 3 true 15 0, .waitge gd0 1 2 0 false 14 0,
    .wload gd0 0 0 0 0 1 1 false, .wswap gd0 0 0 0 0 false, .xcast gd0 0 0 0 0 1 1 none, .xcopy gd0 0 0 0 0 1 1 none,
    .xred gd0 0 0 0 0 1 1 none, .xfetch gd0 0 0 0 0 1, .xsend gd0 0 0 0 0 1 1 false none, .selection] = true := by decide +kernel

/-- Words refused: OP 0x00 and 0xFF, a reserved SUB, a bit that must be zero, RM 5, tag 0xB, HINT 12, a sign-extended 8-byte
load, MOD of an ADD, v33, a JR offset of 4, k0 as output (R261, R262). -/
theorem test_words_refused : ([
    0x0#8 ++ 0#3 ++ 0#1 ++ 0#6 ++ 0#6 ++ 0x0#12 ++ 0x0#28,
    0xFF#8 ++ 0#3 ++ 0#1 ++ 0#6 ++ 0#6 ++ 0x0#12 ++ 0x0#28,
    0x8#8 ++ 0#3 ++ 0#1 ++ 1#6 ++ 2#6 ++ 3#6 ++ 0#6 ++ 0x9#8 ++ 0#4 ++ 0#3 ++ 0#1 ++ 0#4 ++ 0x0#8,
    0x1#8 ++ 0#3 ++ 0#1 ++ 0#6 ++ 0#6 ++ 0x0#12 ++ 0x1#28,
    0x30#8 ++ 0#3 ++ 0#1 ++ 1#6 ++ 2#6 ++ 3#6 ++ 0#6 ++ 0x0#8 ++ 2#4 ++ 5#3 ++ 0#1 ++ 0#4 ++ 0x0#8,
    0x22#8 ++ 0#3 ++ 0#1 ++ 1#6 ++ 2#6 ++ 11#4 ++ 15#4 ++ 0x0#32,
    0x20#8 ++ 0#3 ++ 0#1 ++ 1#6 ++ 2#6 ++ 0#4 ++ 12#4 ++ 0x0#32,
    0x20#8 ++ 0#3 ++ 0#1 ++ 1#6 ++ 2#6 ++ 7#4 ++ 15#4 ++ 0x0#32,
    0x8#8 ++ 0#3 ++ 0#1 ++ 1#6 ++ 2#6 ++ 3#6 ++ 0#6 ++ 0x0#8 ++ 0#4 ++ 0#3 ++ 0#1 ++ 1#4 ++ 0x0#8,
    0x30#8 ++ 0#3 ++ 0#1 ++ 33#6 ++ 2#6 ++ 3#6 ++ 0#6 ++ 0x0#8 ++ 2#4 ++ 0#3 ++ 0#1 ++ 0#4 ++ 0x0#8,
    0x12#8 ++ 0#3 ++ 0#1 ++ 5#6 ++ 0#6 ++ 0x0#8 ++ 0x4#32,
    0x40#8 ++ 0#3 ++ 0#1 ++ 0#5 ++ 0#5 ++ 0#5 ++ 0#5 ++ 1#6 ++ 1#6 ++ 0x0#8 ++ 0x0#12] : List W64).all
    (fun w => match decode w with
      | .ok _ => false
      | .error _ => true) = true := by decide +kernel

/- A small placed unit -/

/-- One unit of job 1 on die 0, pane 0, about to fetch at address 0, in user mode with a handler; the ports are up. -/
def st0 : State := { placeProbe State.reset with fab := { Fabric.reset with portsUp := true } }
def withRegs (g : Store W64) : State := st0.setCur (fun c => { c with g := g })
/-- The scratchpad window (R163). -/
def spA : W64 := 0xFFFFF00000000000
def st1 : State := withRegs [(1, spA), (2, 0x1122334455667788), (3, 7), (63, 16)]
def withLaunch (f : Lpb → Lpb) : State := st1.modLaunch 3 (fun l => { l with lpb := f l.lpb })
def stShared : State := withLaunch (fun l => { l with shared := true })
def stGang : State := withLaunch (fun l => { l with gang := true })
def stReplica : State := withLaunch (fun l => { l with replica := true })
def stSm : State := st1.setCur (fun c => { c with sm := true })

def plainB (ls : List Loc) (key n : Nat) : Bool := ls.length == n && (List.range n).all (fun i => match ls[i]? with
  | some (.mem k 0 _) => k == key + i
  | _ => false)
theorem plain_of {ls : List Loc} {key n : Nat} (h : plainB ls key n = true) : Plain ls key n := by
  simp only [plainB, Bool.and_eq_true, beq_iff_eq, List.all_eq_true, List.mem_range] at h
  refine ⟨h.1, fun i hi => ?_⟩
  have := h.2 i hi
  split at this
  · rename_i k p hp
    exact ⟨p, by rw [hp]; simp at this; rw [this]⟩
  · cases this

theorem issues0 : Issues st0 gd0 := ⟨rfl, rfl, rfl, rfl⟩
theorem issues1 : Issues st1 gd0 := ⟨rfl, rfl, rfl, rfl⟩
theorem handler1 : HandlerReady st1 := ⟨rfl, by decide⟩

/- Single steps, with results from the spec's examples -/

/-- The result that a word leaves in g5. -/
def g5 (o : Out) : Option W64 := match o with
  | .next t => some (t.cur.rg 5)
  | _ => none
def af (o : Out) : Option W64 := match o with
  | .next t => some t.cur.aflags
  | _ => none
def two (a b : W64) : State := withRegs [(3, a), (4, b)]

/-- R332's example: SHL, SHR and SHRA of 0x8000_0000_0000_0010 by 68, of which the low six bits count. -/
theorem test_shifts : g5 (exec (.shl gd0 5 3 4) (two 0x8000000000000010 68)) = some 0x100 ∧
    g5 (exec (.shr gd0 5 3 4) (two 0x8000000000000010 68)) = some 0x0800000000000001 ∧
    g5 (exec (.shra gd0 5 3 4) (two 0x8000000000000010 68)) = some 0xF800000000000001 := by decide +kernel
/-- R324's example. -/
theorem test_products : g5 (exec (.mul gd0 5 3 4) (two (-1) 2)) = some 0xFFFFFFFFFFFFFFFE ∧
    g5 (exec (.mulh gd0 5 3 4) (two (-1) 2)) = some 0xFFFFFFFFFFFFFFFF ∧
    g5 (exec (.mulhu gd0 5 3 4) (two (-1) 2)) = some 1 := by decide +kernel
/-- R318's example. -/
theorem test_extremes : g5 (exec (.min gd0 5 3 4) (two (-1) 1)) = some (-1) ∧ g5 (exec (.max gd0 5 3 4) (two (-1) 1)) = some 1 ∧
    g5 (exec (.minu gd0 5 3 4) (two (-1) 1)) = some 1 ∧ g5 (exec (.maxu gd0 5 3 4) (two (-1) 1)) = some (-1) := by decide +kernel
/-- R296's table: −7 by 2, 7 by −2, the most negative by −1. -/
theorem test_div : g5 (exec (.div gd0 5 3 4) (two (-7) 2)) = some (-3) ∧ g5 (exec (.divu gd0 5 3 4) (two (-7) 2)) = some 0x7FFFFFFFFFFFFFFC ∧
    g5 (exec (.div gd0 5 3 4) (two 7 (-2))) = some (-3) ∧
    g5 (exec (.div gd0 5 3 4) (two 0x8000000000000000 (-1))) = some 0x8000000000000000 := by decide +kernel
/-- R330's table, and IDZ (bit 7 of R161) on division by zero. -/
theorem test_rem : g5 (exec (.rem gd0 5 3 4) (two (-7) 2)) = some (-1) ∧ g5 (exec (.remu gd0 5 3 4) (two 7 (-2))) = some 7 ∧
    g5 (exec (.rem gd0 5 3 4) (two 5 0)) = some 5 ∧ g5 (exec (.div gd0 5 3 4) (two 5 0)) = some (-1) ∧
    af (exec (.rem gd0 5 3 4) (two 5 0)) = af (exec (.div gd0 5 3 4) (two 5 0)) ∧
    af (exec (.rem gd0 5 3 4) (two 5 1)) = some 0 := by decide +kernel
/-- R294: CLZ of 1, 0 and a value with bit 63 set; R301's example of EXT. -/
theorem test_clz_ext : g5 (exec (.clz gd0 5 3) (two 1 0)) = some 63 ∧ g5 (exec (.clz gd0 5 3) (two 0 0)) = some 64 ∧
    g5 (exec (.clz gd0 5 3) (two (-1) 0)) = some 0 ∧
    g5 (exec (.ext gd0 5 3 .h true) (two 0x12348000 0)) = some 0xFFFFFFFFFFFF8000 ∧
    g5 (exec (.ext gd0 5 3 .h false) (two 0x12348000 0)) = some 0x8000 ∧
    g5 (exec (.ext gd0 5 3 .b true) (two 0x12348000 0)) = some 0 := by decide +kernel
/-- R278: ANDI with −64 clears bits [5:0]; R326, R361: negative immediates; R260: g0 discards. -/
theorem test_immediates : g5 (exec (.andi gd0 5 3 0xFFFFFFC0) (two 0x123456789ABCDEFF 0)) = some 0x123456789ABCDEC0 ∧
    g5 (exec (.xori gd0 5 3 0xFFFFFFFF) (two 5 0)) = some (-6) ∧ g5 (exec (.ori gd0 5 3 0x80000000) (two 1 0)) = some 0xFFFFFFFF80000001 ∧
    g5 (exec (.addi gd0 0 3 1) (two 5 0)) = some 0 := by decide +kernel
/-- R317: LOOP with a count of 0 wraps and branches; R295: CMPI.ltu with −1. -/
theorem test_loop_cmpi : (match exec (.loop gd0 5 0xFFFFFFFE) (two 1 1) with
      | .next t => some (t.cur.rg 5, t.cur.pc)
      | _ => none) = some (0xFFFFFFFFFFFFFFFF, 0xFFFFFFFFFFFFFFF0) ∧
    (match exec (.cmpi gd0 1 3 .ltu 0xFFFFFFFF) (two 5 1) with
      | .next t => t.cur.rp 1
      | _ => false) = true := by decide +kernel
/-- Lanes of one value. -/
def lanes (t : Tag) (v : W32) : VReg := ⟨(List.range 128).map (fun i => (i, v)), t, 0, 0, 0⟩
/-- R341's worked example: one rounding of VFMA, exactly representable here, no flag. -/
theorem test_vfma : (match exec (.vfma gd0 1 2 3 4 .fp32 .rne false none)
      (st0.setCur (fun c => { c with v := [(2, lanes .fp32 0x3F800800), (3, lanes .fp32 0x3F800800), (4, lanes .fp32 0xBF800000)] })) with
    | .next t => some ((t.cur.rv 1).lane 0, (t.cur.rv 1).lane 127, t.cur.aflags)
    | _ => none) = some (0x3A000400, 0x3A000400, 0) := by decide +kernel
/-- R185: a store and a load in the scratchpad window, the lowest address in bits [7:0]. -/
theorem test_store_load : (match exec (.st gd0 2 1 2 false 4) st1 with
    | .next t => g5 (exec (.ld gd0 5 1 1 true 15 6) t)
    | _ => none) = some 0x5566 := by decide +kernel
/-- R281: BADD adds while the sum is at most the bound and always returns the old value. -/
theorem test_badd : (match exec (.amo gd0 5 1 3 3 .badd true) st1 with
    | .next t => (g5 (exec (.amo gd0 5 1 3 3 .badd true) t), match exec (.amo gd0 5 1 3 3 .badd true) t with
      | .next u => g5 (exec (.ld gd0 5 1 3 false 15 0) u)
      | _ => none)
    | _ => (none, none)) = (some 7, some 7) := by decide +kernel

/- Witnesses: for every obligation with hypotheses, states and operands that meet them -/

/-- An access that succeeds at `n` plain bytes from a key. -/
def accB (r : Res (List Loc × Option Leaf)) (key n : Nat) : Bool := match r with
  | .ok (ls, _) => plainB ls key n
  | _ => false
theorem access_of {r : Res (List Loc × Option Leaf)} {key n : Nat} (h : accB r key n = true) :
    ∃ ls leaf, r = .ok (ls, leaf) ∧ Plain ls key n := by
  unfold accB at h
  split at h
  · exact ⟨_, _, rfl, plain_of h⟩
  · cases h
def leafIs (r : Res (List Loc × Option Leaf)) (p : Leaf → Bool) : Bool := match r with
  | .ok (_, some l) => p l
  | _ => false
theorem leaf_of {r : Res (List Loc × Option Leaf)} {p : Leaf → Bool} (h : leafIs r p = true) :
    ∃ ls l, r = .ok (ls, some l) ∧ p l = true := by
  unfold leafIs at h
  split at h
  · exact ⟨_, _, rfl, h⟩
  · cases h
/-- The placed unit with a leaf of memory type WC (R168, R174). -/
def stWc : State := st1.setCur (fun c => c) |> fun s => setBytes s (dramKey 0 0x22000) (leList 8 (probeLeaf + 2 ^ 7))
/-- The REPLICA secondary (R55). -/
def stSec : State := stReplica.setCur (fun c => { c with sec := true })

theorem witness_ScalarTwoRegister : Issues st1 gd0 := issues1
/-- A guard other than p0: p1 is 0 and negated. -/
theorem witness_ScalarImmediate : Issues st1 ⟨1, true⟩ := ⟨rfl, rfl, rfl, rfl⟩
theorem witness_BitCountsAndDivision : Issues st1 gd0 ∧ st1.cur.rg 0 = 0 ∧ st1.cur.rg 3 ≠ 0 := ⟨issues1, by decide +kernel⟩
theorem witness_PredicatesAndMasks : Issues st1 gd0 := issues1
/-- Aligned jumps, a LOOP over 0 and g0. -/
theorem witness_ControlFlow : Issues st1 gd0 ∧ (st1.cur.rg 1 + (0#32).signExtend 64).toNat % 8 = 0 := ⟨issues1, by decide +kernel⟩
theorem witness_TrapsAndReturns : Issues st1 gd0 ∧ HandlerReady st1 ∧ (st1.cur.rg 1 + (4#32).signExtend 64).toNat % 8 ≠ 0 ∧
    0x100 ≤ (0x100#12).toNat := ⟨issues1, handler1, by decide +kernel⟩
theorem witness_TrapsAndReturns_supervisor : Issues stSm gd0 ∧ stSm.cur.sm = true := ⟨⟨rfl, rfl, rfl, rfl⟩, rfl⟩
theorem witness_TrapsAndReturns_fatal : ∃ u l, Issues stSm gd0 ∧ stSm.cur.sm = true ∧ stSm.unit? stSm.cur.uid = some u ∧
    stSm.cur.cid ∈ u.cids ∧ stSm.launch? stSm.cur.lid = some l := ⟨_, _, ⟨rfl, rfl, rfl, rfl⟩, rfl, rfl, by decide, rfl⟩
theorem witness_ControlRegisterReads : Issues stSm gd0 ∧ stSm.cur.sm = true := ⟨⟨rfl, rfl, rfl, rfl⟩, rfl⟩
/-- A value that ACCLIVE does not admit, and the largest that it does. -/
theorem witness_ControlRegisterWrites : Issues (two 4097 4096) gd0 ∧ HandlerReady (two 4097 4096) ∧
    ¬ ((two 4097 4096).cur.rg 3).toNat ≤ 4096 ∧ ((two 4097 4096).cur.rg 4).toNat ≤ 4096 ∧ (0x025#12).toNat < 0x100 :=
  ⟨⟨rfl, rfl, rfl, rfl⟩, handler1, by decide +kernel⟩
/-- AMODE: drained queues with 5 and with 6, and a foreground queue that holds a command. -/
theorem witness_ControlRegisterWrites_amode : Issues (two 5 6) gd0 ∧ drained (two 5 6) (two 5 6).cur 0 = true ∧
    drained (two 5 6) (two 5 6).cur 1 = true ∧ ((two 5 6).cur.rg 3).toNat < 6 ∧ 6 ≤ ((two 5 6).cur.rg 4).toNat :=
  ⟨⟨rfl, rfl, rfl, rfl⟩, by decide +kernel⟩

/-- AMODE of the value that it has. -/
theorem witness_ControlRegisterWrites_same : Issues (two (u64 (2 * (st1.frag 0).geom)) 0) gd0 ∧ drained (two 0 0) (two 0 0).cur 0 = true ∧
    ((two (u64 (2 * (st1.frag 0).geom)) 0).cur.rg 3).toNat / 2 = ((two 0 0).frag 0).geom ∧ ((two 0 0).frag 0).dual = false ∧
    ((two (u64 (2 * (st1.frag 0).geom)) 0).cur.rg 3).toNat % 2 = 0 := ⟨⟨rfl, rfl, rfl, rfl⟩, by decide +kernel⟩
/-- Scalar accesses in the scratchpad window and through the page tables. -/
theorem witness_ScalarMemory : Issues st1 gd0 ∧ NotReplica st1 ∧ st1.cur.wc = [] ∧
    (∃ ls leaf, scalarAccess st1 .load (st1.cur.rg 1 + (8#32).signExtend 64) 8 = .ok (ls, leaf) ∧ Plain ls (spKey 0 8) 8) ∧
    (∃ ls leaf, scalarAccess st1 .store (st1.cur.rg 1 + (8#32).signExtend 64) 8 = .ok (ls, leaf) ∧ Plain ls (spKey 0 8) 8) ∧
    (∃ ls leaf, scalarAccess st1 .store 0x40 4 = .ok (ls, leaf) ∧ Plain ls (dramKey 0 0x30040) 4) ∧
    ∃ ls leaf, scalarAccess st1 .atomic (st1.cur.rg 1) 4 = .ok (ls, leaf) ∧ Plain ls (spKey 0 0) 4 :=
  ⟨issues1, ⟨by decide +kernel, rfl⟩, rfl, access_of (by decide +kernel), access_of (by decide +kernel),
    access_of (by decide +kernel), access_of (by decide +kernel)⟩
/-- A WC page; a store of a REPLICA secondary below 2^54. -/
theorem witness_ScalarMemory_combining : Issues stWc gd0 ∧ NotReplica stWc ∧
    (∃ ls l, scalarAccess stWc .store (stWc.cur.rg 0 + (0x40#32).signExtend 64) 8 = .ok (ls, some l) ∧ (l.mt == 1) = true) ∧
    Issues stSec gd0 ∧ isReplica stSec = true ∧ stSec.cur.sec = true ∧
    ∃ ls leaf, scalarAccess stSec .store (stSec.cur.rg 0 + (0x40#32).signExtend 64) 8 = .ok (ls, leaf) ∧
      Plain ls (dramKey 0 0x30040) 8 :=
  ⟨⟨rfl, rfl, rfl, rfl⟩, ⟨by decide +kernel, rfl⟩, leaf_of (by decide +kernel), ⟨rfl, rfl, rfl, rfl⟩, by decide +kernel, rfl,
    access_of (by decide +kernel)⟩
/-- A WC store of 8 bytes held back, and a later one. -/
def wcByte (va since : Nat) : WcByte := ⟨u64 va, u64 va, dramKey 0 (0x30000 + va), 0, 1, since⟩
def holding (s : State) : State := s.setCur (fun c => { c with wc := [wcByte 0x40 0, wcByte 0x41 5] })
def stHeld : State := holding st1
/-- The page's home is die 1, which is in reset (R14). -/
def stKept : State := holding ((setBytes st1 (dramKey 0 0x22000) (leList 8 (probeLeaf + 2 ^ 12))).modDie 1 (fun d => { d with resetAt := some 0 }))
/-- A command of the placed unit. -/
def cmd0 (id : Nat) (op : Instr) (ga gb : W64) : Cmd :=
  ⟨id, op, wordOf op, 0, 5, 4, 3, 1, false, 0, 0, 1, 1, ga, gb, 0, [], .queued, 0, none, [], [], (0, 0, 0), none, none, [], none, 0,
    false, none, 0, 0, none⟩
def withQueue (s : State) (q : Nat) (l : List Cmd) : State := s.modFrag 0 (fun f => { f with q := [(q, l)] })
def kw : Instr := .kwatch gd0 1 0 0 0 1 2
/-- A QMARK that was issued before a command which stands in its queue now. -/
def stBehind : State := (withQueue stSm 5 [cmd0 7 kw spA 1]).setCur (fun c => { c with marker := some 7 })
def stBusy : State := withQueue st1 5 [cmd0 1 kw spA 1]
def stAbusy : State := withQueue st1 0 [cmd0 1 (.aswap gd0 1 0 0 0 false) 0 0]
theorem witness_ControlRegisterWrites_busy : Issues stAbusy gd0 ∧ drained stAbusy stAbusy.cur 0 = false :=
  ⟨⟨rfl, rfl, rfl, rfl⟩, by decide +kernel⟩

/-- A WAITGE that waits, its word at the PC; its threshold above and at the value read. -/
def stWatch : State := storeAtPc (st1.setCur (fun c => { c with wait := .quantum })) (wordOf (.waitge gd0 3 1 3 false 15 0)).toNat
theorem witness_WaitsAndFences : Issues stWatch gd0 ∧ stWatch.cur.wait = .quantum ∧ stWatch.cur.notBefore ≤ stWatch.now ∧
    (∃ ls leaf, scalarAccess stWatch .watch (stWatch.cur.rg 1 + (0#32).signExtend 64) 8 = .ok (ls, leaf) ∧ Plain ls (spKey 0 0) 8) ∧
    ((match fetchWord stWatch with
      | .ok (w, s) => decide (w = wordOf (.waitge gd0 3 1 3 false 15 0)) && (match fetchWord s with
        | .ok (w', s') => decide (w' = w) && decide (s'.cur.icache = s.cur.icache)
        | _ => false)
      | _ => false) = true) :=
  ⟨⟨rfl, rfl, rfl, rfl⟩, by decide +kernel, by decide +kernel, access_of (by decide +kernel), by decide +kernel⟩
theorem witness_WaitsAndFences_fence : Issues stBusy gd0 ∧ allDrained stBusy stBusy.cur = false ∧ Issues stHeld gd0 ∧
    allDrained stHeld stHeld.cur = true ∧ wcKept stHeld stHeld.cur.who stHeld.cur.wc = [] ∧ stHeld.cur.wc ≠ [] ∧
    Issues stKept gd0 ∧ wcKept stKept stKept.cur.who stKept.cur.wc ≠ [] ∧
    (wcGoing stHeld stHeld.cur.who stHeld.cur.wc).map (·.1) = [.mem (dramKey 0 0x30040) 0 0x30040, .mem (dramKey 0 0x30041) 0 0x30041] :=
  ⟨⟨rfl, rfl, rfl, rfl⟩, by decide +kernel, ⟨rfl, rfl, rfl, rfl⟩, by decide +kernel, by decide +kernel, by decide +kernel,
    ⟨rfl, rfl, rfl, rfl⟩, by decide +kernel, by decide +kernel⟩

/-- Misaligned, outside every window, unmapped, of another context. -/
def stOther : State := setBytes st1 (dramKey 0 0x22000) (leList 8 (probeLeaf + 2 ^ 32))
theorem witness_AccessFaults : Issues st1 gd0 ∧ HandlerReady st1 ∧ st1.cur.pfh = true ∧
    (st1.cur.rg 0 + (1#32).signExtend 64).toNat % 2 ≠ 0 ∧
    (2 ^ 54 ≤ ((two (2 ^ 54) 0).cur.rg 3).toNat ∧ ((two (2 ^ 54) 0).cur.rg 3).toNat < 0xFFFFF00000000000) ∧
    (match translate st1 1 0x10000 with
      | .error lv => decide (lv = 0)
      | .ok _ => false) = true ∧
    (match translate stOther 1 0x40 with
      | .error _ => false
      | .ok (l, _) => decide (l.owner ≠ stOther.cur.ctxid)) = true := ⟨issues1, handler1, by decide +kernel⟩
/-- The firmware setting, an unmapped address. -/
theorem witness_AccessFaults_service : ∃ s : State, Issues s gd0 ∧ HandlerReady s ∧ s.cur.pfh = false ∧
    (s.cur.rg 0 + (0x10000#32).signExtend 64).toNat < 2 ^ 54 ∧
    (match translate s s.cur.ctxid (s.cur.rg 0 + (0x10000#32).signExtend 64).toNat with
      | .error _ => true
      | .ok _ => false) = true :=
  ⟨st1.setCur (fun c => { c with pfh := false }), ⟨rfl, rfl, rfl, rfl⟩, ⟨rfl, by decide⟩, by decide +kernel⟩

/-- The four tables of the placed unit; the last aligned word of its scratchpad. -/
theorem witness_AddressTranslation : ∃ (j : Job) (l : Leaf), st1.job? 1 = some j ∧ l.log2 = 16 ∧
    l.striped = false ∧ l.addr % 2 ^ 16 = 0 ∧ memNat st1 (j.rootDie * 2 ^ 38 + j.rootAddr) 8 = 1 + 2 ^ 12 * 0 ∧
    memNat st1 (j.rootDie * 2 ^ 38 + j.rootAddr + 8) 8 = 0x10000 ∧ memNat st1 0x10000 8 = 1 ∧ memNat st1 0x10008 8 = 0x20000 ∧
    memNat st1 0x20000 8 = 1 ∧ memNat st1 0x20008 8 = 0x22000 ∧
    memNat st1 0x22000 8 = 3 + 2 ^ 4 * l.rd.toNat + 2 ^ 5 * l.w.toNat + 2 ^ 6 * l.x.toNat + 2 ^ 7 * l.mt + 2 ^ 9 * l.ms.toNat +
      2 ^ 10 * l.cmp.toNat + 2 ^ 12 * l.die + 2 ^ 24 * l.slot + 2 ^ 32 * l.owner.toNat ∧ memNat st1 0x22008 8 = l.addr :=
  ⟨_, ⟨16, 1, 0, 0, false, false, false, 0, true, true, true, 0x30000⟩, rfl, by decide +kernel⟩
theorem witness_AddressTranslation_scratchpad : Issues (two (spA + 0xFFFFF8) 5) gd0 ∧ NotReplica (two (spA + 0xFFFFF8) 5) ∧
    ((two (spA + 0xFFFFF8) 5).cur.rg 3).toNat = 0xFFFFF00000000000 + 0xFFFFF8 ∧ (two 0 0).ecc = [] ∧ (two 0 0).cur.wc = [] ∧
    0xFFFFF8 < 2 ^ 24 * ((two 0 0).cur.h * (two 0 0).cur.w) ∧ 0xFFFFF8 % 8 = 0 := ⟨⟨rfl, rfl, rfl, rfl⟩, ⟨by decide +kernel, rfl⟩, by decide +kernel⟩

/-- Records of the tags with their own layouts; a store of a register of that tag and of another. -/
def recB (r : Res (List VecAcc)) : Bool := match r with
  | .ok rs => rs.all (fun e => e.span.all (fun p => p.leaf.isNone)) && 2 ≤ rs.length
  | _ => false
theorem rec_of {r : Res (List VecAcc)} (h : recB r = true) : ∃ rs, r = .ok rs ∧ (∀ e ∈ rs, ∀ p ∈ e.span, notWc p.leaf) ∧ 2 ≤ rs.length := by
  unfold recB at h
  split at h
  · simp only [Bool.and_eq_true, decide_eq_true_eq] at h
    refine ⟨_, rfl, fun e he p hp l hl => ?_, h.2⟩
    have := List.all_eq_true.mp (List.all_eq_true.mp h.1 e he) p hp
    rw [hl] at this
    cases this
  · cases h
/-- Accesses to the scratchpad window, which no store moves. -/
def padSpan (c : Ctx) (x : VecAcc) : List Span :=
  [⟨x.addr, (List.range x.n).map (fun i => spLoc c.who (x.addr.toNat - spBase + i)), none⟩]
def stableB (s : State) (rs : List VecAcc) : Bool :=
  rs.all (fun x => decide (x.n ≤ 65536 - x.addr.toNat % 65536 ∧ winOfRange s s.cur.who x.addr x.n = .scratch ∧ x.span = padSpan s.cur x))
theorem stable_of {s : State} {rs : List VecAcc} (h : stableB s rs = true) : StableUnder s rs := by
  intro t ht _ x hx
  obtain ⟨h1, h2, h3⟩ := of_decide_eq_true (List.all_eq_true.mp h x hx)
  have hw : winOfRange t s.cur.who x.addr x.n = .scratch := by rw [ht]; exact h2
  have ha : access t s.cur.who .store x.addr x.n =
      .ok ((List.range x.n).map (fun i => spLoc s.cur.who (x.addr.toNat - spBase + i)), none) := by
    simp [access, hw, MemOp.readsData]
  simp only [spansWith, h1, if_true, ha, Res.bind, h3, padSpan]
def storeB (s : State) (r : Res (List VecAcc)) : Bool := match r with
  | .ok rs => stableB s rs
  | _ => false
theorem rec_stable {s : State} {r : Res (List VecAcc)} (h : recB r = true) (h' : storeB s r = true) :
    ∃ rs, r = .ok rs ∧ (∀ e ∈ rs, ∀ p ∈ e.span, notWc p.leaf) ∧ StableUnder s rs ∧ 2 ≤ rs.length := by
  obtain ⟨rs, rfl, h1, h2⟩ := rec_of h
  exact ⟨rs, rfl, h1, stable_of h', h2⟩
def stVec : State := st1.setCur (fun c => { c with v := [(1, lanes .fp32 0x3F800000), (2, lanes .i32 3), (3, lanes .w32 5),
  (4, lanes .fp32 0x40000000), (5, lanes .bf16 0x3F80)] })
theorem witness_VectorMemory : Issues stVec gd0 ∧ HandlerReady stVec ∧ NotReplica stVec ∧ stVec.cur.vec = none ∧ stVec.vlim = none ∧
    stVec.ecc = [] ∧
    (∃ rs, accessRecord stVec .load .ob4 (stVec.cur.rg 1 + (0#32).signExtend 64) = .ok rs ∧ (∀ e ∈ rs, ∀ p ∈ e.span, notWc p.leaf) ∧ 2 ≤ rs.length) ∧
    (∃ rs, accessRecord stVec .load .qc4 (stVec.cur.rg 1 + (1#32).signExtend 64) = .ok rs ∧ (∀ e ∈ rs, ∀ p ∈ e.span, notWc p.leaf) ∧ 2 ≤ rs.length) ∧
    (∃ rs, accessRecord stVec .store .fp32 (stVec.cur.rg 1 + (0#32).signExtend 64) = .ok rs ∧ (∀ e ∈ rs, ∀ p ∈ e.span, notWc p.leaf) ∧
      StableUnder stVec rs ∧ 2 ≤ rs.length) ∧
    (stVec.cur.rv 1).tag = .fp32 ∧ (stVec.cur.rv 2).tag ≠ .fp32 :=
  ⟨⟨rfl, rfl, rfl, rfl⟩, ⟨rfl, by decide⟩, ⟨by decide +kernel, rfl⟩, rfl, rfl, rfl, rec_of (by decide +kernel), rec_of (by decide +kernel),
    rec_stable (by decide +kernel) (by decide +kernel), by decide +kernel⟩
/-- With one access a step, and the record's accesses without an error. -/
theorem witness_VectorMemory_parts : ∃ rs, Issues { stVec with vlim := some 1 } gd0 ∧
    accessRecord { stVec with vlim := some 1 } .load .fp32 (stVec.cur.rg 1 + (0#32).signExtend 64) = .ok rs ∧
    (∀ e ∈ rs, ∀ p ∈ e.span, notWc p.leaf) ∧ 1 < rs.length ∧ ∀ x ∈ rs, eccBad { stVec with vlim := some 1 } x.locs = false := by
  obtain ⟨rs, h1, h2, h3⟩ := rec_of (r := accessRecord { stVec with vlim := some 1 } .load .fp32 (stVec.cur.rg 1 + (0#32).signExtend 64))
    (by decide +kernel)
  have h4 : ∀ l, eccBad { stVec with vlim := some 1 } l = false := fun l => by
    rw [eccBad, show ({ stVec with vlim := some 1 } : State).ecc = [] from rfl]
    simp
  exact ⟨rs, ⟨rfl, rfl, rfl, rfl⟩, h1, h2, h3, fun x _ => h4 _⟩
/-- The last record of each kind that the scratchpad holds, and an index at its last element (R163, R313, R347). -/
def stPad : State := stVec.setCur (fun c => { c with g := [(1, spA + 0xFFFE00), (3, spA + 0xFFFFFC)], v := (6, lanes .i32 0) :: c.v })
theorem witness_VectorMemory_completes : Issues stPad gd0 ∧ NotReplica stPad ∧ stPad.cur.vec = none ∧ stPad.vlim = none ∧ stPad.ecc = [] ∧
    stPad.cur.wc = [] ∧ stPad.cur.h ≤ 4 ∧ stPad.cur.w ≤ 4 ∧
    (stPad.cur.rg 1 + (0#32).signExtend 64).toNat = 0xFFFFF00000000000 + 0xFFFE00 ∧ 0xFFFE00 + vecBytes .fp32 = 2 ^ 24 ∧
    0xFFFE00 % max 1 (elemBytes .fp32) = 0 ∧ (stPad.cur.rv 1).tag = .fp32 ∧ (stPad.cur.rv 6).tag = .i32 ∧
    (∀ i < 128, ((stPad.cur.rg 3) + ((stPad.cur.rv 6).lane i).signExtend 64 * u64 4).toNat = 0xFFFFF00000000000 + 0xFFFFFC) ∧
    (memByte stPad (padAt stPad.cur (0xFFFE00 + 64))).toNat < 16 ∧ Tag.isPlain .fp32 = true :=
  ⟨⟨rfl, rfl, rfl, rfl⟩, ⟨by decide +kernel, rfl⟩, by decide +kernel⟩
/-- R313: what LDV reads from a record that STV stored; R347: VSTX of lanes at one place leaves the highest. -/
def thenDo (o : Out) (f : State → Out) : Out := match o with
  | .next t => f t
  | x => x
def laneAt (o : Out) (d : VNum) (i : Nat) : Option W32 := match o with
  | .next t => some ((t.cur.rv d).lane i)
  | _ => none
theorem test_vector_record : laneAt (thenDo (exec (.stv gd0 9 1 .ob4 0) (stPad.setCur (fun c => { c with
    v := (9, ⟨[(126, 3), (127, 9)], .ob4, 2, 5, 0⟩) :: c.v }))) (exec (.ldv gd0 7 1 .ob4 15 0))) 7 127 = some 9 := by decide +kernel
theorem test_vector_indexed : laneAt (thenDo (exec (.vstx gd0 8 3 6 .fp32 none) (stPad.setCur (fun c => { c with
    v := (8, ⟨[(126, 5), (127, 9)], .fp32, 0, 0, 0⟩) :: c.v }))) (exec (.vldx gd0 7 3 6 .fp32 none))) 7 0 = some 9 := by
  decide +kernel
/-- Lanes 0 and 127 selected. -/
def lanesB (r : Res (List VecAcc)) : Bool := match r with
  | .ok rs => rs.length == 2 && rs.all (fun e => e.span.all (fun p => p.leaf.isNone))
  | _ => false
def stLane : State := stVec.setCur (fun c => { c with m := [(1, 0x80000000000000000000000000000001)] })
def addrs2 : List (Nat × W64) := [(0, spA), (127, spA + 0xFFFFFC)]
theorem witness_VectorMemory_indexed : Issues stLane gd0 ∧ laneOn stLane.cur (some 1) 0 = true ∧ laneOn stLane.cur (some 1) 127 = true ∧
    laneOn stLane.cur (some 1) 64 = false ∧ lanesB (accessLanes stLane .load 4 addrs2) = true ∧
    lanesB (accessLanes stLane .store 4 addrs2) = true ∧ storeB stLane (accessLanes stLane .store 4 addrs2) = true ∧ (stLane.cur.rv 2).tag = .i32 ∧
    (stLane.cur.rv 1).tag ≠ .i32 ∧ (stLane.cur.rv 1).tag ≠ .w32 := ⟨⟨rfl, rfl, rfl, rfl⟩, by decide +kernel⟩

/-- Operands of one floating tag, of each integer tag, of none. -/
theorem witness_VectorFloatingPoint : Issues stVec gd0 ∧ (stVec.cur.rv 1).tag.isFloat = true ∧
    (stVec.cur.rv 4).tag = (stVec.cur.rv 1).tag ∧ (stVec.cur.rv 1).tag ≠ .invalid := ⟨⟨rfl, rfl, rfl, rfl⟩, by decide +kernel⟩
theorem witness_VectorInteger : Issues stVec gd0 ∧ (stVec.cur.rv 2).tag = .i32 ∧ (stVec.cur.rv 3).tag = .w32 := ⟨⟨rfl, rfl, rfl, rfl⟩, by decide +kernel⟩
theorem witness_VectorMoves : Issues stVec gd0 ∧ (stVec.cur.rv 1).tag ≠ .invalid ∧ (stVec.cur.rv 2).tag = .i32 ∧
    (stVec.cur.rv 4).tag = (stVec.cur.rv 1).tag ∧ (stVec.cur.rv 1).tag.isQuant = false := ⟨⟨rfl, rfl, rfl, rfl⟩, by decide +kernel⟩
theorem witness_VectorMoves_quant : ∃ s : State, Issues s gd0 ∧ (s.cur.rv 1).tag.isQuant = true ∧ (s.cur.rv 2).tag = .i32 ∧
    laneOn s.cur (some 1) 127 = true ∧ ∀ i < 128, laneOn s.cur (some 1) i = true → ((s.cur.rv 2).lane i).toNat % 128 / 64 = i / 64 :=
  ⟨st1.setCur (fun c => { c with m := [(1, 0x80000000000000000000000000000001)], v := [(1, ⟨[(64, 7)], .ob8, 3, 4, 0⟩), (2, ⟨[(127, 64)], .i32, 0, 0, 0⟩)] }),
    ⟨rfl, rfl, rfl, rfl⟩, by decide +kernel⟩
theorem witness_VectorCompareQuantiseReduce : Issues stVec gd0 ∧ (stVec.cur.rv 1).tag.isFloat = true ∧
    (stVec.cur.rv 4).tag = (stVec.cur.rv 1).tag ∧ (stVec.cur.rv 2).tag = .i32 ∧ (stVec.cur.rv 3).tag = .w32 :=
  ⟨⟨rfl, rfl, rfl, rfl⟩, by decide +kernel⟩
/-- 1.5 and −2 over the exponent −1, a signalling NaN; a number to convert and a code beside it; 2^−1, 3 and 2^3 to exponentiate. -/
theorem witness_VectorCompareQuantiseReduce_values : (-1 : Int) ≤ -1 ∧ (-1 : Int) ≤ 1 ∧ (Val.nan false true).isSig = true ∧
    (match decodeFloat .bf16 (convert .bf16 .rdn false (.fin false 0x10001 (-18))).1, decodeFloat .bf16 0x3E80 with
      | .fin _ _ e1, .fin _ _ e2 => decide (-20 ≤ e1 ∧ -20 ≤ e2)
      | _, _ => false) = true ∧
    (∀ x ∈ [((1 : Nat), (-1 : Int)), (3, 0), (1, 3)], 0 < x.1 ∧ -60 ≤ x.2 + Nat.log2 x.1 ∧ x.2 + Nat.log2 x.1 < 9) := by decide +kernel
/-- Halves with an infinity, of zeros, and with −3 in lane 70 as the largest magnitude. -/
def laneReg (p : List (Nat × W32)) : VReg := ⟨p, .fp32, 0, 0, 0⟩
theorem witness_VectorCompareQuantiseReduce_sides :
    isFin ((laneReg [(3, 0x7F800000)]).val 3) = false ∧ (∀ i < 128, ((laneReg []).val i).isZero = true) ∧
    (∀ j < 128, isFin ((laneReg [(2, 0x3F800000), (70, 0xC0400000)]).val j) = true) ∧
    (∀ j < 128, ltVal (absVal ((laneReg [(2, 0x3F800000), (70, 0xC0400000)]).val 70))
      (absVal ((laneReg [(2, 0x3F800000), (70, 0xC0400000)]).val j)) = false) ∧
    (∀ j < 64, ltVal (absVal ((laneReg [(2, 0x3F800000), (70, 0xC0400000)]).val 2))
      (absVal ((laneReg [(2, 0x3F800000), (70, 0xC0400000)]).val j)) = false) := by decide +kernel
theorem witness_TagTraps : Issues stVec gd0 ∧ HandlerReady stVec ∧ (stVec.cur.rv 2).tag.isFloat = false ∧
    (stVec.cur.rv 1).tag ≠ .i32 ∧ (stVec.cur.rv 1).tag ≠ .w32 ∧ (stVec.cur.rv 0).tag = .invalid := ⟨⟨rfl, rfl, rfl, rfl⟩, ⟨rfl, by decide⟩, by decide +kernel⟩
/-- Finite operands with a common lower exponent; a rounding position; a finite code; an even exponent. -/
theorem witness_ArithmeticExactAndRounded : (-3 : Int) ≤ 0 ∧ (-3 : Int) ≤ 2 ∧ (0 : Nat) < 1 ∧
    (match decodeFloat .bf16 0x3F80 with
      | .fin _ _ _ => decide (0x3F80 < 2 ^ elemBits .bf16)
      | _ => false) = true ∧ (0 : Nat) < 3 ∧ (-2 : Int) % 2 = 0 := by decide +kernel
/-- Tokens: k1 pending under 9, k2 faulted, the others complete. -/
def stTok : State := st1.setCur (fun c => { c with k := [(1, ⟨9, Done.ok⟩), (2, ⟨0, ⟨statusWord 6 0, 8, 9⟩⟩)] })
theorem get_mem {α : Type} (t : Tab α) (k : Nat) {v : α} (h : Tab.get? t k = some v) : (k, v) ∈ t := by
  induction t with
  | nil => cases h
  | cons e t ih =>
    simp only [Tab.get?] at h
    split at h
    · next hk => cases h; simp [hk]
    · exact List.mem_cons_of_mem _ (ih h)
theorem settled_of {s : State} (h : settledJoin s = none ∧ faultedPend s = none ∧ s.joins = [] ∧ s.pend = [] ∧
    (∀ e ∈ s.cur.k, e.2.pend ≠ s.nextId) ∧ Store.wf Token.reset s.cur.k = true ∧ s.nextId ≠ 0) : TokensSettled s := by
  obtain ⟨h1, h2, h3, h4, h5, h6, h7⟩ := h
  refine ⟨h1, h2, by simp [h3], by simp [h4], fun r => ?_, h6, h7⟩
  unfold Ctx.rk Store.get
  split
  · exact fun h => h7 h.symm
  · cases hg : Tab.get? s.cur.k r.toNat with
    | none => exact fun h => h7 h.symm
    | some t => exact h5 _ (get_mem _ _ hg)
theorem witness_TokenInstructions : Issues stTok gd0 ∧ HandlerReady stTok ∧ TokensSettled stTok ∧ (stTok.cur.rk 3).pend = 0 ∧
    (stTok.cur.rk 1).pend ≠ 0 ∧ (stTok.cur.rk 2).pend = 0 ∧
    (([stTok.cur.rk 3, stTok.cur.rk 2, stTok.cur.rk 0].filter (fun t => statusCode t.done.status != 0)).head? = some (stTok.cur.rk 2)) :=
  ⟨⟨rfl, rfl, rfl, rfl⟩, ⟨rfl, by decide⟩, settled_of (by decide +kernel), by decide +kernel⟩
/-- A free output token and a queue with room; a pending one; a full queue. -/
theorem witness_EngineCommandsIssue : Issues stTok gd0 ∧ (stTok.cur.rk 3).pend = 0 ∧ (stTok.queue 0 2).length < 16 ∧
    (stTok.cur.rk 1).pend ≠ 0 ∧ isReplica stTok = false ∧ inputFault ([0, 0, 0].map (fun k => (stTok.cur.rk k).inp)) = none ∧
    (stTok.pend.filter (fun p => p.cid == stTok.cur.cid)).length < 16 :=
  ⟨⟨rfl, rfl, rfl, rfl⟩, by decide +kernel⟩
theorem witness_EngineCommandsIssue_full : Issues (withQueue st1 5 (List.replicate 16 (cmd0 1 kw spA 1))) gd0 ∧
    ¬ ((withQueue st1 5 (List.replicate 16 (cmd0 1 kw spA 1))).queue 0 5).length < 16 := ⟨⟨rfl, rfl, rfl, rfl⟩, by decide +kernel⟩
def pend0 (id : Nat) : PendLaunch := ⟨id, 5, 4, 3, 1, 0, wordOf (.launch gd0 1 0 0 0 1), 0x80, 1, 1, 0, [], none⟩
def stPend : State := { st1 with pend := List.replicate 16 (pend0 50) }
theorem witness_EngineCommandsIssue_launches : Issues stPend gd0 ∧ isReplica stPend = false ∧
    16 ≤ (stPend.pend.filter (fun p => p.cid == stPend.cur.cid)).length ∧ Issues stReplica gd0 ∧ HandlerReady stReplica ∧
    isReplica stReplica = true := ⟨⟨rfl, rfl, rfl, rfl⟩, by decide +kernel, by decide +kernel, ⟨rfl, rfl, rfl, rfl⟩, ⟨rfl, by decide⟩, by decide +kernel⟩
/-- Outside a shared launch; within one as holder, on the request list, neither; dual-queue mode. -/
def stLease (holder : Option Nat) (reqs : List Nat) : State := stShared.modFrag 0 (fun f => { f with holder := holder, reqs := reqs })
theorem witness_ArrayCommandsIssue : Issues st1 gd0 ∧ HandlerReady st1 ∧ (st1.cur.rk 1).pend = 0 ∧ isShared st1 = false ∧
    (st1.queue st1.cur.arr 0).length < 16 ∧ (st1.frag st1.cur.arr).dual = false ∧
    ((st1.modFrag 0 (fun f => { f with dual := true })).frag 0).dual = true := ⟨issues1, handler1, by decide +kernel⟩
theorem witness_ArrayCommandsIssue_shared : Issues (stLease (some 5) []) gd0 ∧ isShared (stLease (some 5) []) = true ∧
    ((stLease (some 5) []).frag 0).holder = some (stLease (some 5) []).cur.cid ∧
    tenureOver (stLease (some 5) []) ((stLease (some 5) []).frag 0) = false ∧
    Issues (stLease (some 9) [5]) gd0 ∧ 5 ∈ ((stLease (some 9) [5]).frag 0).reqs ∧
    Issues (stLease (some 9) []) gd0 ∧ HandlerReady (stLease (some 9) []) ∧ 5 ∉ ((stLease (some 9) []).frag 0).reqs :=
  ⟨⟨rfl, rfl, rfl, rfl⟩, by decide +kernel, by decide +kernel, by decide +kernel, ⟨rfl, rfl, rfl, rfl⟩, by decide +kernel, ⟨rfl, rfl, rfl, rfl⟩,
    ⟨rfl, by decide⟩, by decide +kernel⟩
theorem witness_LeasesAndBarriers_lease : Issues (stLease none []) gd0 ∧ isShared (stLease none []) = true ∧
    ((stLease none []).frag 0).holder = none ∧ Issues st1 gd0 ∧ isShared st1 = false ∧
    ((stLease (some 9) [7]).frag 0).holder = some 9 := ⟨⟨rfl, rfl, rfl, rfl⟩, by decide +kernel, by decide +kernel, issues1, by decide +kernel⟩
/-- A unit of one context, and of two. -/
def stComp : State := { st1 with units := Tab.set st1.units 4 { probeUnit 3 5 with cids := [5, 6] },
                                 others := [{ st1.cur with cid := 6, compid := 1 }] }
theorem witness_LeasesAndBarriers : ∃ u v, Issues st1 gd0 ∧ HandlerReady st1 ∧ st1.unit? st1.cur.uid = some u ∧ st1.cur.wait ≠ .quantum ∧
    (Store.get 0 st1.cur.bars 15).getLsbD 7 = false ∧ (Store.get Barrier.reset u.bars 15).count + 1 = liveContexts st1 u ∧
    isGang st1 = false ∧ isShared st1 = false ∧ Issues stComp gd0 ∧ stComp.unit? stComp.cur.uid = some v ∧
    (Store.get Barrier.reset v.bars 0).count + 1 < liveContexts stComp v ∧ (Store.get 0 stComp.cur.bars 0).getLsbD 7 = false :=
  ⟨_, _, issues1, handler1, rfl, by decide, by decide +kernel, by decide +kernel, by decide +kernel, by decide +kernel,
    ⟨rfl, rfl, rfl, rfl⟩, rfl, by decide +kernel, by decide +kernel⟩
/-- CANCEL of the own launch, of another level, of what is not there; drained and other queues of QMARK. -/
theorem witness_CancelAndMarkers : ∃ e, Issues st1 gd0 ∧ HandlerReady st1 ∧ st1.cur.rg 0 = 0 ∧ st1.ent? st1.cur.lid = some e ∧
    e.level = .launch ∧ e.complete = false ∧ st1.cur.rg 2 ≠ 0 ∧ (st1.cur.rg 2).toNat / 2 ^ 60 ≠ 2 ∧
    (st1.cur.rg 2).toNat / 2 ^ 60 = 1 ∧ ∀ x ∈ st1.ents, x.2.handle ≠ st1.cur.rg 2 := ⟨_, issues1, handler1, by decide, rfl, by decide +kernel⟩
theorem witness_CancelAndMarkers_qmark : ∃ s : State, Issues s gd0 ∧ s.cur.sm = true ∧ s.queue s.cur.seq 5 ≠ [] ∧
    s.queue s.cur.seq 2 = [] := ⟨withQueue stSm 5 [cmd0 1 kw spA 1], ⟨rfl, rfl, rfl, rfl⟩, by decide +kernel⟩
theorem witness_CancelAndMarkers_behind : Issues stBehind gd0 ∧ stBehind.cur.sm = true ∧ stBehind.cur.marker.getD stBehind.nextId = 7 ∧
    (∀ k ∈ stBehind.queue stBehind.cur.seq 5, ¬ k.id < 7) ∧ stBehind.queue stBehind.cur.seq 5 ≠ [] := ⟨⟨rfl, rfl, rfl, rfl⟩, by decide +kernel⟩
/-- A handle of the phase that contains the launch; a launch that no graph contains. -/
theorem witness_CancelAndMarkers_outer : ∃ x f, (two (u64 (3 * 2 ^ 60 + 1)) 0).cur.rg 3 ≠ 0 ∧
    ((two (u64 (3 * 2 ^ 60 + 1)) 0).cur.rg 3).toNat / 2 ^ 60 = 3 ∧ entByHandle st0 st0.cur.ctxid (u64 (3 * 2 ^ 60 + 1)) = some x ∧
    st0.ent? x = some f ∧ f.complete = false ∧ contains st0 x st0.cur.lid = true ∧
    ((st0.ent? st0.cur.lid).bind (·.parent)) = some x ∧ f.level ≠ .graph :=
  ⟨2, _, by decide +kernel, by decide +kernel, by decide +kernel, rfl, by decide +kernel⟩
/-- A handle that only job 2 has given. -/
def stForeign : State := { two (u64 (2 ^ 60 + 3)) 0 with serials := [(8 * 2 + 1, 5)] }
theorem witness_CancelAndMarkers_foreign : Issues stForeign gd0 ∧ HandlerReady stForeign ∧ (stForeign.cur.rg 3).toNat = 1 * 2 ^ 60 + 3 ∧
    Store.get 0 stForeign.serials (8 * stForeign.cur.ctxid.toNat + 1) < 3 ∧ 3 ≤ Store.get 0 stForeign.serials (8 * (2 : W16).toNat + 1) ∧
    entByHandle stForeign stForeign.cur.ctxid (stForeign.cur.rg 3) = none ∧
    handleGiven stForeign 2 .launch (u64 (2 ^ 60 + 3)) = true ∧ handleElsewhere st1 1 .launch (u64 (2 ^ 60 + 3)) = false :=
  ⟨⟨rfl, rfl, rfl, rfl⟩, ⟨rfl, by decide +kernel⟩, by decide +kernel, by decide +kernel, by decide +kernel, by decide +kernel, by decide +kernel,
    by decide +kernel⟩
/-- A fragment of two panes to split by rows, one of one pane. -/
def stTwo : State :=
  let s := st1.setCur (fun c => { c with h := 2 })
  { s with units := Tab.set s.units 4 { probeUnit 3 5 with h := 2 }, occ := [(0, 4), (4, 4)],
           frags := Store.put Frag.reset s.frags 0 { Frag.reset with h := 2, w := 1 } }
theorem witness_SplitsAndFuses : ∃ u, Issues stTwo gd0 ∧ HandlerReady stTwo ∧ stTwo.unit? stTwo.cur.uid = some u ∧
    allDrained stTwo stTwo.cur = true ∧ chainAt stTwo stTwo.cur.seq = false ∧ u.ncomp < 15 ∧ ¬ stTwo.cur.h < 2 ∧ stTwo.cur.w < 2 ∧
    isShared stTwo = false ∧ (stTwo.cur.rg 0).toNat % 8 = 0 ∧ (stTwo.cur.rg 3).toNat % 8 ≠ 0 :=
  ⟨_, ⟨rfl, rfl, rfl, rfl⟩, ⟨rfl, by decide⟩, rfl, by decide +kernel⟩
/-- After that split, while the companion runs and once it has executed EXIT. -/
def stHalf (ph : CtxPhase) : State :=
  let s := st1.setCur (fun c => { c with splits := [(6, false)] })
  { s with units := Tab.set s.units 4 { probeUnit 3 5 with cids := [5, 6], h := 2 }, occ := [(0, 4), (4, 4)],
           others := [{ st1.cur with cid := 6, compid := 1, seq := 4, arr := 4, phase := ph }] }
theorem witness_SplitsAndFuses_fuse : ∃ d e, Issues (stHalf .exited) gd0 ∧ (stHalf .exited).cur.splits = [(6, false)] ∧
    (stHalf .exited).ctx? 6 = some d ∧ d.cid = 6 ∧ d.phase = .exited ∧ chainAt (stHalf .exited) 0 = false ∧
    chainAt (stHalf .exited) d.seq = false ∧ allDrained (stHalf .exited) d = true ∧
    allDrained (stHalf .exited) (stHalf .exited).cur = true ∧ (stHalf .running).ctx? 6 = some e ∧ e.phase = .running ∧
    Issues (stHalf .running) gd0 ∧ st1.cur.splits = [] :=
  ⟨_, _, ⟨rfl, rfl, rfl, rfl⟩, rfl, rfl, by decide +kernel, by decide +kernel, by decide +kernel, by decide +kernel, by decide +kernel,
    by decide +kernel, rfl, by decide +kernel, ⟨rfl, rfl, rfl, rfl⟩, rfl⟩
/-- A chain to pane 5 of the launch's other unit, to the own pane, to pane 16. -/
def stChain : State := { (st1.setCur (fun c => { c with g := [(1, 5), (2, 16)] })) with
  units := Tab.set st1.units 9 { probeUnit 3 8 with seq := 5, arr := 5 }, occ := [(0, 4), (5, 9)],
  others := [{ st1.cur with cid := 8, uid := 9, seq := 5, arr := 5 }] }
theorem witness_ChainsOpenAndClose : Issues stChain gd0 ∧ HandlerReady stChain ∧ (∀ x ∈ stChain.chains, x.src ≠ stChain.cur.seq) ∧
    (stChain.cur.rg 1).toNat < 16 ∧ heldOrigin stChain stChain.cur 5 = true ∧ 5 ≠ stChain.cur.seq ∧ isShared stChain = false ∧
    15 < (stChain.cur.rg 2).toNat ∧ (stChain.cur.rg 0).toNat = stChain.cur.seq := ⟨⟨rfl, rfl, rfl, rfl⟩, ⟨rfl, by decide⟩, by decide +kernel⟩
theorem witness_ChainsOpenAndClose_marker : (⟨0, 5, [], false, [], none, [], 0, none⟩ : Chain).src = st1.cur.seq := rfl
/-- EXIT of a unit, of a companion, with a running half; YIELD without and under a decision. -/
theorem witness_EndsAndYields : ∃ u, Issues st1 gd0 ∧ st1.unit? st1.cur.uid = some u ∧ st1.cur.splits = [] ∧ st1.cur.compid = 0 ∧
    u.phase ≠ .window := ⟨_, issues1, rfl, by decide⟩
theorem witness_EndsAndYields_companion : ∃ u e, Issues (stComp.setCur (fun c => { c with compid := 1 })) gd0 ∧
    stComp.unit? stComp.cur.uid = some u ∧ (stHalf .running).ctx? 6 = some e ∧ e.phase = .running :=
  ⟨_, _, ⟨rfl, rfl, rfl, rfl⟩, rfl, rfl, rfl⟩
/-- EXIT with a half whose companion has ended; with an open chain, an input, the lease and requests. -/
theorem witness_EndsAndYields_half : ∃ d, Issues (stHalf .exited) gd0 ∧ (stHalf .exited).cur.splits = [(6, false)] ∧
    (stHalf .exited).ctx? 6 = some d ∧ d.cid = 6 ∧ d.phase = .exited ∧ allDrained (stHalf .exited) d = true ∧
    allDrained (stHalf .exited) (stHalf .exited).cur = true := ⟨_, ⟨rfl, rfl, rfl, rfl⟩, rfl, rfl, by decide +kernel⟩
def stEnds (holder : Option Nat) : State := { stLease holder [8, 9] with
  chains := [⟨0, 5, [], false, [], none, [], 0, none⟩, ⟨7, 0, [], false, [], none, [], 0, none⟩, ⟨7, 6, [], false, [], none, [], 0, none⟩] }
theorem witness_EndsAndYields_chains : ∃ u, Issues (stEnds (some 5)) gd0 ∧ (stEnds (some 5)).unit? (stEnds (some 5)).cur.uid = some u ∧
    (stEnds (some 5)).cur.splits = [] ∧ wcKept (stEnds (some 5)) (stEnds (some 5)).cur.who (stEnds (some 5)).cur.wc = [] ∧
    (∀ x ∈ (stEnds (some 5)).chains, x.flight = []) ∧ (stEnds (some 5)).queue 0 5 = [] ∧ (stEnds (some 5)).cur.compid = 0 ∧
    isShared (stEnds (some 5)) = true ∧ ((stEnds (some 5)).frag 0).holder = some 5 ∧ ((stEnds (some 8)).frag 0).holder ≠ some 5 :=
  ⟨_, ⟨rfl, rfl, rfl, rfl⟩, rfl, rfl, by decide +kernel⟩
def stYield : State := { st1 with units := Tab.set st1.units 4 { probeUnit 3 5 with phase := .window, deadline := 100, space := some (0x9000, 4096) } }
theorem witness_EndsAndYields_window : ∃ u, Issues stYield gd0 ∧ stYield.unit? stYield.cur.uid = some u ∧ u.phase = .window ∧
    stYield.now < u.deadline ∧ chainAt stYield stYield.cur.seq = false ∧ isShared stYield = false ∧ u.space = some (0x9000, 4096) ∧
    64 + 8 * (63#6).toNat ≤ 4096 ∧ u.cids = [stYield.cur.cid] ∧ allDrained stYield stYield.cur = true ∧
    allDrained (withQueue stYield 5 [cmd0 1 kw spA 1]) stYield.cur = false :=
  ⟨_, ⟨rfl, rfl, rfl, rfl⟩, rfl, by decide +kernel⟩
/-- Bytes at an address of context 1's page. -/
def putVa (s : State) (va : Nat) (bs : List Nat) : State := setBytes s (dramKey 0 (0x30000 + va)) bs
/-- A parameter block at 0x100, a gang slice's at 0x400, its slice block at 0x240, a graph block of one node at 0x200, a
checkpoint block of one empty range at 0x280 (R32, R77, R44, R255). -/
def lpbBytes (flags : Nat) : List Nat := leList 8 0 ++ leList 4 1 ++ [0, 0, 0, flags] ++ leList 2 1
def stMem : State :=
  putVa (putVa (putVa (putVa (putVa (putVa (putVa st1 0x100 (lpbBytes 0)) 0x400 (lpbBytes 1))
    0x240 (leList 8 0x400 ++ leList 8 1000 ++ leList 8 0x500 ++ leList 2 2)) 0x500 (leList 2 0 ++ leList 2 7))
    0x200 (leList 4 1 ++ leList 4 0 ++ leList 8 0x300)) 0x300 (leList 8 0x100))
    0x280 (leList 4 1 ++ leList 4 0 ++ leList 8 7 ++ leList 8 0x8000 ++ leList 8 0x380)
def okB {α : Type} (r : Res (Except W32 α)) (p : α → Bool) : Bool := match r with
  | .ok (.ok x) => p x
  | _ => false
theorem ok_of {α : Type} {r : Res (Except W32 α)} {p : α → Bool} (h : okB r p = true) : ∃ x, r = .ok (.ok x) ∧ p x = true := by
  unfold okB at h
  split at h
  · exact ⟨_, rfl, h⟩
  · cases h
def errB {α : Type} (r : Res (Except W32 α)) : Bool := match r with
  | .ok (.error _) => true
  | _ => false
theorem err_of {α : Type} {r : Res (Except W32 α)} (h : errB r = true) : ∃ st, r = .ok (.error st) := by
  unfold errB at h
  split at h
  · exact ⟨_, rfl⟩
  · cases h

def remB (r : Res (List Loc)) (key n : Nat) : Bool := match r with
  | .ok ls => plainB ls key n
  | _ => false
theorem rem_of {r : Res (List Loc)} {key n : Nat} (h : remB r key n = true) : ∃ ls, r = .ok ls ∧ Plain ls key n := by
  unfold remB at h
  split at h
  · exact ⟨_, rfl, plain_of h⟩
  · cases h
/-- ARRIVE at the head of its queue, without and with a faulted input. -/
def arriveCmd (ins : List Inp) : Cmd := { cmd0 9 (.arrive gd0 1 0 0 0 1 2) spA 5 with ins := ins }
theorem orderly_of {s : State} (h : Store.wf Frag.reset s.frags = true ∧ Store.wf Token.reset s.cur.k = true ∧ s.joins = [] ∧
    s.pend = []) : Orderly s := h
theorem witness_CommandStarts : ∃ c, Orderly (withQueue st1 3 [arriveCmd []]) ∧ (withQueue st1 3 [arriveCmd []]).queue 0 3 = [arriveCmd []] ∧
    (withQueue st1 3 [arriveCmd []]).stopping 4 = false ∧ (withQueue st1 3 [arriveCmd []]).ctx? 5 = some c ∧ c.phase = .running ∧
    inputsDone (arriveCmd []).ins = true ∧ firstFault (arriveCmd []).ins = none ∧ (arriveCmd []).ga.toNat % 8 = 0 ∧
    ∃ ls leaf, access (withQueue st1 3 [arriveCmd []]) (arriveCmd []).who .counter spA 8 = .ok (ls, leaf) ∧ Plain ls (spKey 0 0) 8 :=
  ⟨_, orderly_of (by decide +kernel), rfl, by decide +kernel, rfl, rfl, by decide, by decide, by decide +kernel, access_of (by decide +kernel)⟩
theorem witness_CommandStarts_faulted : ∃ d : Done, inputsDone (arriveCmd [.done d]).ins = true ∧ firstFault (arriveCmd [.done d]).ins = some d ∧
    statusCode d.status ≠ 0 := ⟨⟨statusWord 6 0, 0, 0⟩, by decide +kernel⟩
/-- ASWAP before its start, and at its boundary. -/
def aswapCmd (st : CmdSt) : Cmd := { cmd0 9 (.aswap gd0 1 0 0 0 false) 0 0 with st := st }
def stAswap (cur : Option Nat) (st : CmdSt) : State := st1.modFrag 0 (fun f => { f with q := [(0, [aswapCmd st])], cur := cur })
theorem witness_CommandBoundaries : Orderly (stAswap none .queued) ∧ ((stAswap none .queued).frag 0).q = [(0, [aswapCmd .queued])] ∧
    (stAswap none .queued).stopping 4 = false ∧ ((stAswap none .queued).frag 0).busy ≤ (stAswap none .queued).now ∧
    ((stAswap none .queued).frag 0).cur = none ∧ Orderly (stAswap (some 9) .started) ∧ ((stAswap (some 9) .started).frag 0).cur = some 9 ∧
    inputsDone (aswapCmd .started).ins = true ∧ firstFault (aswapCmd .started).ins = none ∧ st1.chains = [] ∧
    edgeStuck (stAswap none .queued) 0 = false :=
  ⟨orderly_of (by decide +kernel), rfl, by decide +kernel, by decide, rfl, orderly_of (by decide +kernel), rfl, by decide, by decide, rfl, rfl⟩
theorem witness_CommandCompletions : ∃ k c, Orderly (stAswap none .passed) ∧ (stAswap none .passed).cmd? 0 0 9 = some k ∧ k.st = .passed ∧
    (stAswap none .passed).ctx? k.cid = some c ∧ c.phase = .running ∧ k.ready ≤ (stAswap none .passed).now :=
  ⟨_, _, orderly_of (by decide +kernel), rfl, rfl, rfl, rfl, by decide +kernel⟩
/- Engine commands -/

/-- Bytes of the scratchpad's first pane; a stream descriptor there (R122). -/
def spPut (s : State) (o : Nat) (bs : List Nat) : State := setBytes s (spKey 0 o) bs
def sdB (base : W64) (t : Tag) (dims : List (Nat × Nat)) : List Nat :=
  leList 8 base.toNat ++ [t.bits.toNat, dims.length] ++ leList 22 0 ++ (dims.map (fun d => leList 8 d.1 ++ leList 8 d.2)).flatten
/-- A command alone in a queue; a descriptor at 0x100 of data at 0x1000. -/
def stQ (q : Nat) (k : Cmd) : State := withQueue st1 q [k]
def sdAt (s : State) (t : Tag) (n : Nat) : State := spPut (spPut s 0x100 (sdB (spA + 0x1000) t [(n, elemBytes t)])) 0x1000 (leList 8 0x3F80400040003F80)
theorem ready_of {s : State} {seq q : Nat} {k : Cmd} (h : Orderly s) (hq : s.queue seq q = [k])
    (h' : decide (k.id ≠ 0 ∧ k.page = none ∧ k.bad = none ∧ s.stopping k.uid = false ∧ issuerGone s k = false ∧
      inputsDone k.ins = true ∧ firstFault k.ins = none) = true) : ReadyCmd s seq q k := ⟨h, hq, of_decide_eq_true h'⟩
def resB {α : Type} (r : Res α) (p : α → Bool) : Bool := match r with
  | .ok x => p x
  | _ => false
theorem res_of {α : Type} {r : Res α} {p : α → Bool} (h : resB r p = true) : ∃ x, r = .ok x ∧ p x = true := by
  unfold resB at h
  split at h
  · exact ⟨_, rfl, h⟩
  · cases h
/-- A stream in the scratchpad window. -/
def streamB (s : State) (k : Cmd) (d : Sd) (key : Nat → Nat) : Bool :=
  s.ecc.isEmpty && (List.range d.count').all (fun j => winOfRange s k.who (d.elem j).1 d.size == .scratch &&
    plainB ((List.range d.size).map (fun i => spLoc k.who ((d.elem j).1.toNat - spBase + i))) (key j) d.size)
theorem stream_of {s : State} {k : Cmd} {op : MemOp} {d : Sd} {key : Nat → Nat} (hop : op ≠ .fetch) (h : streamB s k d key = true) :
    StreamAt s k op d key := by
  simp only [streamB, Bool.and_eq_true, List.isEmpty_iff, List.all_eq_true, List.mem_range, beq_iff_eq] at h
  intro j hj
  obtain ⟨h1, h2⟩ := h.2 j hj
  refine ⟨_, plain_of h2, fun t ht => ?_⟩
  have hw : winOfRange t k.who (d.elem j).1 d.size = .scratch := by rw [ht]; exact h1
  have he : ∀ l, eccBad t l = false := fun l => by
    rw [eccBad, show t.ecc = [] by rw [ht]; exact h.1]
    simp
  simp [useLoc, hw, access, hop, he, Res.bind]
def keyAt (o n : Nat) (j : Nat) : Nat := spKey 0 o + n * j

def xcopy0 : Instr := .xcopy gd0 1 0 0 0 1 2 none
/-- XCOPY of four elements: descriptors that agree, that differ in count and in format; XRED of BF16. -/
def stCopy (op : Instr) (t1 t2 : Tag) (n1 n2 : Nat) : State :=
  spPut (sdAt (stQ 2 (cmd0 9 op (spA + 0x100) (spA + 0x200))) t1 n1) 0x200 (sdB (spA + 0x2000) t2 [(n2, elemBytes t2)])
def copyB (t1 t2 : Tag) (n1 n2 : Nat) (p : Sd → Sd → Bool) : Bool :=
  let s := stCopy xcopy0 t1 t2 n1 n2
  let k := cmd0 9 xcopy0 (spA + 0x100) (spA + 0x200)
  resB (readSd s k k.ga) (fun x => resB (readDst s k k.gb) (p x))
def passB (s : State) (k : Cmd) (d : Sd) (f : Nat → List (MemOp × W64 × Nat)) : Bool :=
  let p := passAll s k.who f d.count' 0 Pass.start
  !p.held && p.mtype.isNone && p.bad.isNone
theorem witness_CommandStarts_copies : ReadyCmd (stCopy xcopy0 .fp32 .fp32 4 4) 0 2 (cmd0 9 xcopy0 (spA + 0x100) (spA + 0x200)) ∧
    copyB .fp32 .fp32 4 4 (fun x d => decide (x.fmt = d.fmt ∧ x.count' = d.count' ∧ x.dims = [(4, 4)]) && passB (stCopy xcopy0 .fp32 .fp32 4 4)
      (cmd0 9 xcopy0 0 0) d (fun j => [(.engRead, (x.elem j).1, x.size), (.engWrite, (d.elem j).1, x.size)])) = true ∧
    copyB .fp32 .fp32 4 3 (fun x d => decide (x.fmt = d.fmt ∧ x.count' ≠ d.count')) = true ∧
    copyB .fp32 .i32 4 4 (fun x d => decide (x.fmt ≠ d.fmt)) = true ∧
    copyB .bf16 .bf16 4 4 (fun x d => decide (x.fmt = d.fmt ∧ x.fmt ≠ .fp32 ∧ x.fmt ≠ .i32 ∧ x.fmt ≠ .w32)) = true :=
  ⟨ready_of (orderly_of (by decide +kernel)) rfl (by decide +kernel), by decide +kernel⟩
/-- STRM of an input and an output port, of a selector above 12 bits, of a format that is none; GCFG of an image of empty slots,
of a running grid; GSTART of an idle and a configured one. -/
def strm0 : Instr := .strm gd0 1 0 0 0 1 2
def gcfg0 : Instr := .gcfg gd0 1 0 0 0 1
def stStrm (sel : W64) (t : Tag) : State := sdAt (stQ 4 (cmd0 9 strm0 (spA + 0x100) sel)) t 2
def strmB (sel : W64) (t : Tag) (p : Sd → Bool) : Bool :=
  resB (readDst (stStrm sel t) (cmd0 9 strm0 (spA + 0x100) sel) (spA + 0x100)) p
theorem witness_CommandStarts_grid : ReadyCmd (stStrm 0 .bf16) 0 4 (cmd0 9 strm0 (spA + 0x100) 0) ∧ (8192#64).toNat ≥ 8192 ∧
    strmB 0 .bf16 (fun d => strmIn d.fmt && decide (0 < d.count') && passB (stStrm 0 .bf16) (cmd0 9 strm0 0 0) d
      (fun j => [(.engRead, (d.elem j).1, d.size)])) = true ∧
    strmB 16 .fp32 (fun d => strmOut d.fmt && decide (0 < d.count')) = true ∧ strmB 16 .bf16 (fun d => !strmOut d.fmt) = true ∧
    (((stStrm 0 .bf16).grid 0).port 0).streams.length < 4 ∧
    ((stStrm 0 .bf16).grid 0).st ≠ .running ∧ ((stStrm 0 .bf16).grid 0).st ≠ .configured ∧
    (({ st1.grid 0 with st := .running } : Grid).st = .running) :=
  ⟨ready_of (orderly_of (by decide +kernel)) rfl (by decide +kernel), by decide +kernel⟩
/-- A GCFG with its image read already (R114): blocks of 16 slots as given, reg0, reg1 and flag 0. -/
def gcfgBlock (slot : Nat) : List Nat := (List.replicate 16 (leList 4 slot)).flatten ++ leList 64 0
def gcfgBlk (n : Nat) (b : List Nat) : Tab (List Nat) := (List.range n).map (fun m => (128 * m * 2 ^ 20 + 128, b))
def gcfgCmd (slot : Nat) (st : CmdSt) : Cmd := { cmd0 9 gcfg0 0 0 with st := st, blk := gcfgBlk 576 (gcfgBlock slot) }
theorem get_all {α : Type} {t : Tab α} {b : α} {k : Nat} (hv : ∀ e ∈ t, e.2 = b) (hk : ∃ e ∈ t, e.1 = k) : Tab.get? t k = some b := by
  induction t with
  | nil => simp at hk
  | cons e t ih =>
    simp only [Tab.get?]
    split
    · rw [hv e (by simp)]
    · next hn =>
      obtain ⟨x, hx, hxk⟩ := hk
      exact ih (fun e he => hv e (by simp [he])) ⟨x, (List.mem_cons.mp hx).resolve_left (fun h => hn (by rw [← hxk, h])), hxk⟩
theorem blocks_of {s : State} {k : Cmd} {b : List Nat} : ∀ m a, (∀ i < m, Tab.get? k.blk (blkKey (a + u64 (128 * i)) 128) = some b) →
    k.blocks s 128 m a = .ok (List.replicate m b).flatten
  | 0, _, _ => rfl
  | m + 1, a, h => by
    have h0 := h 0 (by omega)
    have hs : ∀ i < m, Tab.get? k.blk (blkKey (a + u64 128 + u64 (128 * i)) 128) = some b := fun i hi => by
      rw [BitVec.add_assoc, show u64 128 + u64 (128 * i) = u64 (128 * (i + 1)) by
        simp only [u64, ← BitVec.ofNat_add]; congr 1; omega]
      exact h (i + 1) (by omega)
    simp only [u64, Nat.mul_zero, BitVec.add_zero] at h0
    simp only [Cmd.blocks, Cmd.block, h0, Res.bind, List.replicate_succ, List.flatten_cons]
    rw [blocks_of m _ hs]
theorem get_blk (n i : Nat) (b : List Nat) (hi : i < n) (hn : n < 2 ^ 57) : Tab.get? (gcfgBlk n b) (blkKey (0#64 + u64 (128 * i)) 128) = some b := by
  refine get_all (fun e he => ?_) ⟨(128 * i * 2 ^ 20 + 128, b), List.mem_map.mpr ⟨i, by simpa using hi, rfl⟩, ?_⟩
  · obtain ⟨m, -, rfl⟩ := List.mem_map.mp he; rfl
  · simp only [blkKey, u64, BitVec.zero_add, BitVec.toNat_ofNat]; omega
theorem gcfg_image (slot : Nat) (st : CmdSt) (s : State) :
    gcfgImage s (gcfgCmd slot st) = .ok (List.replicate 576 (gcfgBlock slot)).flatten := by
  have h : ∀ n, n < 2 ^ 57 → (gcfgBlk n (gcfgBlock slot) = (gcfgCmd slot st).blk) →
      (gcfgCmd slot st).blocks s 128 n 0#64 = .ok (List.replicate n (gcfgBlock slot)).flatten := fun n hn hb =>
    blocks_of n 0#64 (fun i hi => by rw [← hb]; exact get_blk n i _ hi hn)
  have e1 : 9 * (gcfgCmd slot st).elems = 576 := rfl
  have e2 : (gcfgCmd slot st).ga = 0#64 := rfl
  rw [gcfgImage, e1, e2]
  exact h 576 (by omega) (by simp only [gcfgCmd])
theorem image_length (n : Nat) (b : List Nat) : (List.replicate n b).flatten.length = n * b.length := by simp
theorem image_block {b : List Nat} (hb : b.length = 128) : ∀ n i, i < n → (((List.replicate n b).flatten).drop (128 * i)).take 128 = b
  | n + 1, 0, _ => by simp [List.replicate_succ, ← hb]
  | n + 1, i + 1, h => by
    rw [List.replicate_succ, List.flatten_cons, show 128 * (i + 1) = b.length + 128 * i by omega, List.drop_append, List.drop_of_length_le (by omega)]
    simpa using image_block hb n i (by omega)
theorem witness_CommandStarts_gcfg : ReadyCmd (stQ 4 (gcfgCmd 0xF8000000 .queued)) 0 4 (gcfgCmd 0xF8000000 .queued) ∧ (0#64).toNat % 128 = 0 ∧
    (spA + 0x40).toNat % 128 ≠ 0 ∧ ReadyCmd (stQ 4 (gcfgCmd 0xF8000000 .started)) 0 4 (gcfgCmd 0xF8000000 .started) ∧
    (∃ bs, gcfgImage (stQ 4 (gcfgCmd 0xF8000000 .queued)) (gcfgCmd 0xF8000000 .queued) = .ok bs ∧ bs.length = 1152 * 64 ∧
      ∀ i < 64, badBlock 1 1 i ((bs.drop (128 * i)).take 128) = false) ∧
    ∃ bs, gcfgImage (stQ 4 (gcfgCmd 0xFFFFFFFF .queued)) (gcfgCmd 0xFFFFFFFF .queued) = .ok bs ∧
      badBlock 1 1 0 ((bs.drop (128 * 0)).take 128) = true :=
  ⟨ready_of (orderly_of (by decide +kernel)) rfl (by decide +kernel), by decide, by decide +kernel,
    ready_of (orderly_of (by decide +kernel)) rfl (by decide +kernel),
    ⟨_, gcfg_image _ _ _, by rw [image_length, show (gcfgBlock 0xF8000000).length = 128 from rfl], fun i hi => by
      rw [image_block rfl 576 i (by omega)]
      exact (by decide +kernel : ∀ i < 64, badBlock 1 1 i (gcfgBlock 0xF8000000) = false) i hi⟩,
    ⟨_, gcfg_image _ _ _, by rw [image_block rfl 576 0 (by omega)]; decide +kernel⟩⟩
/-- XSEND to package 7, to a group without an entry, from offset 128 on; XFETCH from package 5 to 7, and of a length of 63. -/
def xsend0 : Instr := .xsend gd0 1 0 0 0 1 2 false none
def xfetch0 : Instr := .xfetch gd0 1 0 0 0 1
def stSend (pkg kind : Nat) : State := spPut (sdAt (stQ 3 (cmd0 9 xsend0 (spA + 0x100) (spA + 0x400))) .fp32 20) 0x400
  (leList 2 pkg ++ [kind, 0] ++ leList 4 0 ++ leList 8 0x800)
def stFetchCmd (len : Nat) : State := spPut (stQ 3 (cmd0 9 xfetch0 (spA + 0x400) 0)) 0x400
  (leList 2 5 ++ leList 6 0 ++ leList 8 0x800 ++ leList 8 len ++ leList 2 7 ++ leList 6 0 ++ leList 8 0x900)
def sendB (pkg kind : Nat) (p : Target → Sd → Bool) : Bool :=
  resB (sendPlan (stSend pkg kind) (cmd0 9 xsend0 (spA + 0x100) (spA + 0x400)) false) (fun x => p x.1 x.2)
theorem witness_CommandStarts_fabric : ReadyCmd (stSend 7 0) 0 3 (cmd0 9 xsend0 (spA + 0x100) (spA + 0x400)) ∧ (stSend 7 0).fab.cmds = [] ∧
    sendB 7 2 (fun tg _ => (destinations (stSend 7 2) tg).isNone) = true ∧
    sendB 7 0 (fun tg d => decide (destinations (stSend 7 0) tg = some ([7], 0) ∧ 0 < d.bytes ∧ d.bytes ≤ 128) && passB (stSend 7 0)
      (cmd0 9 xsend0 0 0) d (fun j => [(.engRead, (d.elem j).1, d.size)])) = true ∧
    ReadyCmd (stFetchCmd 64) 0 3 (cmd0 9 xfetch0 (spA + 0x400) 0) ∧
    resB (fetchPlan (stFetchCmd 64) (cmd0 9 xfetch0 (spA + 0x400) 0)) (fun o => decide (destinations (stFetchCmd 64) o.recip = some ([7], 0) ∧
      seqRoom (stFetchCmd 64) 0 [o.source.pkg] = true)) = true ∧
    (match fetchPlan (stFetchCmd 63) (cmd0 9 xfetch0 (spA + 0x400) 0) with
      | .fail c _ _ => decide (c = 0x14 ∧ toFirmware (stFetchCmd 63) (cmd0 9 xfetch0 (spA + 0x400) 0) c = false)
      | _ => false) = true :=
  ⟨ready_of (orderly_of (by decide +kernel)) rfl (by decide +kernel), by decide +kernel, by decide +kernel, by decide +kernel,
    ready_of (orderly_of (by decide +kernel)) rfl (by decide +kernel), by decide +kernel⟩

/-- A command alone in the foreground queue, not started, and on the array with the boundary reached. -/
def stArr (k : Cmd) (cur : Option Nat) : State := st1.modFrag 0 (fun f => { f with q := [(0, [k])], cur := cur })
theorem turn_of' {s : State} {k : Cmd} (h : ReadyCmd s 0 0 k) (h' : decide ((s.frag 0).q = [(0, [k])] ∧ 0 < tickOf s 0 ∧ s.chains = [] ∧
    edgeStuck s 0 = false ∧ s.stops k = false) = true) : ArrayTurn s 0 0 k := by
  obtain ⟨h1, h2, h3, h4⟩ := of_decide_eq_true h'
  exact ⟨by decide, h, h1, h2, by simp [h3], h4⟩
def aclr0 : Instr := .aclr gd0 1 0 0 0 2 false
def wswap0 : Instr := .wswap gd0 1 0 0 0 false
def edge0 : Instr := .edge gd0 1 0 0 0 1 false
def stEdge (k : Cmd) : State := spPut (stArr k none) 0x200 (leList 8 (spA + 0x1000).toNat ++ leList 8 0 ++ [1, Tag.bf16.bits.toNat, 8, 0])
/-- ACLR of two rows, beyond the bank, of a bad operand; EDGE with a block that is good and one that is not. -/
theorem witness_CommandBoundaries_brief : ArrayTurn (stArr (aswapCmd .queued) none) 0 0 (aswapCmd .queued) ∧
    ArrayTurn (stArr (cmd0 9 aclr0 0 0x20001) none) 0 0 (cmd0 9 aclr0 0 0x20001) ∧ (0x20001#64).toNat / 65536 = 2 ∧
    1 + 2 ≤ (st1.frag 0).arows ∧ (st1.frag 0).arows < 4095 + 2 ∧
    ArrayTurn (stArr { cmd0 9 wswap0 0 0 with st := .started } (some 9)) 0 0 { cmd0 9 wswap0 0 0 with st := .started } ∧
    ArrayTurn (stEdge (cmd0 9 edge0 (spA + 0x200) 0)) 0 0 (cmd0 9 edge0 (spA + 0x200) 0) ∧
    resB (readBlock (stEdge (cmd0 9 edge0 (spA + 0x200) 0)) (cmd0 9 edge0 0 0).who .engRead (spA + 0x200) 64) (fun b =>
      decide (fld b 16 1 < 3 ∧ fld b 16 1 ≠ 2 ∧ fld b 18 1 % 8 ≠ 5 ∧ fld b 18 1 % 8 ≠ 6 ∧ fld b 18 1 < 16 ∧ fld b 19 1 = 0 ∧
        zeroFrom b 28 36 = true ∧ tagOf (fld b 17 1) = some .bf16 ∧ fld b 0 8 % 4 = 0 ∧ fld b 8 8 = 0) &&
      resB (readRun (stEdge (cmd0 9 edge0 (spA + 0x200) 0)) (cmd0 9 edge0 0 0).who .engRead 4 128 (u64 (fld b 0 8))) (fun _ => true)) = true :=
  ⟨turn_of' (ready_of (orderly_of (by decide +kernel)) rfl (by decide +kernel)) (by decide +kernel),
    turn_of' (ready_of (orderly_of (by decide +kernel)) rfl (by decide +kernel)) (by decide +kernel), by decide +kernel, by decide +kernel, by decide +kernel,
    turn_of' (ready_of (orderly_of (by decide +kernel)) rfl (by decide +kernel)) (by decide +kernel),
    turn_of' (ready_of (orderly_of (by decide +kernel)) rfl (by decide +kernel)) (by decide +kernel), by decide +kernel⟩
/-- WLOAD of two by two weights; of a format without a geometry, of another geometry, of no rows. -/
def wload0 : Instr := .wload gd0 1 0 0 0 1 2 false
def stWl (k : Cmd) (t : Tag) : State := sdAt (stArr k none) t 4
def wlB (t : Tag) (p : Sd → Bool) : Bool := resB (readSd (stWl (cmd0 9 wload0 (spA + 0x100) 0x20002) t) (cmd0 9 wload0 0 0) (spA + 0x100)) p
theorem witness_CommandBoundaries_weights : ArrayTurn (stWl (cmd0 9 wload0 (spA + 0x100) 0x20002) .bf16) 0 0 (cmd0 9 wload0 (spA + 0x100) 0x20002) ∧
    wlB .bf16 (fun d => decide (geomOf d.fmt = some (st1.frag 0).geom ∧ d.count' = 2 * 2 ∧ sided d.fmt = false) && (List.range 4).all (fun j =>
      resB (readElem (stWl (cmd0 9 wload0 (spA + 0x100) 0x20002) .bf16) (cmd0 9 wload0 0 0) d j) (fun _ => true))) = true ∧
    wlB .fp32 (fun d => (geomOf d.fmt).isNone) = true ∧
    wlB .e4m3 (fun d => decide ((geomOf d.fmt).isSome ∧ geomOf d.fmt ≠ some (st1.frag 0).geom)) = true ∧ (st1.frag 0).kfrag < 129 ∧
    ArrayTurn (stArr { cmd0 9 wload0 0 0 with st := .started, ready := 1 } (some 9)) 0 0 { cmd0 9 wload0 0 0 with st := .started, ready := 1 } :=
  ⟨turn_of' (ready_of (orderly_of (by decide +kernel)) rfl (by decide +kernel)) (by decide +kernel), by decide +kernel, by decide +kernel, by decide +kernel,
    by decide +kernel, turn_of' (ready_of (orderly_of (by decide +kernel)) rfl (by decide +kernel)) (by decide +kernel)⟩
/-- MMA of two rows by a plane of two columns: queued, and with its first row entered. -/
def plane22 : Plane := ⟨true, .bf16, 2, 2, [(0, 0x3F80), (1, 0x4040), (2048, 0x4080), (2049, 0x40A0)], [], [], 5, false⟩
def mma0 (set : Bool) : Instr := .mma gd0 1 0 0 0 1 2 false false false false set
def sd22 : Sd := ⟨spA + 0x1000, .bf16, 0, 0, 0, [(2, 2), (2, 4)]⟩
def stMma (k : Cmd) (cur : Option Nat) (now : Nat) : State := { (spPut (spPut (stArr k cur) 0x100 (sdB (spA + 0x1000) .bf16 [(2, 2), (2, 4)])) 0x1000
  (leList 8 0x3F80400040003F80)).modFrag 0 (fun f => { f with plane0 := plane22, busy := now }) with now := now }
def mmaRun : Cmd := { cmd0 9 (mma0 false) (spA + 0x100) 0 with st := .started, src := some sd22, cast := (0, 2, 2) }
theorem witness_CommandBoundaries_products : ArrayTurn (stMma (cmd0 9 (mma0 true) (spA + 0x100) 0) none 0) 0 0 (cmd0 9 (mma0 true) (spA + 0x100) 0) ∧
    resB (readSd (stMma (cmd0 9 (mma0 true) (spA + 0x100) 0) none 0) (cmd0 9 (mma0 true) 0 0) (spA + 0x100)) (fun d => decide (d = sd22)) = true ∧
    plane22.valid = true ∧ ({ plane22 with valid := false } : Plane).valid = false ∧ (sd22.dims.head?.map (·.1)).getD 0 = plane22.k ∧
    ArrayTurn (stMma mmaRun (some 9) 64) 0 0 mmaRun ∧ mmaRun.prog < rowsEntered (stMma mmaRun (some 9) 64) 0 mmaRun ∧
    (stMma mmaRun (some 9) 64).ecc = [] ∧ resB (readAct (stMma mmaRun (some 9) 64) mmaRun sd22 0 2 2 0) (fun _ => true) = true :=
  ⟨turn_of' (ready_of (orderly_of (by decide +kernel)) rfl (by decide +kernel)) (by decide +kernel), by decide +kernel, rfl, rfl, by decide,
    turn_of' (ready_of (orderly_of (by decide +kernel)) rfl (by decide +kernel)) (by decide +kernel), by decide +kernel, rfl, by decide +kernel⟩
/-- R93: 1 × 1 + 2 × 4 and 1 × 3 + 2 × 5 in BF16, added to zero. -/
theorem test_product : (match exec (.commandCompletion 0 0 9 1) (stMma mmaRun (some 9) 64) with
    | .next t => (Store.get 0 t.accs (accKey t 0 false 0 0), Store.get 0 t.accs (accKey t 0 false 0 1))
    | _ => (0, 0)) = (0x41100000, 0x41500000) := by decide +kernel
/-- ADRAIN of one row, not started, and with its row through the edge unit. -/
def adrain0 : Instr := .adrain gd0 1 0 0 0 1 2 false
def sdRow : Sd := ⟨spA + 0x1000, .fp32, 0, 0, 0, [(128, 4)]⟩
def stDrain (k : Cmd) (cur : Option Nat) (n : Nat) (t : Tag) : State :=
  spPut ((stArr k cur).modFrag 0 (fun f => { f with edge0 := { f.edge0 with ofmt := .fp32 } })) 0x100 (sdB (spA + 0x1000) t [(n, elemBytes t)])
def drainB (n : Nat) (t : Tag) (p : Sd → Bool) : Bool :=
  resB (readDst (stDrain (cmd0 9 adrain0 (spA + 0x100) 0x10000) none n t) (cmd0 9 adrain0 0 0) (spA + 0x100)) p
def drainRun : Cmd := { cmd0 9 adrain0 (spA + 0x100) 0x10000 with st := .started, dsts := [sdRow], cast := (0, 0, 1) }
theorem apart_rows (n o m : Nat) (i j : Nat) (h : i ≠ j) (hn : n ≤ m) : keyAt o m i + n ≤ keyAt o m j ∨ keyAt o m j + n ≤ keyAt o m i := by
  unfold keyAt
  rcases Nat.lt_or_gt_of_ne h with h | h
  · exact .inl (by have := Nat.mul_le_mul_left m (show i + 1 ≤ j from h); rw [Nat.mul_add] at this; omega)
  · exact .inr (by have := Nat.mul_le_mul_left m (show j + 1 ≤ i from h); rw [Nat.mul_add] at this; omega)
theorem witness_CommandBoundaries_drains : ArrayTurn (stDrain (cmd0 9 adrain0 (spA + 0x100) 0x10000) none 128 .fp32) 0 0 (cmd0 9 adrain0 (spA + 0x100) 0x10000) ∧
    drainB 128 .fp32 (fun d => decide (d = sdRow)) = true ∧ drainB 129 .fp32 (fun d => decide (d.count' ≠ 1 * 128)) = true ∧
    drainB 128 .bf16 (fun d => decide (d.count' = 1 * 128 ∧ d.fmt ≠ ((stDrain drainRun none 128 .fp32).frag 0).edge0.ofmt)) = true ∧
    (st1.frag 0).nmax = 128 ∧ (st1.frag 0).arows < 4096 + 1 ∧
    ArrayTurn (stDrain drainRun (some 9) 128 .fp32) 0 0 drainRun ∧ drainRun.ready ≤ (stDrain drainRun (some 9) 128 .fp32).now ∧
    sdRow.four = false ∧ sdRow.dense = true ∧ sdRow.bytes ≤ 2 ^ 30 - 64 ∧ sdRow.count' = 1 * 128 ∧
    ownWrites (stDrain drainRun (some 9) 128 .fp32) drainRun ∧
    StreamAt (stDrain drainRun (some 9) 128 .fp32) drainRun .engWrite sdRow (keyAt 0x1000 4) ∧
    (∀ i j, i ≠ j → elemsApart sdRow sdRow i j (keyAt 0x1000 4 i) (keyAt 0x1000 4 j)) :=
  ⟨turn_of' (ready_of (orderly_of (by decide +kernel)) rfl (by decide +kernel)) (by decide +kernel), by decide +kernel, by decide +kernel, by decide +kernel,
    by decide +kernel, by decide +kernel, turn_of' (ready_of (orderly_of (by decide +kernel)) rfl (by decide +kernel)) (by decide +kernel), by decide,
    by decide, by decide +kernel, by decide, by decide, ⟨rfl, by decide +kernel⟩, stream_of (by decide) (by decide +kernel),
    fun i j h => (apart_rows 4 0x1000 4 i j h (by decide)).elim .inl (fun h => .inr (.inl h))⟩

/-- XCOPY and XRED on their way, their streams apart in the scratchpad. -/
def sd4 (o : W64) : Sd := ⟨spA + o, .fp32, 0, 0, 0, [(4, 4)]⟩
def copyRun (op : Instr) : Cmd := { cmd0 9 op (spA + 0x100) (spA + 0x200) with st := .started, src := some (sd4 0x1000), dsts := [sd4 0x2000] }
def xred0 : Instr := .xred gd0 1 0 0 0 1 2 none
theorem witness_CommandCompletions_copies : ReadyCmd (stQ 2 (copyRun xcopy0)) 0 2 (copyRun xcopy0) ∧ ReadyCmd (stQ 2 (copyRun xred0)) 0 2 (copyRun xred0) ∧
    (stQ 2 (copyRun xcopy0)).ecc = [] ∧ ownWrites (stQ 2 (copyRun xcopy0)) (copyRun xcopy0) ∧ (sd4 0x2000).count' = 4 ∧ 4 * elemBits .fp32 ≤ 8 * 16 ∧
    StreamAt (stQ 2 (copyRun xred0)) (copyRun xred0) .xred (sd4 0x2000) (keyAt 0x2000 4) ∧
    StreamAt (stQ 2 (copyRun xcopy0)) (copyRun xcopy0) .engWrite (sd4 0x2000) (keyAt 0x2000 4) ∧
    StreamAt (stQ 2 (copyRun xcopy0)) (copyRun xcopy0) .engRead (sd4 0x1000) (keyAt 0x1000 4) ∧
    (∀ j < 4, mayDrop (sd4 0x1000) (sd4 0x2000) j = false) ∧
    (∀ i j, i ≠ j → elemsApart (sd4 0x2000) (sd4 0x2000) i j (keyAt 0x2000 4 i) (keyAt 0x2000 4 j)) ∧
    ∀ i < 4, ∀ j < 4, elemsApart (sd4 0x1000) (sd4 0x2000) i j (keyAt 0x1000 4 i) (keyAt 0x2000 4 j) :=
  ⟨ready_of (orderly_of (by decide +kernel)) rfl (by decide +kernel), ready_of (orderly_of (by decide +kernel)) rfl (by decide +kernel), rfl,
    ⟨rfl, by decide +kernel⟩, by decide, by decide, stream_of (by decide) (by decide +kernel), stream_of (by decide) (by decide +kernel),
    stream_of (by decide) (by decide +kernel), by decide +kernel,
    fun i j h => (apart_rows 4 0x2000 4 i j h (by decide)).elim .inl (fun h => .inr (.inl h)),
    fun i hi j hj => .inl (by simp only [keyAt, show (sd4 0x1000).size = 4 by decide, spKey]; omega)⟩
/-- STRM at its first element, behind its last, an output stream with its last token. -/
def strmRun (prog out : Nat) : Cmd := { cmd0 9 strm0 (spA + 0x100) (u64 (16 * out)) with st := .started, src := some (sd4 0x1000), prog := prog, cast := (16 * out, 0, out) }
def stStrmPort (k : Cmd) (toks : List GTok) : State := (stQ 4 k).modGrid 0 (fun g => { g with ports := [(k.cast.1, ⟨toks, [9], none, false⟩)] })
theorem witness_CommandCompletions_grid : ReadyCmd (stStrmPort (strmRun 0 0) []) 0 4 (strmRun 0 0) ∧
    (((stStrmPort (strmRun 0 0) []).grid 0).port 0).streams.head? = some 9 ∧ (((stStrmPort (strmRun 0 0) []).grid 0).port 0).q.length < 16 ∧
    resB (readElem (stStrmPort (strmRun 0 0) []) (strmRun 0 0) (sd4 0x1000) 0) (fun _ => true) = true ∧ (sd4 0x1000).count' ≤ 4 ∧
    ReadyCmd (stStrmPort (strmRun 3 1) [⟨5, false⟩]) 0 4 (strmRun 3 1) ∧ ((stStrmPort (strmRun 3 1) [⟨5, false⟩]).grid 0).port 16 = ⟨[⟨5, false⟩], [9], none, false⟩ ∧
    (3 : Nat) + 1 = (sd4 0x1000).count' ∧ (sd4 0x1000).dense = true ∧ ownWrites (stStrmPort (strmRun 3 1) [⟨5, false⟩]) (strmRun 3 1) ∧
    StreamAt (stStrmPort (strmRun 3 1) [⟨5, false⟩]) (strmRun 3 1) .engWrite (sd4 0x1000) (keyAt 0x1000 4) :=
  ⟨ready_of (orderly_of (by decide +kernel)) rfl (by decide +kernel), by decide +kernel, by decide +kernel, by decide +kernel, by decide,
    ready_of (orderly_of (by decide +kernel)) rfl (by decide +kernel), by decide +kernel, by decide, by decide, ⟨rfl, by decide +kernel⟩,
    stream_of (by decide) (by decide +kernel)⟩
/-- XSEND on its way with its first unit unsent. -/
def tg7 : Target := ⟨0, 7, 0, 0, 0x800⟩
def sendRun : Cmd := { cmd0 9 xsend0 (spA + 0x100) (spA + 0x400) with st := .started, src := some (sd4 0x1000), tgt := some tg7 }
def sendRec : FabCmd := ⟨9, 1, 0, [peerOf tg7 7], false, none, none, 0, [], none, none, false, false, 0, 0, none⟩
def stSending : State := { stQ 3 sendRun with fab := { (stQ 3 sendRun).fab with cmds := [sendRec] } }
theorem witness_CommandCompletions_sends : ReadyCmd stSending 0 3 sendRun ∧ stSending.fab.cmds = [sendRec] ∧ peerOf tg7 7 ∈ sendRec.peers ∧
    (peerOf tg7 7).lost = false ∧ 0 ∉ (peerOf tg7 7).acked ∧ 0 < (sd4 0x1000).bytes ∧ seqRoom stSending 0 [7] = true ∧
    resB (unitBytes stSending sendRun (sd4 0x1000) 0) (fun _ => true) = true :=
  ⟨ready_of (orderly_of (by decide +kernel)) rfl (by decide +kernel), rfl, by decide, rfl, by decide, by decide, by decide +kernel, by decide +kernel⟩

/-- A KWATCH, a ragged MMA that has taken its rows, a port's ring, a chain's ring, a grid in which nothing is left. -/
def stKw : State := withQueue st1 5 [{ cmd0 9 kw spA 1 with st := .started }]
theorem witness_EngineSteps : ∃ k, Orderly stKw ∧ stKw.cmd? 0 5 9 = some k ∧ k.st = .started ∧ k.page = none ∧
    (∃ ls, useLoc stKw k .watch k.ga 8 = .ok ls ∧ Plain ls (spKey 0 0) 8) ∧ st1.chains = [] :=
  ⟨_, orderly_of (by decide +kernel), rfl, rfl, rfl, rem_of (by decide +kernel), rfl⟩
def sdCount : Sd := ⟨spA, .fp32, 1, 0, spA, [(1, 4)]⟩
def stRag : State := st1.modFrag 0 (fun f => { f with cur := some 9, q := [(0, [{ cmd0 9 (.mma gd0 1 0 0 0 1 2 false false true false false) spA spA with st := .started, src := some sdCount }])] })
theorem witness_EngineSteps_ragged : ∃ k, Orderly stRag ∧ stRag.cmd? 0 0 9 = some k ∧ k.st = .started ∧ (stRag.frag 0).cur = some 9 ∧
    (stRag.frag 0).busy ≤ stRag.now ∧ k.cast.2.1 = k.prog ∧ k.ragC = false ∧ k.src = some sdCount ∧
    edgeStuck stRag 0 = false ∧ (match useBlock stRag k .watch sdCount.count 8 with
      | .ok cb => cb.length == 8
      | _ => false) = true := ⟨_, orderly_of (by decide +kernel), rfl, rfl, rfl, by decide, rfl, rfl, rfl, rfl, by decide +kernel⟩
def stRing : State := st1.modFrag 0 (fun f => { f with grid := { Grid.reset with st := .running, ports := [(3, ⟨[], [], some ⟨0, 4096, [⟨1, false⟩], 1⟩, false⟩)] } })
theorem witness_EngineSteps_rings : stRing.stopping (Store.get 0 stRing.occ 0) = false ∧
    (((stRing.grid 0).port 3).ring.map (·.toks)) = some [⟨1, false⟩] ∧ ((stRing.grid 0).port 3).q.length < 16 ∧
    (⟨0, 5, [], false, [], some (0, 4096), [(.fp32, [1])], 512, none⟩ : Chain).fifo.length < 256 := by decide +kernel
def gstart : Cmd := { cmd0 9 (.gstart gd0 1 0 0 0) 0 0 with st := .started }
def stGrid : State := st1.modFrag 0 (fun f => { f with q := [(4, [gstart])], grid := { Grid.reset with st := .running, start := some 9 } })
theorem witness_EngineSteps_grid : Orderly stGrid ∧ (stGrid.grid 0).st = .running ∧ (stGrid.grid 0).elems = [] ∧ (stGrid.grid 0).ports = [] ∧
    (stGrid.grid 0).start = some 9 ∧ stGrid.cmd? 0 4 9 = some gstart ∧ stGrid.stopping (Store.get 0 stGrid.occ 0) = false :=
  ⟨orderly_of (by decide +kernel), rfl, rfl, rfl, rfl, rfl, by decide +kernel⟩

/-- A LAUNCH of a good block and of one that is misaligned; a graph with a node that may start. -/
def stAcc (lpb : W64) : State := { stMem with pend := [{ pend0 9 with lpb := lpb }] }
theorem witness_LaunchesAndGraphs : ∃ p x l, (stAcc 0x100).pend.find? (fun q => q.id == p.id && q.cid == p.cid) = some p ∧ p.child = none ∧
    inputsDone p.ins = true ∧ isCancelled (stAcc 0x100) p.lid = false ∧ (stAcc 0x100).ent? p.lid = some x ∧ x.e < 56 ∧
    p.lid ≠ (stAcc 0x100).nextId ∧ readLpb (stAcc 0x100) (Who.ctl p.ctxid (p.seq / 16)) p.lpb = .ok (.ok l) ∧
    (checkFit (stAcc 0x100) l = none && decide (0 < l.nunits)) = true := by
  obtain ⟨l, h1, h2⟩ := ok_of (p := fun l => checkFit (stAcc 0x100) l = none && decide (0 < l.nunits))
    (r := readLpb (stAcc 0x100) (Who.ctl 1 0) 0x100) (by decide +kernel)
  exact ⟨{ pend0 9 with lpb := 0x100 }, _, l, by decide +kernel, rfl, by decide, by decide +kernel, rfl, by decide +kernel, by decide +kernel, h1, h2⟩
theorem witness_LaunchesAndGraphs_rejected : (∃ st, readLpb (stAcc 0x101) (Who.ctl 1 0) 0x101 = .ok (.error st)) ∧
    (stAcc 0x101).joins = [] ∧ Store.wf Token.reset (stAcc 0x101).cur.k = true := ⟨err_of (by decide +kernel), by decide +kernel⟩
def node (preds : List Nat) (st : NodeSt) : Node := ⟨{ probeLpb with shape := 0 }, preds, st⟩
def stGraph : State := { st1 with ents := Tab.set st1.ents 7 (probeEnt .graph (2 * 2 ^ 60 + 1) (some 2) 1 0), nextId := 9,
                                  graphs := [(7, [node [] .done, node [0] .waiting, node [1] .waiting])] }
theorem witness_LaunchesAndGraphs_graph : ∃ x ns, stGraph.ent? 7 = some x ∧ x.e < 56 ∧ Tab.get? stGraph.graphs 7 = some ns ∧
    ns[1]? = some (node [0] .waiting) ∧ ns[0]? = some (node [] .done) ∧ ns[2]? = some (node [1] .waiting) ∧ isCancelled stGraph 7 = false ∧
    7 ≠ stGraph.nextId ∧ 0 < (node [0] .waiting).lpb.nunits ∧ checkFit stGraph (node [0] .waiting).lpb = none :=
  ⟨_, _, rfl, by decide +kernel, rfl, by decide +kernel⟩
theorem witness_WeightsConserved : ∃ x, ({ st1 with returns := [⟨3, 1, none⟩] } : State).returns[0]? = some ⟨3, 1, none⟩ ∧
    st1.ent? 3 = some x ∧ x.parent ≠ some 3 ∧ x.complete = false ∧ x.e ≤ 56 ∧ cancelPending st1 3 = false := ⟨_, rfl, rfl, by decide +kernel⟩
/-- An exited unit, with an empty and with a masked queue that is not. -/
def exitedU : UnitRec := { probeUnit 3 5 with phase := .exited, cids := [], mask := 0x3F }
def stExited : State := { st1 with units := Tab.set st1.units 4 exitedU, cur := { st1.cur with phase := .absent } }
theorem witness_UnitsEnd : ∃ l, stExited.unit? 4 = some exitedU ∧ stExited.launch? exitedU.lid = some l ∧ l.lpb.shared = false ∧
    l.lpb.replica = false ∧ Store.get 0 stExited.occ 0 = 4 ∧ exitedU.freed = false ∧ stExited.frags.all (fun f => f.2.q.isEmpty) = true ∧
    (withQueue stExited 5 [cmd0 1 kw spA 1]).queue 0 5 ≠ [] ∧ exitedU.mask.getLsbD 5 = true ∧
    (unitsOf stExited exitedU.lid).filter (fun v => v.2.unit == exitedU.unit) = [(4, exitedU)] ∧ stExited.pend = [] ∧
    stExited.units.all (fun v => v.2.image.isNone) = true ∧
    cancelPending stExited exitedU.lid = false ∧ occupied stExited 4 ≠ [] ∧ (4 : Nat) ≠ 0 :=
  ⟨_, rfl, rfl, by decide +kernel⟩
/-- A launch of two units, of which the second is to be placed. -/
def stSel : State := st1.modLaunch 3 (fun l => { l with lpb := { probeLpb with nunits := 2 }, next := 1 })
def selSet : Machine.PlaceSet := ⟨[[⟨none, 1, false, []⟩]]⟩
theorem witness_SelectionAndAgeing : ∃ l e, stSel.launch? 3 = some l ∧ inOrder stSel (selectable stSel) = [(3, l, selSet)] ∧ l.next = 1 ∧
    stSel.ent? 3 = some e ∧ stSel.resv = none ∧ l.lpb.resume = false ∧ l.lpb.shared = false ∧ l.lpb.gang = false ∧ l.slice = none ∧
    freePlacement stSel 3 l selSet = some [1] := ⟨_, _, rfl, by decide +kernel, by decide +kernel, rfl, by decide +kernel⟩
theorem witness_SelectionAndAgeing_ageing : ∃ l, stSel.launch? 3 = some l ∧ isReady stSel 3 l = true ∧
    stSel.now < l.wbase + (l.wsteps + 1) * 144000000 ∧
    l.wbase + (l.wsteps + 1) * 144000000 ≤ ({ stSel with now := 144000000 } : State).now := ⟨_, rfl, by decide +kernel⟩
/-- One free origin; none on a die that is ruled out; two units of a set. -/
theorem witness_SelectionAndAgeing_origins : ∃ l, stSel.launch? 3 = some l ∧ overNfrag stSel 3 l ⟨[[⟨none, 1, false, []⟩]]⟩ = false ∧
    freePlacement stSel 3 l ⟨[[⟨none, 1, false, []⟩]]⟩ = some [1] ∧ freePlacement stSel 3 l ⟨[[⟨none, 1, false, List.range 12⟩]]⟩ = none ∧
    freePlacement stSel 3 l ⟨[[⟨none, 1, false, []⟩], [⟨none, 2, false, []⟩]]⟩ = some [1, 2] := ⟨_, rfl, by decide +kernel⟩
/-- The two grounds for full pre-emption, with room for the image (R54, R70). -/
def stSave (u : UnitRec) (w : WaitKind) (now : Nat) : State := { st1 with
  units := Tab.set st1.units 4 u, jobs := Tab.set st1.jobs 1 ⟨1, 0, 0, true, 0x100, 0, 0x10000, 2 ^ 40, [], false⟩, now := now,
  cur := { st1.cur with wait := w }, launches := stSel.launches }
theorem witness_UnitsArePreempted : ∃ u l, (stSave (probeUnit 3 5) .quantum 3600001).unit? 4 = some u ∧
    (stSave (probeUnit 3 5) .quantum 3600001).launch? u.lid = some l ∧ (stSave (probeUnit 3 5) .quantum 3600001).chains = [] ∧
    l.lpb.gang = false ∧ l.lpb.shared = false ∧ u.cids = [5] ∧ u.phase = .running ∧
    (takeRoom (stSave (probeUnit 3 5) .quantum 3600001) 4 (imageBytes (stSave (probeUnit 3 5) .quantum 3600001) u)).isSome = true ∧
    (stSave (probeUnit 3 5) .quantum 3600001).cur.since + 3600000 < (stSave (probeUnit 3 5) .quantum 3600001).now ∧
    ownQueued (stSave (probeUnit 3 5) .quantum 3600001) u.lid = true ∧ st1.now ≤ st1.cur.since + 3600000 :=
  ⟨_, _, rfl, rfl, rfl, by decide +kernel⟩
/-- A gang of two units that have waited, a later launch of higher priority queued for their die; and in its yield window. -/
def stGangWait : State :=
  let s := stSave (probeUnit 3 5) .quantum 3600001
  let t := ({ s with units := Tab.set s.units 9 { probeUnit 3 8 with seq := 5, arr := 5, unit := 1 },
                     others := [{ s.cur with cid := 8, uid := 9, seq := 5, arr := 5 }] } : State).modLaunch 3 (fun l =>
    { l with lpb := { l.lpb with gang := true, nunits := 2 }, next := 2 })
  { t with ents := t.ents ++ t.ents.map (fun e => (e.1 + 20, { e.2 with handle := e.2.handle + 100 })),
           launches := t.launches ++ stSel.launches.map (fun l => (l.1 + 20, { l.2 with next := 0, placed := 0, order := 9, eff := 3 })) }
def stGangWindow : State := { stGangWait with
  units := stGangWait.units.map (fun u => (u.1, { u.2 with phase := .window, deadline := 5 })), cur := { stGangWait.cur with wait := .none },
  others := stGangWait.others.map (fun c => { c with wait := .none }) }
theorem witness_UnitsArePreempted_groups : ∃ l, stGangWait.launch? 3 = some l ∧ l.lpb.gang = true ∧ victimGroup stGangWait 4 = [4, 9] ∧
    (∀ e ∈ stGangWait.units, waitedLong stGangWait e.2 = true ∧ e.2.phase = .running) ∧ queuedFor stGangWait 3 l.eff 0 ≠ [] ∧
    (stopAll stGangWait [4, 9]).isSome = true ∧ victimGroup stGangWindow 4 = [4, 9] ∧ (stopAll stGangWindow [4, 9]).isSome = true ∧
    (∀ e ∈ stGangWindow.units, e.2.phase = .window ∧ yielding stGangWindow e.2 = false ∧ e.2.deadline ≤ stGangWindow.now) :=
  ⟨_, rfl, by decide +kernel⟩
def windowU : UnitRec := { probeUnit 3 5 with phase := .window, deadline := 100 }
theorem witness_UnitsArePreempted_window : (stSave windowU .none 100).unit? 4 = some windowU ∧ windowU.deadline ≤ (stSave windowU .none 100).now ∧
    (stSave windowU .none 100).cur.wait ≠ .begun ∧ (stSave windowU .none 100).cur.phase = .running ∧
    (takeRoom (stSave windowU .none 100) 4 (imageBytes (stSave windowU .none 100) windowU)).isSome = true ∧
    (stSave windowU .none 99).now < windowU.deadline := ⟨rfl, by decide +kernel⟩
/-- A stopped unit, one whose yield image is written, one whose image is read back. -/
def yieldImg : Image := ⟨0x8000, 80, some 2, 0, false, 0, 0, [], [], []⟩
def stImg (ph : UPhase) : State := { st1 with
  units := Tab.set st1.units 4 { probeUnit 3 5 with phase := ph, image := some yieldImg, space := some (0x8000, 4096) },
  cur := { st1.cur with phase := .stopped } }
theorem witness_ImagesWrittenAndRead : ∃ u, (stImg .quiescing).unit? 4 = some u ∧ u.phase = .quiescing ∧
    (stImg .quiescing).chains = [] ∧ (stImg .quiescing).cur.wc = [] ∧ (stImg .quiescing).cur.vec = none ∧ (stImg .quiescing).others = [] ∧
    ({ u with image := none } : UnitRec).image = none ∧ (stImg .quiescing).ctx? 5 = some (stImg .quiescing).cur ∧ (stImg .quiescing).frags.all (fun e => e.2.q.isEmpty) = true :=
  ⟨_, rfl, rfl, rfl, by decide +kernel⟩
def putB (r : Res State) : Bool := match r with
  | .ok _ => true
  | _ => false
theorem witness_ImagesWrittenAndRead_write : ∃ u, (stImg .writing).unit? 4 = some u ∧ u.phase = .writing ∧ u.image = some yieldImg ∧
    yieldImg.yieldN.isSome = true ∧ u.space = some (0x8000, 4096) ∧
    putB (put (mordant (stImg .writing) u) (stImg .writing) 0x8000 (yieldBytes (stImg .writing) u (stImg .writing).cur 2 80)) = true :=
  ⟨_, rfl, rfl, rfl, rfl, rfl, by decide +kernel⟩
theorem witness_ImagesWrittenAndRead_read : ∃ u, (stImg .reading).units.find? (fun v => v.2.phase == .reading && v.2.cids.contains 5) = some (4, u) ∧
    u.image = some yieldImg ∧ yieldImg.yieldN = some 2 ∧ ((stImg .reading).launch? u.lid).isSome = true ∧
    ((stImg .reading).ent? u.lid).isSome = true ∧
    (match readRun (stImg .reading) (mordant (stImg .reading) u) .engRead 8 10 0x8000 with
      | .ok bs => bs.length == 80
      | _ => false) = true := ⟨_, rfl, rfl, rfl, by decide +kernel⟩
/-- A tenure of 64 commands, and one of 100 µs (R73); a shorter one. -/
def stTenure (n now : Nat) : State := { st1.modFrag 0 (fun f => { f with holder := some 5, reqs := [8, 9], tcount := n }) with now := now }
theorem witness_TenureAndCancel : ((stTenure 64 0).frag 0).holder = some 5 ∧ ((stTenure 64 0).frag 0).reqs = [8, 9] ∧
    64 ≤ ((stTenure 64 0).frag 0).tcount ∧ ((stTenure 63 7200000).frag 0).tstart + 7200000 ≤ (stTenure 63 7200000).now ∧
    ((stTenure 64 0).frag 0).queue 0 ++ ((stTenure 64 0).frag 0).queue 1 = [] ∧ (5 : Nat) ≠ 8 ∧ ((stTenure 63 7199999).frag 0).tcount < 64 ∧
    (stTenure 63 7199999).now < ((stTenure 63 7199999).frag 0).tstart + 7200000 := by decide +kernel
/-- A cancel of a launch with nothing placed, and of what is over. -/
def stCancel : State := { stSel with
  cancels := [⟨3⟩, ⟨77⟩], units := [], launches := Tab.set stSel.launches 3 ⟨probeLpb, 16, 3, 0, 0, none, 0, 0, 0, none, 0, [], [], none, none, 0⟩ }
theorem witness_TenureAndCancel_cancel : ∃ e l, stCancel.cancels[0]? = some ⟨3⟩ ∧ stCancel.cancels[1]? = some ⟨77⟩ ∧ beneath stCancel 77 = [] ∧
    beneath stCancel 3 = [3] ∧ stCancel.ent? 3 = some e ∧ e.level = .launch ∧ e.closed = false ∧ e.parent ≠ some 3 ∧
    stCancel.launch? 3 = some l ∧ stCancel.pend = [] ∧ unitsOf stCancel 3 = [] ∧ l.next ≤ l.lpb.nunits ∧ l.done = l.next :=
  ⟨_, _, rfl, rfl, by decide +kernel, by decide +kernel, rfl, rfl, rfl, by decide, rfl, by decide +kernel⟩

/- Slices and the fabric -/

/-- A header of another package's die 0 in incarnation 0, answering this package's command 9. -/
def hdr9 : FHdr := ⟨7, 0, 0, 7, 0, 1, 9, 5, 0⟩
theorem comes1 : Comes st1 0 hdr9 := ⟨by decide, rfl, by decide +kernel, by decide +kernel⟩
/-- A slice part at its coordinator (package 0 of 0 and 7) before any report; with a hold and GO; abandoned; at a member. -/
def slice0 : Slice := ⟨5, 1000000, [0, 7], false, [], [], 0, false, false, 0⟩
def stSlice (pkg : Nat) (sl : Slice) (now : Nat) : State := { st1 with
  pkg := pkg, now := now, fab := { st1.fab with valid := true },
  launches := Tab.set st1.launches 3 ⟨{ probeLpb with gang := true }, 16, 3, 0, 0, none, 0, 0, 0, none, 0, [], [], some sl, none, 0⟩ }
def slT (ns : Nat) : Nat := ns * 72
theorem witness_SlicesStartTogether : ∃ l, (stSlice 0 slice0 0).launch? 3 = some l ∧ l.slice = some slice0 ∧
    partOf (stSlice 0 slice0 0) 5 = some (3, l, slice0) ∧ slice0.decided = false ∧ fabricReached (stSlice 0 slice0 0) (1000000 - 20000) = false ∧
    fabricReached (stSlice 0 slice0 (slT 980000)) (1000000 - 20000) = true ∧ slice0.reported = false ∧
    coordinator slice0 = 0 ∧ 0 ∈ slice0.members ∧ 0 ∉ slice0.readies ∧ coordinator slice0 ≠ (stSlice 7 slice0 0).pkg ∧
    7 ∈ slice0.members ∧ 7 ∉ slice0.readies ∧ (∃ m ∈ slice0.members, m ∉ slice0.readies) ∧
    appliedBefore (stSlice 0 slice0 0) hdr9 = false ∧ fabricReached (stSlice 0 slice0 (slT 990000)) (1000000 - 10000) = true ∧
    fabricReached (stSlice 0 slice0 (slT 989999)) (1000000 - 10000) = false ∧ fabricReached (stSlice 0 slice0 (slT 990000)) 1000000 = false :=
  ⟨_, rfl, rfl, by decide +kernel⟩
theorem witness_SlicesStartTogether_comes : Comes (stSlice 0 slice0 0) 15 hdr9 ∧ Comes (stSlice 8 slice0 0) 15 { hdr9 with srcPkg := 0 } ∧
    coordinator slice0 = ({ hdr9 with srcPkg := 0 } : FHdr).srcPkg ∧
    (∀ m ∈ slice0.members, m ∈ ({ slice0 with readies := [0, 7] } : Slice).readies) ∧ ({ slice0 with lost := [7] } : Slice).lost ≠ [] :=
  ⟨⟨by decide, rfl, by decide +kernel⟩, ⟨by decide, rfl, by decide +kernel⟩, by decide +kernel⟩
/-- Fabric time that is not valid at a member (R208). -/
theorem witness_SlicesStartTogether_invalid : ∃ l, ({ stSlice 7 slice0 0 with fab := st1.fab } : State).launch? 3 = some l ∧
    l.slice = some slice0 ∧ ({ stSlice 7 slice0 0 with fab := st1.fab } : State).fab.valid = false ∧
    coordinator slice0 ≠ ({ stSlice 7 slice0 0 with fab := st1.fab } : State).pkg := ⟨_, rfl, rfl, rfl, by decide +kernel⟩
def stGo (now : Nat) : State := { stSlice 0 { slice0 with decision := 1, decided := true } now with holds := [⟨3, [5], []⟩] }
theorem witness_SlicesStartTogether_start : ∃ l p, (stGo (slT 1000000)).launch? 3 = some l ∧ l.lpb.gang = true ∧ l.lpb.shared = false ∧
    l.lpb.resume = false ∧ l.next < l.lpb.nunits ∧ (stGo (slT 1000000)).holds.find? (fun x => x.lid == 3) = some ⟨3, [5], []⟩ ∧
    placementSet (stGo (slT 1000000)) 3 l = some p ∧ resvSpots l ⟨3, [5], []⟩ = [5] ∧
    ((stGo (slT 1000000)).die (5 / 16)).resetAt = none ∧ fabricReached (stGo (slT 1000000)) 1000000 = true ∧
    fabricReached (stGo (slT 999999)) 1000000 = false ∧ coordinator slice0 = (stGo 0).pkg :=
  ⟨_, _, rfl, rfl, rfl, rfl, by decide +kernel, rfl, rfl, by decide +kernel⟩
/-- The barrier of a gang of one unit in each package. -/
theorem witness_LeasesAndBarriers_gang : ∃ l, (stSlice 0 slice0 0).launch? 3 = some l ∧ homeOf (stSlice 0 slice0 0) 5 = some (3, l) ∧
    l.slice = some slice0 ∧ coordinator slice0 = 0 ∧ 7 ∈ slice0.members ∧ appliedBefore (stSlice 0 slice0 0) hdr9 = false :=
  ⟨_, rfl, by decide +kernel⟩
theorem witness_LeasesAndBarriers_gang_counts : ∃ l m, (stSlice 0 { slice0 with total := 2 } 0).launch? 3 = some l ∧
    (Store.get Barrier.reset l.gbars 15).count + 1 < gangParts l ∧ (stSlice 0 { slice0 with total := 1 } 0).launch? 3 = some m ∧
    0 < gangParts m ∧ gangParts m ≤ (Store.get Barrier.reset m.gbars 15).count + 1 := ⟨_, _, rfl, by decide +kernel, rfl, by decide +kernel⟩
/-- An arrival in the open generation, in one that is over; a leave that completes nothing. -/
theorem witness_LeasesAndBarriers_gang_generations : ∃ l, (stSlice 0 { slice0 with total := 2 } 0).launch? 3 = some l ∧
    hdr9.cmd ≠ (Store.get Barrier.reset l.gbars 15).gen % 128 ∧ ({ hdr9 with cmd := 0 } : FHdr).cmd = (Store.get Barrier.reset l.gbars 15).gen % 128 ∧
    (∀ i < 16, (Store.get Barrier.reset l.gbars i).count < gangParts l - 1) ∧ Comes (stSlice 0 { slice0 with total := 2 } 0) 15 { hdr9 with cmd := 0 } :=
  ⟨_, rfl, by decide +kernel, by decide +kernel, by decide +kernel, by decide, rfl, by decide +kernel⟩
/-- A FAT entry with every right for context 1 of package 7 (R194), and one without LAND. -/
def stFat (rights : BitVec 8) : State := { st1 with fab := { st1.fab with fat := [(0, ⟨0, 0x10000, 7, 1, 1, rights⟩)] } }
def vaT : Target := ⟨0, 0, 0, 0, 0x40⟩
def failB {α : Type} (r : Res α) : Bool := match r with
  | .fail _ _ _ => true
  | _ => false
theorem fail_of {α : Type} {r : Res α} (h : failB r = true) : ∃ c a d, r = .fail c a d := by
  unfold failB at h
  split at h
  · exact ⟨_, _, _, rfl⟩
  · cases h
theorem witness_RemoteWrites : hdr9.srcPkg ≠ (stFat 0x8F).pkg ∧ (stFat 0x8F).fab.portsUp = true ∧ staleSrc (stFat 0x8F) 0 hdr9 = false ∧
    ordEarly (stFat 0x8F) hdr9 0 none = false ∧ ordEarly (stFat 0x8F) hdr9 64 (some 0) = true ∧ ordEarly (stFat 0x8F) hdr9 0 (some 0) = false ∧
    groupOk (noteInc (stFat 0x8F) 0 hdr9) vaT hdr9 = true ∧ appliedBefore (stFat 0x8F) hdr9 = false ∧
    (∃ ls, remoteLocs (noteInc (stFat 0x8F) 0 hdr9) 0 hdr9 rWr .engWrite vaT 0 4 = .ok ls ∧ Plain ls (dramKey 0 0x30040) 4) ∧
    (∃ ls, remoteLocs (noteInc (stFat 0x8F) 0 hdr9) 0 hdr9 rAdd .counter vaT 0 4 = .ok ls ∧ Plain ls (dramKey 0 0x30040) 4) ∧
    ∃ c a d, remoteLocs (noteInc (stFat 0x8B) 0 hdr9) 0 hdr9 rWr .engWrite vaT 0 4 = .fail c a d :=
  ⟨by decide, rfl, by decide +kernel, by decide +kernel, by decide +kernel, by decide +kernel, by decide +kernel, by decide +kernel, rem_of (by decide +kernel),
    rem_of (by decide +kernel), fail_of (by decide +kernel)⟩
/-- Two packets of different panes in port 1 of die 0, of which pane 0 was served last. -/
def outP (frag : Nat) : OutPkt := ⟨⟨7, hdr9, .stop⟩, 0, frag, none, 0, 0⟩
def stPort : State := st1.modPort 0 1 (fun _ => ⟨[outP 0, outP 5, outP 0], 0, 0⟩)
theorem witness_RemoteWrites_ports : stPort.fab.portsUp = true ∧ (stPort.die 0).resetAt = none ∧ (outP 5).pkt.dst < 4096 ∧ (4 : Nat) < 17 ∧
    (stPort.port 0 1).q = [outP 0] ++ outP 5 :: [outP 0] ∧ (outP 5).frag = ((stPort.port 0 1).turn + 1 + 4) % 17 ∧
    (∀ x ∈ [outP 0], x.frag ≠ (outP 5).frag) ∧
    (∀ j < 4, ∀ x ∈ (stPort.port 0 1).q, x.frag ≠ ((stPort.port 0 1).turn + 1 + j) % 17) := by decide +kernel
/-- R190: the fewest queued flits, on a tie the lowest number. -/
theorem test_port_choice : choosePort st1 0 = 0 ∧ choosePort (st1.send ⟨7, hdr9, .stop⟩) 0 = 1 := by
  refine ⟨by decide +kernel, ?_⟩
  have h0 : ((st1.send ⟨7, hdr9, .stop⟩).port 0 0).q = [⟨⟨7, hdr9, .stop⟩, 0, 16, none, 0, 0⟩] := by decide +kernel
  have h1 : ((st1.send ⟨7, hdr9, .stop⟩).port 0 1).q = [] ∧ ((st1.send ⟨7, hdr9, .stop⟩).port 0 2).q = [] := by decide +kernel
  simp [choosePort, Port.flits, h0, h1, flitsOf]
/-- A stale incarnation, a sequence number seen before, a group that this package is not in. -/
def stFab (peer : Tab Nat) (applied : Tab (List Nat)) : State := { st1 with fab := { st1.fab with peerInc := peer, applied := applied } }
theorem witness_RemoteWrites_refused : staleSrc (stFab [(112, 3)] []) 0 hdr9 = true ∧ appliedBefore (stFab [] [(112, [5])]) hdr9 = true ∧
    staleSrc (stFab [] [(112, [5])]) 0 hdr9 = false ∧ groupOk (noteInc st1 0 hdr9) ⟨2, 4, 0, 0, 0⟩ hdr9 = false := by decide +kernel
def order0 : FetchOrder := ⟨vaT, 65, ⟨0, 7, 0, 0, 0x40⟩, 0, 0, false⟩
def stResp (pos : Nat) : State := { stFat 0x8F with fab := { (stFat 0x8F).fab with resps := [⟨0, hdr9, order0, pos, none⟩] } }
theorem witness_FetchesLand : Comes (stFat 0x8F) 0 hdr9 ∧ appliedBefore (stFat 0x8F) hdr9 = false ∧ (stFat 0x8F).fab.resps = [] ∧
    0 ≤ order0.resume ∧ order0.resume < order0.length ∧
    (stResp 64).fab.resps.find? (fun x => x.hdr == hdr9) = some ⟨0, hdr9, order0, 64, none⟩ ∧ (stResp 0).fab.resps.find? (fun x => sameReq x.hdr hdr9) = some ⟨0, hdr9, order0, 0, none⟩ ∧
    Comes (stResp 0) 0 hdr9 ∧ min 64 (order0.length - 64) = 1 :=
  ⟨⟨by decide, rfl, by decide +kernel⟩, by decide +kernel, rfl, by decide, by decide, by decide +kernel, by decide +kernel,
    ⟨by decide, rfl, by decide +kernel⟩, by decide⟩
theorem witness_FetchesLand_units :
    (∃ ls, remoteLocs { stResp 64 with fab := { (stResp 64).fab with resps := [] } } 0 hdr9 rRd .engRead vaT 64 1 = .ok ls ∧ Plain ls (dramKey 0 0x30080) 1) ∧
    (∃ ls, remoteLocs (noteInc (stFat 0x8F) 0 hdr9) 0 hdr9 rLand .engWrite vaT 64 1 = .ok ls ∧ Plain ls (dramKey 0 0x30080) 1) ∧
    (∃ c a d, remoteLocs (noteInc (stFat 0x8D) 0 hdr9) 0 hdr9 rLand .engWrite vaT 64 1 = .fail c a d) ∧
    (∃ ls, remoteLocs (noteInc (stFat 0x8F) 0 hdr9) 0 hdr9 rLand .counter ⟨0, 0, 0, 0, 0x40⟩ 0 8 = .ok ls ∧ Plain ls (dramKey 0 0x30040) 8) ∧
    (recipOf (noteInc (stFat 0x8D) 0 hdr9) 0 hdr9).refused = [] ∧ groupOk (noteInc (stFat 0x8F) 0 hdr9) order0.recip hdr9 = true ∧ order0.ord = false :=
  ⟨rem_of (by decide +kernel), rem_of (by decide +kernel), fail_of (by decide +kernel), rem_of (by decide +kernel), by decide +kernel⟩
/-- A report on nothing, one on a unit that landed, one on a unit still to come. -/
theorem witness_FetchesLand_report : settledBelow ⟨hdr9, 0, none, [0], [], false, some (0, 64)⟩ 64 2 0 = true ∧
    settledBelow ⟨hdr9, 0, none, [], [], false, some (0, 0)⟩ 0 1 0 = true ∧ settledBelow ⟨hdr9, 0, none, [0], [], false, some (0, 65)⟩ 65 2 0 = false := by decide
/-- An XSEND with one unit unanswered at its last answer; one with another still open; a fetch at END, LANDED, COMMITTED. -/
def hdrR : FHdr := ⟨7, 0, 0, 0, 0, 1, 9, 5, 0⟩
def peer0 (acked : List Nat) (landed : Option Nat) : Peer := ⟨7, none, acked, [], landed, false, false, false⟩
def fabC (p : Peer) (o : Option FetchOrder) (sent : List Nat) (endOff : Option Nat) (commit : Bool) : FabCmd :=
  ⟨9, 1, 0, [p], false, o, if o.isSome then some (7, none) else none, 0, sent, endOff, none, commit, false, 0, 0, none⟩
def sendCmd : Cmd := { cmd0 9 (.xsend gd0 1 0 0 0 1 2 false none) 0 0 with st := .started, prog := 16, src := some { sdCount with flags := 0 } }
def stReply (c : FabCmd) : State := { withQueue st1 3 [sendCmd] with fab := { st1.fab with cmds := [c] } }
theorem witness_FabricReplies : ∀ c ∈ [fabC (peer0 [0] none) none [0, 64] none false, fabC (peer0 [] none) none [0, 64] none false],
    Orderly (stReply c) ∧ (stReply c).fab.cmds = [c] ∧ c.id = hdrR.cmd ∧ c.order = none ∧ c.nak = none ∧
    fabHome (stReply c) c.id = some (0, sendCmd) ∧ sendCmd.id = c.id ∧ c.id ≠ 0 := by unfold Orderly; decide +kernel
theorem witness_FabricReplies_comes : Comes (stReply (fabC (peer0 [0] none) none [0, 64] none false)) 0 hdrR ∧ hdrR.reqPkg = st1.pkg ∧
    (peer0 [0] none).pkg = hdrR.srcPkg ∧ sendCmd.src = some { sdCount with flags := 0 } ∧ ({ sdCount with flags := 0 } : Sd).bytes ≤ sendCmd.prog ∧
    (∀ u ∈ [0, 64], u = 64 ∨ u ∈ (peer0 [0] none).acked) ∧ (0 ∈ [0, 64] ∧ 0 ≠ 64 ∧ 0 ∉ (peer0 [] none).acked ∧ 0 ∉ (peer0 [] none).naked) :=
  ⟨⟨by decide, rfl, by decide +kernel⟩, rfl, rfl, rfl, by decide +kernel⟩
theorem witness_FabricReplies_fetch : (∀ p ∈ [(fabC (peer0 [] none) (some order0) [] none false, none), (fabC (peer0 [] none) (some order0) [] (some 65) false, none),
      (fabC (peer0 [] (some 65)) (some { order0 with landing := 0x40 }) [] (some 65) true, some 65)],
    Orderly (stReply p.1) ∧ p.1.order.isSome = true ∧ p.1.nak = none ∧ p.1.owner = some (hdrR.srcPkg, none) ∧ p.1.report = false ∧
    p.1.peers.map (·.landed) = [p.2]) ∧ order0.landing = 0 := by unfold Orderly; decide +kernel
theorem witness_FabricReplies_timeout : (stPort.port 0 1).head? stPort = some (outP 5) ∧ (outP 5).drops < 8 ∧
    stPort.now < (stPort.port 0 1).at' + 7200000 ∧ (stPort.port 0 1).at' + 7200000 ≤ ({ stPort with now := 7200000 } : State).now ∧
    (outP 5).pkt.hdr.inc = (stPort.die (outP 5).pkt.hdr.srcDie).inc ∧ (servePort stPort 0 1).fab.out = [outP 5] := by decide +kernel
/-- The gateway that takes the reply; an owner's refusal below the end; a part landed. -/
theorem witness_FabricReplies_gate : replyGate (stReply (fabC (peer0 [0] none) none [0, 64] none false)) hdrR = 0 ∧ (0 : Nat) < 65 ∧
    (fabC (peer0 [] none) (some order0) [] (some 65) false).endOff = some 65 ∧ (peer0 [] none).landed = none ∧ 5 < order0.length ∧
    order0.resume < order0.length ∧ ({ order0 with landing := 0x40 } : FetchOrder).landing ≠ 0 := by decide +kernel
/-- A send with an open unit to a die that is lost. -/
theorem witness_LossesElsewhere : (7 : Nat) ≠ st1.pkg ∧ st1.fab.portsUp = true ∧ (0 : Nat) < 16 ∧
    ((stReply (fabC (peer0 [0] none) none [0, 64] none false)).fab.cmds.map (·.id)).Nodup ∧
    (∃ u ∈ [0, 64], u ∉ (peer0 [0] none).acked) := by decide +kernel
/-- A party that is lost beside one that has answered and one that has not; a fetch whose owner is lost. -/
def peer8 (acked : List Nat) : Peer := ⟨8, none, acked, [], none, false, false, false⟩
def sendTo (ps : List Peer) : FabCmd := { fabC (peer0 [] none) none [0, 64] none false with peers := ps }
def fetchFrom7 : FabCmd := { fabC (peer0 [] none) (some order0) [] none false with peers := [{ peer8 [] with landed := some 3 }] }
theorem witness_LossesElsewhere_ends : ∀ c ∈ [sendTo [peer0 [] none], sendTo [peer0 [] none, peer8 [0, 64]], sendTo [peer0 [] none, peer8 []], fetchFrom7],
    Orderly (stReply c) ∧ (stReply c).fab.cmds = [c] ∧ fabHome (stReply c) c.id = some (0, sendCmd) ∧ sendCmd.id = c.id ∧ c.id ≠ 0 ∧ c.nak = none ∧
    ((∃ p ∈ c.peers, p.pkg = 7) ∨ c.owner = some (7, none)) ∧ (∀ e ∈ (stReply c).ents, Store.get 0 e.2.lent 7 = 0) ∧
    ∀ e ∈ (stReply c).launches, e.2.slice = none := by unfold Orderly; decide +kernel
theorem witness_LossesElsewhere_told : (∀ u ∈ [0, 64], u ∈ (peer8 [0, 64]).acked) ∧ ¬ (∀ u ∈ [0, 64], u ∈ (peer8 []).acked ∨ u ∈ (peer8 []).naked) ∧
    fetchFrom7.order ≠ none ∧ fetchFrom7.commit = false ∧ (∀ p ∈ fetchFrom7.peers, p.landed.isSome = true) := by decide
/-- Links, clocks and hosts. -/
theorem witness_ClocksLinksHosts : st1.fab.portsUp = true ∧ st1.fab.valid = false ∧ isDie 0 = true ∧ isDie 1 = true ∧ (st1.link 0 1).window = none ∧
    (st1.link 0 1).last = none ∧ (({ st1 with links := [(1, ⟨some 5, some 3⟩)] } : State).link 0 1).window = some 5 ∧
    (({ st1 with links := [(1, ⟨none, some 3⟩)] } : State).link 0 1).last = some 3 ∧ st1.now < 3 + 7200000 ∧ st1.boot.powered = true ∧
    heldBy st1 15 0 = false ∧ 0 + 8 ≤ dieBytes := by decide +kernel
theorem witness_ClocksLinksHosts_clock : 0 < (st1.die 0).tpc ∧ (32 : Nat) ≤ 40 ∧ (∀ c ∈ st1.chains, c.flight = []) ∧
    (∀ e ∈ st1.frags, e.2.cur = none) ∧ st1.now < ((st1.modFrag 0 (fun f => { f with busy := st1.now + 90 })).frag 0).busy := by decide +kernel
theorem witness_ClocksLinksHosts_ports : st1.boot.powered = true ∧ ({ Fabric.reset with portsUp := false, portsAt := 7 } : Fabric).portsUp = false ∧
    14400006 < ({ Fabric.reset with portsUp := false, portsAt := 7 } : Fabric).portsAt + 14400000 ∧
    ({ Fabric.reset with portsUp := false, portsAt := 7 } : Fabric).portsAt + 14400000 ≤ 14400007 := by decide +kernel

/- Ownership, queues, mailbox, resets -/

/-- Master 1 as owner with a successor recorded, and another master. -/
def stOwn : State := { st1 with own := ⟨1, 5, some (0, 6), 0⟩ }
theorem witness_Ownership : isMaster st1 1 = true ∧ st1.own.owner = 0xFFFF ∧ stOwn.own.owner = 1 ∧ stOwn.own.pending = some (0, 6) ∧
    isMaster stOwn 0 = true ∧ stOwn.own.owner ≠ 0 ∧ stOwn.own.pending ≠ some (1, 6) ∧ isMaster { st1 with boot := { st1.boot with powered := false } } 1 = false := by decide +kernel
def queueOf (f : HQueue → HQueue) : State := stOwn.modHq 0 (fun h => f { h with qcfg := u64 (2 ^ 32 + 3), qbase := 0x8000 })
theorem witness_QueueRegisters : isMaster (queueOf id) 1 = true ∧ isOwner (queueOf id) 1 = true ∧ isMaster (queueOf id) 0 = true ∧ isOwner (queueOf id) 0 = false ∧
    ((queueOf id).hq 0).st = .idle ∧ (0x40#64).toNat % 2 ^ 63 % 64 = 0 ∧ qSize ((queueOf id).hq 0) = 8 ∧
    ((queueOf id).hq 0).efftail ≤ 8 ∧ 8 ≤ ((queueOf id).hq 0).head.toNat + 8 ∧ ¬ 9 ≤ ((queueOf id).hq 0).head.toNat + 8 := by decide +kernel
theorem witness_QueueRegisters_phases : ∃ j x, (queueOf id).job? (qCtx ((queueOf id).hq 0)) = some j ∧ j.closing = false ∧
    (queueOf id).ent? j.ent = some x ∧ x.e < 56 ∧ stOwn.job? (qCtx (stOwn.hq 1)) = none ∧
    ((queueOf (fun h => { h with st := .run, phase := some 2 })).hq 0).st = .run ∧ ((queueOf (fun h => { h with st := .blocked })).hq 0).st = .blocked ∧
    ((queueOf (fun h => { h with coal := 10, coalAt := some 0 })).hq 0).coalAt = some 0 :=
  ⟨_, _, rfl, rfl, rfl, by decide +kernel⟩
/-- Tail words with a good value, a bad one that is new, one seen before, one that faults. -/
def stTail (v : Nat) (seen : List (Nat × Nat)) (a : W64) : State :=
  { putVa (queueOf (fun h => { h with st := .run, twaddr := a })) 0x40 (leList 8 v) with twSeen := seen }
theorem witness_QueueRegisters_tail : (∃ ls leaf, access (stTail 8 [] 0x40) (qWho ((stTail 8 [] 0x40).hq 0)) .watch 0x40 8 = .ok (ls, leaf) ∧
      Plain ls (dramKey 0 0x30040) 8) ∧ memNat (stTail 9 [] 0x40) (dramKey 0 0x30040) 8 = 9 ∧
    ((0, dramKey 0 0x30040) : Nat × Nat) ∉ (stTail 9 [] 0x40).twSeen ∧
    (∃ c a d, access (stTail 8 [] 0x10000) (qWho ((stTail 8 [] 0x10000).hq 0)) .watch 0x10000 8 = .fail c a d) :=
  ⟨access_of (by decide +kernel), by decide +kernel, by decide, fail_of (by decide +kernel)⟩

/-- The two words of a packet (R243), and a queue about to take it. -/
def pw (type flags n aux : Nat) (a : W64) : W64 × W64 := (u64 (type + 2 ^ 8 * flags + 2 ^ 16 * n + 2 ^ 32 * aux), a)
def stPk (w : W64 × W64) : State := stMem.modHq 0 (fun h => { h with
  st := .run, en := true, efftail := 1, qcfg := u64 (2 ^ 32 + 3), qbase := 0x8000, phase := some 2, ahead := [(0, w)] })
def turnB (w : W64 × W64) (i : Instr) : Bool :=
  packetOk (Packet.ofWords w.1 w.2) && decide ((Packet.ofWords w.1 w.2).step? 0 = some i) && packetRuns ((stPk w).hq 0) (Packet.ofWords w.1 w.2)
theorem turn_of {w : W64 × W64} {i : Instr} (h : turnB w i = true) : PacketTurn (stPk w) 0 w i ∧
    packetRuns ((stPk w).hq 0) (Packet.ofWords w.1 w.2) = true := by
  simp only [turnB, Bool.and_eq_true, decide_eq_true_eq] at h
  exact ⟨⟨by decide, rfl, rfl, fun _ => (show (0 : Nat) < 1 by decide), .inl rfl, h.1.1, h.1.2⟩, h.2⟩
/-- Every kind of packet, written out from R243's table, is taken by its own step. -/
theorem test_packets : [(pw 0 0 0 0 0, Instr.stopPacket 0), (pw 1 0x40 0 0 0, .nopPacket 0), (pw 2 0 0 0 0x100, .launchPacket 0),
    (pw 2 0 1 0 0x240, .sliceLaunch 0), (pw 3 0 0 0 0x200, .graph 0), (pw 4 0 0 9 0x40, .waitThreshold 0), (pw 4 0 1 0 0, .waitQueue 0),
    (pw 4 0 2 0 5, .waitHandle 0), (pw 5 0 0 9 0x40, .signalStore 0), (pw 5 0 1 9 0x40, .signalAdd 0), (pw 6 0 2 0 0x600, .call 0),
    (pw 8 0 0 0 0x40, .pred 0), (pw 9 0 2 3 0x600, .loopPacket 0), (pw 9 0 2 0 0x600, .loopPacket 0), (pw 10 0 0 0 0, .ffence 0), (pw 11 0 0 0 0x100, .resumePacket 0),
    (pw 12 0 0 0 0x280, .chkpt 0), (pw 13 0 0 0 0x40, .timePacket 0), (pw 14 0 0 0 0, .phase 0)].all (fun e => turnB e.1 e.2) = true := by decide +kernel
theorem witness_PlainPackets : PacketTurn (stPk (pw 5 0 1 9 0x40)) 0 (pw 5 0 1 9 0x40) (.signalAdd 0) ∧
    packetRuns ((stPk (pw 5 0 1 9 0x40)).hq 0) (Packet.ofWords (pw 5 0 1 9 0x40).1 (pw 5 0 1 9 0x40).2) = true ∧
    ∃ ls leaf, access (withPacket (stPk (pw 5 0 1 9 0x40)) 0 (pw 5 0 1 9 0x40)) (qWho ((stPk (pw 5 0 1 9 0x40)).hq 0)) .atomic 0x40 8 = .ok (ls, leaf) ∧
      Plain ls (dramKey 0 0x30040) 8 := ⟨(turn_of (by decide +kernel)).1, (turn_of (i := .signalAdd 0) (by decide +kernel)).2, access_of (by decide +kernel)⟩
/-- A skipped packet, a malformed one, four nesting levels and a fifth. -/
theorem witness_PlainPackets_corners : packetRuns ((stPk (pw 1 0x20 0 0 0)).hq 0) (Packet.ofWords (pw 1 0x20 0 0 0).1 0) = false ∧
    packetOk (Packet.ofWords (pw 1 0x20 0 0 0).1 0) = true ∧ packetOk (Packet.ofWords (pw 1 1 0 0 0).1 0) = false ∧
    packetOk (Packet.ofWords (pw 7 0 0 0 0).1 0) = false ∧ (List.replicate 3 (⟨0x600, 1, 0, 1⟩ : QLevel)).length < 4 ∧
    4 ≤ (List.replicate 4 (⟨0x600, 1, 0, 1⟩ : QLevel)).length ∧ (Packet.ofWords (pw 9 0 2 3 0x600).1 0x600).aux ≠ 0 ∧
    (Packet.ofWords (pw 9 0 2 0 0x600).1 0x600).aux = 0 := by decide +kernel
theorem witness_WorkPackets : ∃ x, qPhase (withPacket (stPk (pw 2 0 0 0 0x100)) 0 (pw 2 0 0 0 0x100)) ((stPk (pw 2 0 0 0 0x100)).hq 0) = some 2 ∧
    (stPk (pw 2 0 0 0 0x100)).ent? 2 = some x ∧ x.e < 56 ∧ isCancelled (stPk (pw 2 0 0 0 0x100)) 2 = false ∧ 2 < (stPk (pw 2 0 0 0 0x100)).nextId ∧
    ((stPk (pw 12 0 0 0 0x280)).hq 0).live = [] ∧ st1.fab.early = [] ∧ st1.cancels = [] ∧ ((stPk (pw 2 0 0 0 0x101)).hq 0).qout = 0 ∧
    qPhase ((stPk (pw 2 0 0 0 0x100)).modHq 0 (fun h => { h with phase := none })) (((stPk (pw 2 0 0 0 0x100)).modHq 0 (fun h => { h with phase := none })).hq 0) = none :=
  ⟨_, by decide +kernel, rfl, by decide +kernel⟩
def stPk1 (w : W64 × W64) : State := withPacket (stPk w) 0 w
theorem witness_WorkPackets_blocks : (∃ l, readLpb (stPk1 (pw 2 0 0 0 0x100)) (qWho ((stPk1 (pw 2 0 0 0 0x100)).hq 0)) 0x100 = .ok (.ok l) ∧
      (checkFit (stPk1 (pw 2 0 0 0 0x100)) l = none && decide (0 < l.nunits)) = true) ∧
    (∃ x, readSlice (stPk1 (pw 2 0 1 0 0x240)) (qWho ((stPk1 (pw 2 0 1 0 0x240)).hq 0)) 0x240 = .ok (.ok x) ∧
      (checkFit (stPk1 (pw 2 0 1 0 0x240)) x.1 = none && decide (0 < x.1.nunits)) = true) ∧
    (∃ ns, readGraph (stPk1 (pw 3 0 0 0 0x200)) (qWho ((stPk1 (pw 3 0 0 0 0x200)).hq 0)) 0x200 = .ok (.ok ns) ∧ (ns.length == 1) = true) ∧
    (∃ x, readChkpt (stPk1 (pw 12 0 0 0 0x280)) ((stPk1 (pw 12 0 0 0 0x280)).hq 0) 0x280 = .ok (.ok x) ∧
      ((destinations (stPk1 (pw 12 0 0 0 0x280)) x.1).isSome) = true) ∧
    ∃ st, readLpb (stPk1 (pw 2 0 0 0 0x101)) (qWho ((stPk1 (pw 2 0 0 0 0x101)).hq 0)) 0x101 = .ok (.error st) :=
  ⟨ok_of (by decide +kernel), ok_of (by decide +kernel), ok_of (by decide +kernel), ok_of (by decide +kernel), err_of (by decide +kernel)⟩
/-- A WAIT that goes on at the value read, one above it; blocked threads of every kind. -/
def stBlk (wt : QWait) : State := (stPk (pw 4 0 0 0 0x40)).modHq 0 (fun h => { h with st := .blocked, wait := some wt })
theorem witness_QueueWaits : PacketTurn (stPk (pw 4 0 0 0 0x40)) 0 (pw 4 0 0 0 0x40) (.waitThreshold 0) ∧
    (∃ ls leaf, access (stPk1 (pw 4 0 0 0 0x40)) (qWho ((stPk1 (pw 4 0 0 0 0x40)).hq 0)) .watch 0x40 8 = .ok (ls, leaf) ∧ Plain ls (dramKey 0 0x30040) 8) ∧
    memNat (stPk1 (pw 4 0 0 0 0x40)) (dramKey 0 0x30040) 8 = 0 ∧
    (∃ ls leaf, access (stBlk (.threshold 0x40 1)) (qWho ((stBlk (.threshold 0x40 1)).hq 0)) .watch 0x40 8 = .ok (ls, leaf) ∧ Plain ls (dramKey 0 0x30040) 8) ∧
    ((stBlk .earlier).hq 0).st = .blocked ∧ ((stBlk .earlier).hq 0).en = true ∧ ((stBlk .earlier).hq 0).wait = some .earlier ∧
    (heldPacket ((stBlk .earlier).hq 0)).type ≠ 0x0C ∧ ((stBlk .earlier).hq 0).live = [] :=
  ⟨(turn_of (by decide +kernel)).1, access_of (by decide +kernel), by decide +kernel, access_of (by decide +kernel), by decide +kernel⟩
theorem witness_QueueWaits_handles : handleOver (stPk (pw 4 0 2 0 5)) ((stPk (pw 4 0 2 0 5)).hq 0) 5 = true ∧
    handleOver (stPk (pw 4 0 2 0 5)) ((stPk (pw 4 0 2 0 5)).hq 0) (u64 (2 ^ 60 + 1)) = false := by decide +kernel
/-- The owner with running firmware and no command (R238, R248); a fault record; a closed job with nothing beneath it. -/
def stCmd : State := { stOwn with boot := { stOwn.boot with running := some 1, staged := some 2 } }
theorem may1 : MayCommand stCmd 1 := ⟨by decide +kernel, by decide, by decide⟩
/-- JOB_OPEN at its limits; the job that is open already; FAT_SET and GROUP_SET of the zeros that host memory holds; key slots 1, 63. -/
theorem witness_OwnerCommands : MayCommand stCmd 1 ∧ (65535#64).toNat < 65536 ∧ (11#64).toNat < 12 ∧
    (u64 (65536 * 2929686)).toNat + 65536 ≤ dieBytes ∧ (u64 (65536 * 2929686)).toNat % 65536 = 0 ∧ (1#64).toNat < 2 ∧
    ((2 ^ 54 - 8 : W64)).toNat + (8#64).toNat ≤ globalSize ∧ stCmd.job? ((65535#64).setWidth 16) = none ∧
    (stCmd.job? ((1#64).setWidth 16)).isSome = true ∧ fld (hostBytes stCmd 1 0 32) 0x16 1 < 128 ∧
    ((List.range 2).map (fun i => fld (hostBytes stCmd 1 0 4) (2 * i) 2)) = [0, 0] ∧ (63#64).toNat < 64 ∧ stCmd.boot.staged = some 2 ∧
    recordOf stCmd 5 = none ∧ (∀ i < 64, hostError stCmd 1 i = false) ∧ hostError { stCmd with hostBad := [(1, 40, 8)] } 1 47 = true ∧ stCmd.mbox.status ≠ 0 ∧ (1 : W16) ≠ mgmt := ⟨may1, by decide +kernel⟩
def stOver : State := { stCmd with ents := [(1, probeEnt .job (4 * 2 ^ 60 + 1) none 0 0)], launches := [], units := [],
                                   detached := [⟨1, 5, 0, yieldImg, [], 0, none⟩] }
def rec0 : FaultRec := ⟨u64 (2 ^ 60 + 1), 0, 0, 0x0D, false, 0, 0, 0, 0, 0, 0, 0⟩
/-- FAT entries in host memory with V = 1: a window in DRAM, one in scratchpad of pane 191, one of pane 192, a reserved byte. -/
def stEntry (lo hi rights rsv : Nat) : State :=
  setBytes stCmd (hostKey (busOf 1) 0x1000) (leList 8 lo ++ leList 8 hi ++ [0, 0, 0, 0, 0, 0, rights, rsv])
theorem witness_OwnerCommands_entry : ∀ x ∈ [(0x20000, 0x10000, 0x83, 0), (191, 0, 0x91, 0), (192, 0, 0x91, 0), (0x20000, 8, 0x83, 0), (0, 0, 0x80, 1)],
    MayCommand (stEntry x.1 x.2.1 x.2.2.1 x.2.2.2) 1 ∧
    fld (hostBytes (stEntry x.1 x.2.1 x.2.2.1 x.2.2.2) (busOf 1) 0x1000 32) 0x16 1 = x.2.2.1 ∧ 128 ≤ x.2.2.1 ∧
    fld (hostBytes (stEntry x.1 x.2.1 x.2.2.1 x.2.2.2) (busOf 1) 0x1000 32) 0 8 = x.1 ∧
    fld (hostBytes (stEntry x.1 x.2.1 x.2.2.1 x.2.2.2) (busOf 1) 0x1000 32) 8 8 = x.2.1 ∧
    zeroFrom (hostBytes (stEntry x.1 x.2.1 x.2.2.1 x.2.2.2) (busOf 1) 0x1000 32) 0x17 9 = decide (x.2.2.2 = 0) := by unfold MayCommand; decide +kernel
theorem witness_OwnerCommands_jobs : ∃ j e, MayCommand stOver 1 ∧ stOver.job? ((1#64).setWidth 16) = some j ∧ stOver.ent? j.ent = some e ∧
    e.level = .job ∧ beneath stOver j.ent = [j.ent] ∧ (∃ x ∈ stOver.detached, x.job.toNat = 1 ∧ x.image.addr = 0x8000) :=
  ⟨_, _, ⟨by decide +kernel, by decide, by decide⟩, rfl, rfl, by decide +kernel⟩
theorem witness_OwnerCommands_record : MayCommand (stCmd.modLaunch 3 (fun l => { l with frec := some rec0 })) 1 ∧
    recordOf (stCmd.modLaunch 3 (fun l => { l with frec := some rec0 })) (u64 (2 ^ 60 + 1)) = some (some rec0) ∧
    (∀ e ∈ stCmd.launches, (stCmd.ent? e.1).map (·.handle) ≠ some 5) ∧ ∃ e ∈ ({ stCmd with rejects := [(1, 5)] } : State).rejects, e.2 = 5 :=
  ⟨⟨by decide +kernel, by decide, by decide⟩, rfl, by decide +kernel, by decide +kernel⟩
theorem witness_ManagementCommands : MayManage st1 ∧ (11#64).toNat < 12 ∧ (32#64).toNat ≤ 32 ∧ 12 ≤ (12#64).toNat ∧
    isMaster st1 0 = true ∧ st1.own.owner ≠ 0 ∧ (0 : W16) ≠ 0x8000 := ⟨⟨rfl, by decide⟩, by decide +kernel⟩
theorem witness_ResetsAndBoot : st1.boot.powered = true ∧ (1 : Nat) < 12 ∧ (st1.die 1).resetAt = none ∧ (∀ u ∈ st1.units, u.2.seq / 16 ≠ 1) ∧
    st1.fab.cmds = [] ∧ (∀ e ∈ st1.ents, Store.get 0 e.2.lent st1.pkg = 0) ∧ st1.boot.running = none ∧
    stCmd.boot.running = some 1 ∧ isMaster stCmd 1 = true ∧ st1.boot.scrubAt = none ∧
    ({ st1.boot with scrub := some 5, scrubAt := some (0, 7) } : Boot).scrubAt = some (0, 7) ∧ ((st1.modDie 1 (fun d => { d with resetAt := some 5 })).die 1).resetAt = some 5 := by decide +kernel
/-- The reset of a unit's die; of a die with a party of a send from another die. -/
theorem witness_ResetsAndBoot_unit : ∃ u l, st1.units = [(4, u)] ∧ u.seq / 16 = 0 ∧ u.phase = .running ∧ u.killed = false ∧ st1.launches = [(u.lid, l)] ∧
    l.slice = none ∧ l.done < l.next ∧ l.next ≤ l.lpb.nunits ∧ st1.chains = [] ∧ st1.pend = [] ∧ st1.joins = [] ∧ st1.fab.cmds = [] ∧
    (∀ e ∈ st1.ents, Store.get 0 e.2.lent st1.pkg = 0) ∧ (∀ e ∈ st1.frags, e.2.q = []) ∧ (∀ c ∈ st1.cur :: st1.others, c.wc = [] ∧ c.vec = none) :=
  ⟨_, _, rfl, by decide +kernel, rfl, rfl, rfl, by decide +kernel⟩
def cmdHere : FabCmd := { fabC { peer0 [] none with pkg := 0, die := some 1 } none [0] none false with owner := none }
def stHere : State := { stReply cmdHere with units := [] }
theorem witness_ResetsAndBoot_command : ∃ p k, stHere.units = [] ∧ stHere.fab.cmds = [cmdHere] ∧ cmdHere.order = none ∧ cmdHere.owner = none ∧
    cmdHere.peers = [p] ∧ p.pkg = stHere.pkg ∧ p.die = some 1 ∧ cmdHere.nak = none ∧ Orderly stHere ∧ fabHome stHere cmdHere.id = some (0, k) ∧
    k.id = cmdHere.id ∧ cmdHere.id ≠ 0 ∧ (0 : Nat) / 16 ≠ 1 ∧ ∀ e ∈ stHere.ents, Store.get 0 e.2.lent stHere.pkg = 0 :=
  ⟨_, sendCmd, rfl, rfl, rfl, rfl, rfl, rfl, rfl, rfl, orderly_of (by decide +kernel), by decide +kernel, by decide, by decide, by decide, by decide +kernel⟩

/- The whole machine -/

theorem witness_FalseGuardOnlyMovesOn : encode (.add ⟨1, false⟩ 1 2 3) = some (wordOf (.add ⟨1, false⟩ 1 2 3)) ∧ st1.cur.phase = .running ∧
    st1.cur.halted = false ∧ st1.cur.pfault = none ∧ guardTrue st1.cur (fGuard (wordOf (.add ⟨1, false⟩ 1 2 3))) = false := ⟨rfl, by decide +kernel⟩
/-- A word that leaves user mode, and one that does not. -/
theorem witness_UserModeKeepsSupervisorState : (∃ t, exec (.sys gd0 5) st1 = .next t ∧ t.cur.cid = st1.cur.cid ∧ t.cur.phase ≠ .absent ∧ t.cur.sm = true) ∧
    (∃ t, exec (.nop gd0) st1 = .next t ∧ t.cur.cid = st1.cur.cid ∧ t.cur.phase ≠ .absent ∧ t.cur.sm = false) ∧ st1.cur.sm = false ∧
    (Instr.sys gd0 5).isWord = true ∧ (Instr.nop gd0).isWord = true :=
  ⟨⟨_, rfl, rfl, by decide +kernel⟩, ⟨_, rfl, rfl, by decide +kernel⟩, rfl, rfl, rfl⟩
/-- A word in a cached line, one in memory, one that does not decode, a scheduled event. -/
def stFetch : State := st1.setCur (fun c => { c with icache := [(0, [wordOf (.nop gd0), 0])] })
def later (s : State) : State := s.elapse (s.now + (s.die (s.cur.seq / 16)).tpc)
theorem witness_StepRunsTheDecodedInstruction : ∃ ws, stFetch.turns = [] ∧ stFetch.cur.phase = .running ∧ (later stFetch).cur = stFetch.cur ∧
    (later stFetch).cur.phase = .running ∧ (later stFetch).cur.halted = false ∧ (later stFetch).cur.pfault = none ∧
    (later stFetch).cur.notBefore ≤ (later stFetch).now ∧ (later stFetch).cur.vec = none ∧ (later stFetch).cur.pc.toNat % 8 = 0 ∧
    Tab.get? (later stFetch).cur.icache 0 = some ws ∧ (ws[0]?).getD 0 = wordOf (.nop gd0) ∧
    (later stFetch).cur.sm = false ∧ (later stFetch).cur.tvec ≠ 0 ∧
    (match decode ((ws[1]?).getD 0) with
      | .error _ => true
      | .ok _ => false) = true := ⟨[wordOf (.nop gd0), 0], by decide +kernel⟩
/-- Nothing is due within the next cycle. -/
theorem witness_StepRunsTheDecodedInstruction_quiet : st1.dueBy 32 [] = none ∧ st1.now / 144000 = 32 / 144000 ∧ st1.recs = [] ∧ st1.late = [] ∧
    ∀ e ∈ st1.queues, e.2.coalAt = none := by decide +kernel
theorem witness_StepRunsTheDecodedInstruction_miss : Tab.get? (later st1).cur.icache 0 = none ∧
    (∃ ls leaf, access (later st1) (later st1).cur.who .fetch (u64 (64 * 0)) 64 = .ok (ls, leaf) ∧ Plain ls (dramKey 0 0x30000) 64) ∧
    Instr.selection.isWord = false ∧ ({ st1 with turns := [⟨3, .event .selection⟩] } : State).turns = [⟨3, .event .selection⟩] :=
  ⟨by decide +kernel, access_of (by decide +kernel), rfl, rfl⟩
theorem witness_StepsKeepMemoryCanonical : MemInv st1 ∧ st1.mem ≠ [] ∧ ∃ t, step (storeAtPc st1 (wordOf (.st gd0 3 1 3 false 0)).toNat) = .next t := by
  refine ⟨by unfold MemInv; decide +kernel, by decide +kernel, ?_⟩
  exact ⟨_, rfl⟩
theorem witness_DecodeAndEncodeAgree : (Instr.vfma ⟨7, true⟩ 31 30 29 28 .fp32 .dyn true (some 7)).isWord = true ∧
    (Instr.vfma ⟨7, true⟩ 31 30 29 28 .fp32 .dyn true (some 7)).wf = true ∧
    (match decode (wordOf (.vfma ⟨7, true⟩ 31 30 29 28 .fp32 .dyn true (some 7))) with
      | .ok i => decide (i = .vfma ⟨7, true⟩ 31 30 29 28 .fp32 .dyn true (some 7))
      | .error _ => false) = true := by decide +kernel
/-- "abc" under SHA-256 (the standard's own example, log entry 13). -/
theorem test_sha256 : sha256 [0x61, 0x62, 0x63] =
    0xBA7816BF8F01CFEA414140DE5DAE2223B00361A396177A9CB410FF61F20015AD := by decide +kernel
/-- The word that withFetchWord places is the one that the next step runs (R256, R257). -/
theorem test_fetch_word : (match step (State.reset.withFetchWord 64 (wordOf (.addi gd0 5 0 7)).toNat) with
    | .next t => decide (t.cur.rg 5 = 7 ∧ t.cur.pc = 8)
    | _ => false) = true := by decide +kernel

/- Hypotheses of the clauses of several operations at once -/

/-- A load's fault under the firmware setting, and entries that firmware may write. -/
theorem witness_AccessFaults_answer : (match exec (.ld gd0 5 0 3 false 15 0x10000) (st1.setCur (fun c => { c with pfh := false })) with
    | .next t => !entriesHeld t (some []) && !entriesHeld t (some [(0, 0x22010, 3, 0x40000)]) && t.cur.pfault.isSome
    | _ => false) = true := by decide +kernel
/-- A context and a command that wait at a page; an entry whose die is in reset. -/
def stPage : State := st1.setCur (fun c => { c with pfault := some (5, 0x10000, 0, 0), wait := .page })
def pageCmd : Cmd := { cmd0 9 kw spA 1 with page := some 0x10000 }
theorem witness_AccessFaults_mapped : (∃ p, stPage.cur.pfault = some p) ∧ heldBy stPage 15 0 = false ∧ 0x22010 % 16 = 0 ∧
    0x22010 + 16 ≤ 192000000000 ∧ heldBy (st1.modDie 1 (fun d => { d with resetAt := some 0 })) 15 1 = true ∧
    (withQueue st1 5 [pageCmd]).frags = [(0, { (withQueue st1 5 [pageCmd]).frag 0 with q := [(5, [pageCmd])] })] ∧ pageCmd.page = some 0x10000 ∧
    (withQueue st1 5 [pageCmd]).stops pageCmd = false ∧ (withQueue st1 5 [pageCmd]).stopping pageCmd.uid = false ∧
    heldBy (withQueue st1 5 [pageCmd]) 15 0 = false := ⟨⟨_, rfl⟩, by decide +kernel⟩

theorem witness_WaitsAndFences_timeout : (∀ x ∈ stKept.cur.wc, x ∈ wcKept stKept stKept.cur.who stKept.cur.wc) ∧
    stHeld.cur.wc.find? (fun x => !(wcKept stHeld stHeld.cur.who stHeld.cur.wc).contains x) = some (wcByte 0x40 0) := by decide +kernel

/-- Sources in order: of no accepted tag, of another tag than the first, as accepted; a masked destination of another tag;
zero points and side fields of quantised registers. -/
def stTags : State := stVec.setCur (fun c => { c with v := c.v ++ [(6, ⟨[(70, 3)], .ob4, 16, 5, 0⟩), (7, ⟨[], .ob4, 3, 5, 0⟩), (8, ⟨[], .ob4, 3, 6, 0⟩),
  (9, ⟨[(0, 64)], .i32, 0, 0, 0⟩)] })
def offends (s : State) (ok : Tag → Bool) (srcs : List VNum) : Option Tag :=
  let tags := srcs.map (fun v => (s.cur.rv v).tag)
  match tags.find? (fun t => !ok t) with
  | some t => some t
  | none => tags.find? (fun t => t != tags.headD .invalid)
theorem witness_TagTraps_sources : Issues stTags gd0 ∧ HandlerReady stTags ∧ offends stTags Tag.isFloat [1, 2] = some .i32 ∧
    offends stTags Tag.isFloat [1, 4, 5] = some .bf16 ∧ offends stTags Tag.isFloat [1, 4] = none ∧ (stTags.cur.rv 5).tag ≠ .fp32 ∧
    offends stTags (fun t => t == .i32 || t == .w32) [2, 1] = some .fp32 ∧ offends stTags (fun t => t == .i32 || t == .w32) [2, 3] = some .w32 ∧
    offends stTags (fun t => t == .i32 || t == .w32) [2, 2] = none ∧ (stTags.cur.rv 3).tag ≠ (stTags.cur.rv 2).tag ∧
    offends stTags (fun t => t.isFloat || (t == .i32 || t == .w32)) [1, 6] = some .ob4 := ⟨⟨rfl, rfl, rfl, rfl⟩, ⟨rfl, by decide⟩, by decide +kernel⟩
theorem witness_TagTraps_quantised : (stTags.cur.rv 6).tag = .ob4 ∧ 16 ≤ (stTags.cur.rv 6).side0.toNat % 256 ∧ (stTags.cur.rv 6).tag.isFloat = false ∧
    (stTags.cur.rv 7).tag ≠ .invalid ∧ ¬ (16 ≤ (stTags.cur.rv 7).side0.toNat % 256 ∨ 16 ≤ (stTags.cur.rv 7).side1.toNat % 256) ∧
    (stTags.cur.rv 7).tag.isQuant = true ∧ laneOn stTags.cur none 0 = true ∧ ((stTags.cur.rv 9).lane 0).toNat % 128 / 64 ≠ 0 / 64 ∧
    (stTags.cur.rv 8).tag = (stTags.cur.rv 7).tag ∧ (stTags.cur.rv 8).side1 ≠ (stTags.cur.rv 7).side1 := by decide +kernel
theorem witness_TokenInstructions_faulted : [(3 : KNum), 2, 0].find? (fun k => statusCode (stTok.cur.rk k).done.status != 0) = some 2 := by decide +kernel
/-- A BAR that has arrived, executed again: in its generation, and after it. -/
theorem witness_LeasesAndBarriers_again : st1.cur.pc ∉ st1.cur.barAt ∧ stComp.cur.pc ∉ stComp.cur.barAt ∧
    (Store.get 0 ((st1.setCur (fun c => { c with bars := [(15, 0x80)] })).cur.bars) 15).getLsbD 7 = true ∧
    (Store.get Barrier.reset (probeUnit 3 5).bars 15).gen % 128 = (0x80#8).toNat % 128 ∧
    (Store.get Barrier.reset (probeUnit 3 5).bars 15).gen % 128 ≠ (0x81#8).toNat % 128 := by decide +kernel

/-- A GSPILL of a ring, of one whose size is no multiple of 64, at a port whose ring holds a token. -/
def gspill0 : Instr := .gspill gd0 1 0 0 0 1
def stSpill (size : Nat) (toks : List GTok) : State :=
  (spPut (stQ 4 (cmd0 9 gspill0 (spA + 0x100) 0)) 0x100 ([0x11, 0, 0, 0] ++ leList 4 0x4000 ++ leList 4 size ++ leList 4 0)).modGrid 0 (fun g =>
    { g with ports := [(0x11, ⟨[], [], some ⟨0, 64, toks, 0⟩, false⟩)] })
def spillB (size : Nat) (p : List Nat → Bool) : Bool := resB (readBlock (stSpill size []) (cmd0 9 gspill0 0 0).who .engRead (spA + 0x100) 16) p
theorem witness_CommandStarts_rings : ReadyBehind (stSpill 64 []) 0 4 [] (cmd0 9 gspill0 (spA + 0x100) 0) ∧ (spA + 0x108).toNat % 16 ≠ 0 ∧
    (spA + 0x100).toNat % 16 = 0 ∧
    spillB 64 (fun b => decide (fld b 0 1 = 0x11 ∧ fld b 1 1 < 1 * 1 ∧ fld b 2 2 = 0 ∧ fld b 12 4 = 0 ∧ fld b 4 4 % 64 = 0 ∧ fld b 8 4 % 64 = 0 ∧
      64 ≤ fld b 8 4 ∧ fld b 4 4 + fld b 8 4 ≤ 2 ^ 24 * (1 * 1))) = true ∧ spillB 65 (fun b => decide (fld b 8 4 % 64 ≠ 0)) = true ∧
    (((stSpill 64 [⟨1, false⟩]).grid 0).port 0x11).ring = some ⟨0, 64, [⟨1, false⟩], 0⟩ ∧
    (∀ r, (((stSpill 64 []).grid 0).port 0x11).ring = some r → r.toks = []) :=
  ⟨ready_of (orderly_of (by decide +kernel)) rfl (by decide +kernel), by decide +kernel, by decide +kernel, by decide +kernel, by decide +kernel, by decide +kernel,
    fun r h => by cases (show some (⟨0, 64, [], 0⟩ : GRing) = some r from h); rfl⟩
/-- A GSTOP behind a stream and a GSTART. -/
def gstop0 : Instr := .gstop gd0 1 0 0 0
def gsBefore : List Cmd := [{ cmd0 7 (.strm gd0 1 0 0 0 1 2) 0 0 with st := .started, prog := 3 }, { cmd0 8 (.gstart gd0 1 0 0 0) 0 0 with st := .started }]
def stGstop : State := (withQueue st1 4 (gsBefore ++ [cmd0 9 gstop0 0 0])).modGrid 0 (fun g =>
  { g with st := .running, start := some 8, ports := [(0, ⟨[], [7], none, false⟩)] })
theorem witness_CommandStarts_stops : ReadyBehind stGstop 0 4 gsBefore (cmd0 9 gstop0 0 0) ∧
    (∀ j ∈ gsBefore, j.st = .started ∧ j.id ≠ 0 ∧ issuerGone stGstop j = false) ∧ ((gsBefore ++ [cmd0 9 gstop0 0 0]).map (·.id)).Nodup ∧
    (∀ x ∈ (stGstop.grid 0).ports, ∀ i ∈ x.2.streams, ∃ j ∈ gsBefore, j.id = i) ∧ (∃ x ∈ (stGstop.grid 0).ports, 7 ∈ x.2.streams) ∧
    (∀ x ∈ (stGstop.grid 0).ports, 8 ∉ x.2.streams) ∧ (stGstop.grid 0).start = some 8 :=
  ⟨⟨orderly_of (by decide +kernel), by decide +kernel⟩, by decide +kernel⟩
/-- A watch at a location that holds 0: thresholds 0 and 1, misaligned, outside every window. -/
def watchB (a : W64) (p : List Loc × Option Leaf → Bool) : Bool := resB (accessChecks st1 (cmd0 9 kw 0 0).who .watch a 8) p
theorem witness_CommandStarts_watches : ReadyCmd (stQ 5 (cmd0 9 kw spA 1)) 0 5 (cmd0 9 kw spA 1) ∧ (spA + 4).toNat % 8 ≠ 0 ∧
    (match accessChecks st1 (cmd0 9 kw 0 0).who .watch (2 ^ 54) 8 with
      | .fail c _ _ => decide (0 < c ∧ c < 128) && !toFirmware st1 (cmd0 9 kw (2 ^ 54) 0) c
      | _ => false) = true ∧
    watchB spA (fun r => r.2.isNone && resB (useLoc st1 (cmd0 9 kw spA 1) .watch spA 8) (fun cs => decide (readLocs st1 cs = 0))) = true ∧
    watchB 0x40 (fun r => r.2.isSome) = true :=
  ⟨ready_of (orderly_of (by decide +kernel)) rfl (by decide +kernel), by decide +kernel, by decide +kernel, by decide +kernel⟩
/-- An XCAST of two receivers: one common element and a slice of two each, of a source of five; a block that breaks the limits. -/
def xcast0 : Instr := .xcast gd0 1 0 0 0 1 2 none
def castCmd : Cmd := cmd0 9 xcast0 (spA + 0x100) (spA + 0x400)
def castBlock (n : Nat) : List Nat := leList 4 n ++ leList 4 0 ++ leList 8 1 ++ leList 8 2 ++ leList 8 2 ++ leList 8 (spA + 0x200).toNat ++ leList 8 (spA + 0x300).toNat
def stCast (t : Tag) : State := spPut (spPut (spPut (sdAt (stQ 2 castCmd) .fp32 5) 0x200 (sdB (spA + 0x2000) t [(3, 4)])) 0x300
  (sdB (spA + 0x3000) .fp32 [(3, 4)])) 0x400 (castBlock 2)
def castSds (s : State) : Option (Sd × List Nat × Sd × Sd) :=
  match readSd s castCmd castCmd.ga, readRun s castCmd.who .engRead 64 4 castCmd.gb, readDst s castCmd (spA + 0x200), readDst s castCmd (spA + 0x300) with
  | .ok x, .ok bs, .ok d, .ok e => some (x, bs, d, e)
  | _, _, _, _ => none
theorem witness_CommandStarts_casts : ReadyCmd (stCast .fp32) 0 2 castCmd ∧ castCmd.gb.toNat % 64 = 0 ∧ (castCmd.gb + 32).toNat % 64 ≠ 0 ∧
    (castSds (stCast .fp32)).any (fun r => decide (fld r.2.1 0 4 = 2 ∧ zeroFrom r.2.1 4 4 = true ∧ zeroFrom r.2.1 (0x20 + 16) (8 * 14) = true ∧
      zeroFrom r.2.1 0xA0 96 = true ∧ u64 (fld r.2.1 0x20 8) = spA + 0x200 ∧ u64 (fld r.2.1 0x28 8) = spA + 0x300 ∧
      r.2.2.1.count' = 1 + 2 ∧ r.2.2.2.count' = 1 + 2 ∧ 1 + 1 * 2 + 2 ≤ r.1.count' ∧ r.2.2.1.fmt = r.1.fmt ∧ r.2.2.2.fmt = r.1.fmt) &&
      passB (stCast .fp32) castCmd r.2.2.1 (fun j => (([r.2.2.1, r.2.2.2].zipIdx.map (fun e =>
        [(.engRead, (r.1.elem (if j < 1 then j else 1 + e.2 * 2 + (j - 1))).1, r.1.size), (.engWrite, (e.1.elem j).1, r.1.size)])).flatten))) = true ∧
    (castSds (stCast .i32)).any (fun r => decide (r.2.2.1.fmt ≠ r.1.fmt)) = true ∧
    ((castSds (spPut (stCast .fp32) 0x400 (castBlock 17))).any (fun r => decide (fld r.2.1 0 4 = 17))) = true ∧
    ((castSds (spPut (stCast .fp32) 0x408 (leList 8 2))).any (fun r => decide (r.2.2.1.count' ≠ 2 + 2))) = true :=
  ⟨ready_of (orderly_of (by decide +kernel)) rfl (by decide +kernel), by decide +kernel⟩
/-- As `turn_of'`, with chains of which no row is on its way. -/
theorem turn_chains {s : State} {k : Cmd} (h : ReadyCmd s 0 0 k) (h' : decide ((s.frag 0).q = [(0, [k])] ∧ 0 < tickOf s 0 ∧
    (∀ x ∈ s.chains, x.flight = []) ∧ edgeStuck s 0 = false ∧ s.stops k = false) = true) : ArrayTurn s 0 0 k :=
  ⟨by decide, h, of_decide_eq_true h'⟩
def mmaOf (chn rag cin set : Bool) : Instr := .mma gd0 1 0 0 0 1 2 false chn rag cin set
/-- The fragment's own chain, and one whose destination it is. -/
def outChain : Chain := ⟨0, 5, [], false, [], none, [], 0, none⟩
def inChain (fifo : List (Tag × List Nat)) (marker : Option (List Nat)) : Chain := ⟨7, 0, [], false, fifo, none, [], 0, marker⟩
/-- A ragged product: a counter of two rows and closed, no counter, one that is misaligned. -/
def ragCmd : Cmd := cmd0 9 (mmaOf false true false true) (spA + 0x100) 0
def sdRagB (count : Nat) : List Nat := leList 8 (spA + 0x1000).toNat ++ [Tag.bf16.bits.toNat, 2] ++ leList 14 0 ++ leList 8 count ++
  leList 8 2 ++ leList 8 2 ++ leList 8 2 ++ leList 8 4
def stRagged (count : Nat) : State := spPut (spPut (stMma ragCmd none 0) 0x100 (sdRagB count)) 0x800 (leList 8 (2 ^ 63 + 2))
def raggedB (count : Nat) (p : Sd → Bool) : Bool := resB (readSd (stRagged count) ragCmd (spA + 0x100)) p
theorem witness_CommandBoundaries_ragged : ArrayTurn (stRagged (spA + 0x800).toNat) 0 0 ragCmd ∧ ragCmd.gb.toNat < 65536 ∧
    raggedB 0 (fun d => decide (d.count = 0)) = true ∧ raggedB (spA + 0x804).toNat (fun d => decide (d.count.toNat % 8 ≠ 0)) = true ∧
    raggedB (spA + 0x800).toNat (fun d =>
      let s := stRagged (spA + 0x800).toNat
      let c := passOps s ragCmd.who 0 Pass.start [(.watch, d.count, 8)]
      let p := passAll s ragCmd.who (fun j => [(.engRead, (d.elem j).1, d.size)]) d.count' 0 c
      decide (d.fmt = .bf16 ∧ (d.dims.head?.map (·.1)).getD 0 = 2 ∧ d.count ≠ 0 ∧ d.count.toNat % 8 = 0) && c.mtype.isNone && c.bad.isNone && !p.held &&
        p.mtype.isNone && p.bad.isNone &&
        resB (useBlock s { ragCmd with src := some d, xl := p.xl } .watch d.count 8) (fun cb => decide (fld cb 0 8 = 2 ^ 63 + 2))) = true :=
  ⟨turn_chains (ready_of (orderly_of (by decide +kernel)) rfl (by decide +kernel)) (by decide +kernel), by decide +kernel⟩
/-- Operands and formats that end a product: a row above the bank, of FP32, of a K that is not the plane's, a chain that is not open. -/
def chnCmd : Cmd := cmd0 9 (mmaOf true false false true) (spA + 0x100) 0
def chnRun : Cmd := { mmaRun with op := mmaOf true false false true }
def stChn (k : Cmd) (cur : Option Nat) (now : Nat) (cs : List Chain) : State := { stMma k cur now with chains := cs }
def mmaSdB (bs : List Nat) (p : Sd → Bool) : Bool := resB (readSd (spPut (stMma chnCmd none 0) 0x100 (bs ++ leList 16 0)) chnCmd (spA + 0x100)) p
theorem witness_CommandBoundaries_products_ends : 65536 ≤ (0x10000#64).toNat ∧ mmaSdB (sdB (spA + 0x1000) .fp32 [(2, 4)]) (fun d => decide (d.fmt = .fp32)) = true ∧
    mmaSdB (sdB (spA + 0x1000) .bf16 [(3, 2)]) (fun d => decide (d.fmt = .bf16 ∧ (d.dims.head?.map (·.1)).getD 0 ≠ plane22.k)) = true ∧
    ArrayTurn (stChn chnCmd none 0 []) 0 0 chnCmd ∧ ArrayTurn (stChn chnCmd none 0 [outChain]) 0 0 chnCmd ∧ outChain.src = 0 ∧ outChain.marker = none ∧
    passB (stChn chnCmd none 0 [outChain]) chnCmd sd22 (fun j => [(.engRead, (sd22.elem j).1, sd22.size)]) = true :=
  ⟨by decide +kernel, by decide +kernel, by decide +kernel,
    turn_chains (ready_of (orderly_of (by decide +kernel)) rfl (by decide +kernel)) (by decide +kernel),
    turn_chains (ready_of (orderly_of (by decide +kernel)) rfl (by decide +kernel)) (by decide +kernel), rfl, rfl, by decide +kernel⟩
/-- Rows: one too many, into a chain, beyond the bank, unreadable, the last of a ragged product, of integers. -/
def endRun : Cmd := { mmaRun with cast := (0, 2, 0) }
def farRun : Cmd := { mmaRun with gb := 0xFFFF }
def nullRun : Cmd := { mmaRun with src := some { sd22 with base := 2 ^ 54 } }
def lastRun : Cmd := { mmaRun with op := mmaOf false true false true, ragN := 1, ragC := true }
theorem witness_CommandBoundaries_rows : (ArrayTurn (stChn chnRun (some 9) 64 [outChain]) 0 0 chnRun ∧ ArrayTurn (stChn chnRun (some 9) 64 []) 0 0 chnRun) ∧
    (ArrayTurn (stMma endRun (some 9) 64) 0 0 endRun ∧ endRun.prog < rowsEntered (stMma endRun (some 9) 64) 0 endRun ∧ endRun.cast.2.2 ≤ endRun.prog) ∧
    (ArrayTurn (stMma farRun (some 9) 64) 0 0 farRun ∧ (st1.frag 0).arows ≤ farRun.gb.toNat % 65536 + farRun.prog) ∧
    (ArrayTurn (stMma nullRun (some 9) 64) 0 0 nullRun ∧ (match readAct (stMma nullRun (some 9) 64) nullRun { sd22 with base := 2 ^ 54 } 0 2 2 0 with
      | .fail c _ _ => decide (0 < c ∧ c < 128)
      | _ => false) = true) ∧
    (ArrayTurn (stMma lastRun (some 9) 64) 0 0 lastRun ∧ lastRun.ragC = true ∧ lastRun.ragN ≤ lastRun.prog + 1 ∧ lastRun.prog < rowsEntered (stMma lastRun (some 9) 64) 0 lastRun) ∧
    plane22.bad = false ∧ plane22.n ≤ (st1.frag 0).nmax ∧ (0 : Nat) < (st1.frag 0).arows ∧ isOb .ob8 = true ∧ isOb .bf16 = false ∧
    chnRun.prog < rowsEntered (stChn chnRun (some 9) 64 [outChain]) 0 chnRun :=
  ⟨⟨turn_chains (ready_of (orderly_of (by decide +kernel)) rfl (by decide +kernel)) (by decide +kernel),
      turn_chains (ready_of (orderly_of (by decide +kernel)) rfl (by decide +kernel)) (by decide +kernel)⟩,
    ⟨turn_chains (ready_of (orderly_of (by decide +kernel)) rfl (by decide +kernel)) (by decide +kernel), by decide +kernel, by decide⟩,
    ⟨turn_chains (ready_of (orderly_of (by decide +kernel)) rfl (by decide +kernel)) (by decide +kernel), by decide +kernel⟩,
    ⟨turn_chains (ready_of (orderly_of (by decide +kernel)) rfl (by decide +kernel)) (by decide +kernel), by decide +kernel⟩,
    ⟨turn_chains (ready_of (orderly_of (by decide +kernel)) rfl (by decide +kernel)) (by decide +kernel), by decide +kernel⟩, by decide +kernel⟩
/-- MMA.cin: at its start, without rows to take, beyond the bank; while it waits, at a row of its plane's K, of another, of FP32, at the
end marker, with its rows taken; and with an own chain to send into. -/
def cinCmd (l : Nat) : Cmd := cmd0 9 (mmaOf false false true true) 0 (u64 (65536 * l))
def cinRun (chn : Bool) (prog : Nat) : Cmd := { cinCmd 2 with op := mmaOf chn false true true, st := .started, cast := (0, 2, 2), prog := prog }
def cinTurn (k : Cmd) (cur : Option Nat) (cs : List Chain) : Prop := ArrayTurn (stChn k cur 64 cs) 0 0 k ∧ ((stChn k cur 64 cs).frag 0).busy ≤ (stChn k cur 64 cs).now ∧
  (stChn k cur 64 cs).ecc = []
theorem cin_of {k : Cmd} {cur : Option Nat} {cs : List Chain} (h : decide (Store.wf Frag.reset (stChn k cur 64 cs).frags = true ∧
    Store.wf Token.reset (stChn k cur 64 cs).cur.k = true ∧ (stChn k cur 64 cs).joins = [] ∧ (stChn k cur 64 cs).pend = []) = true)
    (hq : (stChn k cur 64 cs).queue 0 0 = [k])
    (h1 : decide (k.id ≠ 0 ∧ k.page = none ∧ k.bad = none ∧ (stChn k cur 64 cs).stopping k.uid = false ∧ issuerGone (stChn k cur 64 cs) k = false ∧
      inputsDone k.ins = true ∧ firstFault k.ins = none) = true)
    (h2 : decide (((stChn k cur 64 cs).frag 0).q = [(0, [k])] ∧ 0 < tickOf (stChn k cur 64 cs) 0 ∧
    (∀ x ∈ (stChn k cur 64 cs).chains, x.flight = []) ∧ edgeStuck (stChn k cur 64 cs) 0 = false ∧ (stChn k cur 64 cs).stops k = false) = true)
    (h3 : decide (((stChn k cur 64 cs).frag 0).busy ≤ (stChn k cur 64 cs).now ∧ (stChn k cur 64 cs).ecc.isEmpty) = true) : cinTurn k cur cs := by
  refine ⟨turn_chains (ready_of (orderly_of (of_decide_eq_true h)) hq h1) h2, ?_⟩
  have := of_decide_eq_true h3
  exact ⟨this.1, List.isEmpty_iff.mp this.2⟩
theorem witness_CommandBoundaries_chained : cinTurn (cinCmd 2) none [] ∧ 0 + 2 ≤ (st1.frag 0).arows ∧ cinTurn (cinCmd 0) none [] ∧
    cinTurn (cinCmd 65535) none [] ∧ (st1.frag 0).arows < 0 + 65535 ∧ 2 ^ 32 ≤ (0x100000000#64).toNat ∧ (cinCmd 2).gb.toNat / 65536 = 2 ∧
    cinTurn (cinRun false 2) (some 9) [] ∧ (cinRun false 2).cast.2.1 ≤ 2 :=
  ⟨cin_of (by decide +kernel) rfl (by decide +kernel) (by decide +kernel) (by decide +kernel), by decide +kernel,
    cin_of (by decide +kernel) rfl (by decide +kernel) (by decide +kernel) (by decide +kernel),
    cin_of (by decide +kernel) rfl (by decide +kernel) (by decide +kernel) (by decide +kernel), by decide +kernel, by decide +kernel, by decide +kernel,
    cin_of (by decide +kernel) rfl (by decide +kernel) (by decide +kernel) (by decide +kernel), by decide⟩
def cinRow1 : Chain := inChain [(.bf16, [0x3F80, 0x4000])] none
theorem witness_CommandBoundaries_chained_rows : cinTurn (cinRun false 0) (some 9) [inChain [] none] ∧ cinTurn (cinRun false 0) (some 9) [inChain [] (some [])] ∧
    cinTurn (cinRun false 0) (some 9) [cinRow1] ∧ cinTurn (cinRun false 0) (some 9) [inChain [(.fp32, [1, 2])] none] ∧
    cinTurn (cinRun false 0) (some 9) [inChain [(.bf16, [1])] none] ∧ cinTurn (cinRun true 0) (some 9) [cinRow1, outChain] ∧
    cinRow1 ∉ [outChain] ∧ cinRow1.src ≠ 0 ∧ ([0x3F80, 0x4000] : List Nat).length = plane22.k ∧ ([1] : List Nat).length ≠ plane22.k :=
  ⟨cin_of (by decide +kernel) rfl (by decide +kernel) (by decide +kernel) (by decide +kernel),
    cin_of (by decide +kernel) rfl (by decide +kernel) (by decide +kernel) (by decide +kernel),
    cin_of (by decide +kernel) rfl (by decide +kernel) (by decide +kernel) (by decide +kernel),
    cin_of (by decide +kernel) rfl (by decide +kernel) (by decide +kernel) (by decide +kernel),
    cin_of (by decide +kernel) rfl (by decide +kernel) (by decide +kernel) (by decide +kernel),
    cin_of (by decide +kernel) rfl (by decide +kernel) (by decide +kernel) (by decide +kernel), by decide, by decide, by decide, by decide⟩
/-- R107: the row [1, 2] by the plane's columns (1, 4) and (3, 5), taken from a chain. -/
theorem test_chained_product : (match exec (.commandCompletion 0 0 9 1) (stChn (cinRun false 0) (some 9) 64 [cinRow1]) with
    | .next t => (Store.get 0 t.accs (accKey t 0 false 0 0), Store.get 0 t.accs (accKey t 0 false 0 1), t.chains)
    | _ => (0, 0, [])) = (0x41100000, 0x41500000, [inChain [] none]) := by decide +kernel
theorem witness_CommandBoundaries_flags : ((stDrain drainRun (some 9) 128 .fp32).ctx? drainRun.cid).isSome = true := by decide +kernel

/-- A grid with one element and one move word: imm, link, port, register and result sources; latch, link, port and drop destinations. -/
def stMoves (i : Nat) (e : Elem) (ports : Store GPort) : State := st1.modFrag 0 (fun f => { f with grid := { Grid.reset with st := .running, elems := [(i, e)], ports := ports } })
def moveWord (src dst op cond : Nat) : W32 := u32 (src * 2 ^ 27 + dst * 2 ^ 22 + op * 2 ^ 18 + cond * 2 ^ 16)
def movesAt (i : Nat) (e : Elem) (ports : Store GPort) (n : Nat) (w : W32) : Bool :=
  decide (Store.wf Frag.reset (stMoves i e ports).frags = true ∧ Store.wf Token.reset (stMoves i e ports).cur.k = true ∧
    (stMoves i e ports).joins = [] ∧ (stMoves i e ports).pend = []) && !(stMoves i e ports).stopping (Store.get 0 (stMoves i e ports).occ 0) &&
  Store.wf GPort.reset ports && decide (i < 64 * 1 * 1 ∧ n < 16) && decide (e.slots = [(n, w)]) && e.aluF.isNone && e.cmpF.isNone && e.lutF.isNone &&
  e.outN.isEmpty && e.outE.isEmpty && e.outS.isEmpty && e.outW.isEmpty
theorem witness_EngineSteps_moves :
    -- reg0 to alu.t with alu.r empty, and full; the flag's condition, the tag's
    (movesAt 0 { Elem.reset with slots := [(0, moveWord 10 5 0 1)], flag := true, reg0 := ⟨3, true⟩ } [] 0 (moveWord 10 5 0 1) = true ∧
      movesAt 0 { Elem.reset with slots := [(0, moveWord 10 5 0 1)], aluR := some ⟨1, false⟩ } [] 0 (moveWord 10 5 0 1) = true ∧
      movesAt 0 { Elem.reset with slots := [(15, moveWord 10 5 0 3)], reg0 := ⟨3, true⟩ } [] 15 (moveWord 10 5 0 3) = true) ∧
    -- the west port of row 3 to the east link, from an inner element's north link to its west link
    (movesAt 24 { Elem.reset with slots := [(0, moveWord 12 1 0 0)] } [(3, ⟨[⟨7, false⟩], [], none, false⟩)] 0 (moveWord 12 1 0 0) = true ∧ 24 % 8 % 8 = 0 ∧ 24 / 8 % 8 < 4 ∧
      movesAt 9 { Elem.reset with slots := [(0, moveWord 0 3 0 2)], inN := [⟨7, true⟩] } [] 0 (moveWord 0 3 0 2) = true ∧ (8 : Nat) + 1 = 9 ∧ 9 % 8 ≠ 0) ∧
    -- a result to the east port of row 0
    (movesAt 7 { Elem.reset with slots := [(0, moveWord 4 14 0 0)], aluR := some ⟨9, false⟩ } [] 0 (moveWord 4 14 0 0) = true ∧ 7 % 8 % 8 = 7 ∧
      (((stMoves 7 Elem.reset []).grid 0).port 16).ring = none ∧ (((stMoves 7 Elem.reset []).grid 0).port 16).q.length < 16) := by
  decide +kernel
theorem witness_EngineSteps_results : (∀ e ∈ [{ Elem.reset with aluF := some (15, ⟨1, false⟩, ⟨2, true⟩) }, { Elem.reset with cmpF := some (⟨3, false⟩, ⟨2, true⟩) },
      { Elem.reset with cmpF := some (⟨2, false⟩, ⟨2, true⟩) }, { Elem.reset with lutF := some (2, ⟨5, false⟩) }, { Elem.reset with lutF := some (1, ⟨5, false⟩) }],
      e.slots = [] ∧ e.outN = [] ∧ e.outE = [] ∧ e.outS = [] ∧ e.outW = []) ∧
    ((stMoves 0 Elem.reset []).grid 0).ports = [] ∧ (0 : Nat) + 1 = 1 ∧ 1 % (8 * 1) ≠ 0 ∧
    ({ Elem.reset with outE := [⟨1, false⟩] } : Elem).outE = [⟨1, false⟩] ∧ ({ Elem.reset with inW := List.replicate 4 ⟨2, false⟩ } : Elem).inW.length = 4 ∧
    Elem.reset.inW.length < 4 := by decide +kernel
theorem witness_EngineSteps_limits : ({ Elem.reset with aluR := some ⟨1, false⟩ } : Elem).aluF = none := rfl
theorem witness_EngineSteps_notstopped : stRag.stops ((stRag.cmd? 0 0 9).getD (cmd0 9 kw 0 0)) = false := by decide +kernel
theorem witness_EndsAndYields_kept : Issues stKept gd0 ∧ stKept.cur.splits = [] ∧ wcKept stKept stKept.cur.who stKept.cur.wc ≠ [] ∧ stKept.cur.compid = 0 ∧
    (∃ u, stKept.unit? stKept.cur.uid = some u) := ⟨⟨rfl, rfl, rfl, rfl⟩, rfl, by decide +kernel, rfl, _, rfl⟩
/-- A cancel of the graph that its home has received. -/
theorem witness_LaunchesAndGraphs_cancel : cancelPending stGraph 7 = false ∧ cancelPending { stGraph with cancels := [⟨7⟩] } 7 = true ∧
    isCancelled { stGraph with cancels := [⟨7⟩] } 7 = false := by decide +kernel
/-- Held stores when the image is written: none left, and one whose home is in reset. -/
def stImgKept : State := { stKept with units := (stImg .writing).units, cur := { stKept.cur with phase := .stopped } }
theorem witness_ImagesWrittenAndRead_held :
    ((((stImg .writing).flush 5).ctx? 5).any (fun d => d.wc.isEmpty) &&
      putB (put (mordant ((stImg .writing).flush 5) (probeUnit 3 5)) ((stImg .writing).flush 5) 0x8000
        (yieldBytes ((stImg .writing).flush 5) (probeUnit 3 5) (stImg .writing).cur 2 80))) = true ∧
    ((stImgKept.flush 5).ctx? 5).any (fun d => !d.wc.isEmpty) = true := by decide +kernel
theorem witness_TenureAndCancel_due : (stTenure 63 7200000).now = ((stTenure 63 7200000).frag 0).tstart + 7200000 ∧ ((stTenure 63 7200000).frag 0).tcount < 64 ∧
    (stTenure 63 7200001).now ≠ ((stTenure 63 7200001).frag 0).tstart + 7200000 ∧
    (∃ k ∈ ((withQueue (stTenure 63 7200000) 0 [cmd0 1 (.aswap gd0 1 0 0 0 false) 0 0]).frag 0).queue 0, k.cid = 5) ∧
    (stCancel.cancels[1]? = some ⟨77⟩ ∧ ∀ x ∈ stCancel.cancels.take 1, x.ent ≠ 77) ∧
    ∃ x ∈ ({ stCancel with cancels := [⟨3⟩, ⟨3⟩] } : State).cancels.take 1, x.ent = 3 := by decide +kernel
theorem witness_SlicesStartTogether_open : ∀ q ∈ [5], (stGo (slT 1000000)).dieOpen (q / 16) = true := by decide +kernel
/-- The control die's packets behind the link of their gateway, which retrains; a reply to that die. -/
def ctlP (frag : Nat) : OutPkt := { outP frag with pkt := ⟨7, { hdr9 with srcDie := 15 }, .stop⟩ }
def stAway : State := { st1.modPort 0 1 (fun _ => ⟨[ctlP 16], 0, 0⟩) with links := [(15, ⟨some 0, none⟩)] }
theorem witness_RemoteWrites_away : windowOpen stAway (stAway.link 0 15) = true ∧ (∀ x ∈ (stAway.port 0 1).q, x.pkt.hdr.srcDie = 15 ∧ x.gate = 0) ∧
    (outP 5).pkt.hdr.srcDie < 12 ∧ windowOpen stPort (stPort.link (ctlP 0).gate 15) = false := by decide +kernel
theorem witness_FabricReplies_control : (12 : Nat) ≤ ({ hdrR with reqDie := 15 } : FHdr).reqDie ∧
    ctlAway (stReply (fabC (peer0 [0] none) none [0, 64] none false)) (gateOf (stReply (fabC (peer0 [0] none) none [0, 64] none false)) 15) = false := by decide +kernel
/-- A REPORT of 65 bytes behind one of 64: units below 64 are settled. -/
theorem witness_FetchesLand_second : (⟨hdr9, 0, none, [0], [], false, some (0, 64)⟩ : Recipient).askEnd.map (fun a => min 65 a.2) = some 64 ∧
    settledBelow { (⟨hdr9, 0, none, [0], [], false, some (0, 64)⟩ : Recipient) with askEnd := some (0, 64) } 64 (64 / 64 + 1) 0 = true := by decide
/-- Fetches whose owner is lost before END and behind it, a recipient of which has not answered. -/
def askFetch (e : Option Nat) : FabCmd := { fabC (peer0 [] none) (some order0) [] e false with peers := [peer8 []], report := e.isSome }
theorem witness_LossesElsewhere_again : ∀ e ∈ [none, some 65], (askFetch e).order = some order0 ∧ (askFetch e).owner = some (7, none) ∧
    (askFetch e).endOff = e ∧ (askFetch e).report = (askFetch e).endOff.isSome ∧ (peer8 []).lost = false ∧ (peer8 []).pkg ≠ 7 ∧ (peer8 []).landed = none ∧
    (askFetch e).nak = none ∧ (stReply (askFetch e)).fab.cmds = [askFetch e] := by decide +kernel
theorem witness_ClocksLinksHosts_waits : st1.now < ({ st1.cur with notBefore := 64 } : Ctx).notBefore ∧ st1.cur.seq / 16 = 0 ∧
    1 ∈ ({ st1.fab with untimed := [1] } : Fabric).untimed ∧ (st1.die 1).resetAt = none := by decide +kernel
/-- A die whose context has not moved for 10 ms, one that has; a reset that waits for its units. -/
theorem witness_ResetsAndBoot_hang : dieHung { st1 with now := 720000000 } 0 = true ∧ dieHung { st1 with now := 719999999 } 0 = false ∧
    dieHung { st1 with now := 720000000 } 1 = false ∧ st1.dieOpen 0 = true ∧ st1.dieOpen 1 = true ∧
    (st1.modDie 1 (fun d => { d with stopAt := some 5 })).dieOpen 1 = false := by decide +kernel
theorem witness_StepRunsTheDecodedInstruction_paced : (later (stFetch.setCur (fun c => { c with notBefore := 64 }))).now <
      (later (stFetch.setCur (fun c => { c with notBefore := 64 }))).cur.notBefore ∧
    (later stFetch).cycled.cur.notBefore = (later stFetch).now + 32 := by decide +kernel

end Sys2Proof.Tests
end

section
/-! PROOF. What the shared forms of a scalar result (alu1, alu2, division) give when the word issues, and the values
of the scalar operations in the arithmetic words of the statements. -/
namespace Sys2Proof.Machine

/- The shared forms -/

/-- What a word that issues gives is what its body gives (R258). -/
theorem gives_issue {s : State} {gd : Guard} (h : Issues s gd) (f : State → State) (p : State → Prop) :
    Gives (issue gd s f) p ↔ p (f s) := by
  rw [issue_eq h, gives_next]

/-- A result of two registers completes with its value (R277). -/
theorem gives_alu2 {s : State} {gd : Guard} (h : Issues s gd) {d a b : GReg} {f : W64 → W64 → W64} {v : W64}
    (hv : f (s.cur.rg a) (s.cur.rg b) = v) : Gives (alu2 gd d a b s f) (fun t => RegStep s t d v) := by
  rw [alu2, gives_issue h, ← hv]
  exact regStep_result s d _

/-- A result of one register completes with its value. -/
theorem gives_alu1 {s : State} {gd : Guard} (h : Issues s gd) {d a : GReg} {f : W64 → W64} {v : W64}
    (hv : f (s.cur.rg a) = v) : Gives (alu1 gd d a s f) (fun t => RegStep s t d v) := by
  rw [alu1, gives_issue h, ← hv]
  exact regStep_result s d _

/-- A division completes with its value, and of the flags it sets at most IDZ (R159). -/
theorem gives_division {s : State} {gd : Guard} (h : Issues s gd) (d a b : GReg) (f : W64 → W64 → W64) :
    Gives (division gd d a b s f) (fun t =>
      RegFlagStep s t d (f (s.cur.rg a) (s.cur.rg b)) (if s.cur.rg b = 0 then fIDZ else 0)) :=
  (gives_issue h _ _).2 (regFlagStep_result s d _ _)

/- Extrema: the choice by comparison is the extremum of the numbers that the words stand for (R318) -/

theorem ite_slt_eq_max (x y : W64) : (if x.slt y then y else x) = BitVec.ofInt 64 (max x.toInt y.toInt) := by
  by_cases h : x.toInt < y.toInt
  · rw [if_pos (BitVec.slt_iff_toInt_lt.2 h), Int.max_eq_right (Int.le_of_lt h), BitVec.ofInt_toInt]
  · rw [if_neg (mt BitVec.slt_iff_toInt_lt.1 h), Int.max_eq_left (Int.not_lt.1 h), BitVec.ofInt_toInt]

theorem ite_slt_eq_min (x y : W64) : (if x.slt y then x else y) = BitVec.ofInt 64 (min x.toInt y.toInt) := by
  by_cases h : x.toInt < y.toInt
  · rw [if_pos (BitVec.slt_iff_toInt_lt.2 h), Int.min_eq_left (Int.le_of_lt h), BitVec.ofInt_toInt]
  · rw [if_neg (mt BitVec.slt_iff_toInt_lt.1 h), Int.min_eq_right (Int.not_lt.1 h), BitVec.ofInt_toInt]

theorem ite_ult_eq_max (x y : W64) : (if x.ult y then y else x) = BitVec.ofNat 64 (max x.toNat y.toNat) := by
  by_cases h : x.toNat < y.toNat
  · rw [if_pos (BitVec.ult_iff_toNat_lt.2 h), Nat.max_eq_right (Nat.le_of_lt h), BitVec.ofNat_toNat, BitVec.setWidth_eq]
  · rw [if_neg (mt BitVec.ult_iff_toNat_lt.1 h), Nat.max_eq_left (Nat.not_lt.1 h), BitVec.ofNat_toNat, BitVec.setWidth_eq]

theorem ite_ult_eq_min (x y : W64) : (if x.ult y then x else y) = BitVec.ofNat 64 (min x.toNat y.toNat) := by
  by_cases h : x.toNat < y.toNat
  · rw [if_pos (BitVec.ult_iff_toNat_lt.2 h), Nat.min_eq_left (Nat.le_of_lt h), BitVec.ofNat_toNat, BitVec.setWidth_eq]
  · rw [if_neg (mt BitVec.ult_iff_toNat_lt.1 h), Nat.min_eq_right (Nat.not_lt.1 h), BitVec.ofNat_toNat, BitVec.setWidth_eq]

/- Shifts: multiplication and division by a power of two (R332) -/

theorem shiftLeft_eq_mul_two_pow (x : W64) (n : Nat) : x <<< n = BitVec.ofNat 64 (x.toNat * 2 ^ n) :=
  BitVec.eq_of_toNat_eq (by simp [Nat.shiftLeft_eq])

theorem ushiftRight_eq_div_two_pow (x : W64) (n : Nat) : x >>> n = BitVec.ofNat 64 (x.toNat / 2 ^ n) := by
  rw [← Nat.shiftRight_eq_div_pow, ← BitVec.toNat_ushiftRight, BitVec.ofNat_toNat, BitVec.setWidth_eq]

theorem sshiftRight_eq_div_two_pow (x : W64) (n : Nat) : x.sshiftRight n = BitVec.ofInt 64 (x.toInt / 2 ^ n) := by
  rw [BitVec.sshiftRight, Int.shiftRight_eq_div_pow]
  norm_cast

/- Extension and the high half of an immediate (R301, R316) -/

/-- The extension of the low `n` bytes of a word is the bit vector's own. -/
theorem extendTo_eq_extend {n : Nat} (hn : 0 < n) (hn8 : n ≤ 8) (x : W64) (sgn : Bool) :
    extendTo n x.toNat sgn = if sgn then (x.setWidth (8 * n)).signExtend 64 else (x.setWidth (8 * n)).zeroExtend 64 := by
  cases sgn with
  | false => exact BitVec.eq_of_toNat_eq (by simp [extendTo, u64])
  | true =>
    have hpow : 2 ^ (8 * n) ≤ 2 ^ 64 := Nat.pow_le_pow_right (by decide) (by omega)
    have hlt : x.toNat % 2 ^ (8 * n) < 2 ^ (8 * n) := Nat.mod_lt _ (Nat.two_pow_pos _)
    apply BitVec.eq_of_toNat_eq
    rw [if_pos rfl, BitVec.toNat_signExtend, BitVec.msb_eq_decide, BitVec.toNat_setWidth, BitVec.toNat_setWidth]
    by_cases h : 2 ^ (8 * n - 1) ≤ x.toNat % 2 ^ (8 * n)
    · simp only [extendTo, u64, h, decide_true, Bool.and_self, if_true, BitVec.toNat_ofNat]
      omega
    · simp only [extendTo, u64, h, decide_false, Bool.and_false, if_false, Bool.false_eq_true, BitVec.toNat_ofNat,
        Nat.add_zero]

/-- An immediate over the low half of a word. -/
theorem append_low_eq (imm : W32) (x : W64) :
    imm ++ x.extractLsb' 0 32 = BitVec.ofNat 64 (imm.toNat * 2 ^ 32 + x.toNat % 2 ^ 32) := by
  apply BitVec.eq_of_toNat_eq
  rw [BitVec.toNat_append, BitVec.extractLsb'_toNat, Nat.shiftRight_zero,
    ← Nat.shiftLeft_add_eq_or_of_lt (Nat.mod_lt _ (by decide)), Nat.shiftLeft_eq, BitVec.toNat_ofNat]
  have := imm.isLt
  omega

/- Bit counts (R294, R327) -/

theorem leadingZeros_le (x : W64) : ∀ n, leadingZeros x n ≤ n
  | 0 => Nat.le_refl 0
  | n + 1 => by
    have := leadingZeros_le x n
    rw [leadingZeros]
    split <;> omega

/-- The counted bits are zero. -/
theorem getLsbD_of_leadingZeros (x : W64) (n : Nat) :
    ∀ j, n - leadingZeros x n ≤ j → j < n → x.getLsbD j = false := by
  induction n with
  | zero => intro j _ hj; omega
  | succ n ih =>
    intro j hlo hj
    rw [leadingZeros] at hlo
    split at hlo
    · omega
    · next hbit =>
      rcases Nat.lt_succ_iff_lt_or_eq.1 hj with hj | rfl
      · exact ih j (by omega) hj
      · exact Bool.of_not_eq_true hbit

/-- The count stops at a bit that is set. -/
theorem getLsbD_leadingZeros (x : W64) (n : Nat) (h : leadingZeros x n < n) :
    x.getLsbD (n - 1 - leadingZeros x n) = true := by
  induction n with
  | zero => omega
  | succ n ih =>
    rw [leadingZeros] at h ⊢
    split at h
    · next hbit => simp [hbit]
    · next hbit =>
      rw [if_neg hbit, show n + 1 - 1 - (1 + leadingZeros x n) = n - 1 - leadingZeros x n by omega]
      exact ih (by omega)

theorem onesBelow_eq_length (x : W64) (n : Nat) :
    onesBelow x n = ((List.range n).filter (fun j => x.getLsbD j)).length := by
  induction n with
  | zero => rfl
  | succ n ih =>
    rw [onesBelow, ih, List.range_succ, List.filter_append, List.length_append, Nat.add_comm]
    cases h : x.getLsbD n <;> simp [h]

end Sys2Proof.Machine
end

section
/-! PROOF. The scalar statements settled. -/
namespace Sys2Proof.Machine

/-- CLZ stops at the most significant set bit, POPC counts by bit (R294, R327). -/
theorem claims_bitCounts : Claims.BitCounts := by
  intro s gd d a h x
  rw [exec_clz, exec_popc]
  constructor
  · rw [execClz, alu1, gives_issue h]
    exact ⟨leadingZeros x 64, leadingZeros_le x 64, regStep_result s d _, getLsbD_of_leadingZeros x 64,
      getLsbD_leadingZeros x 64⟩
  · exact gives_alu1 h (congrArg u64 (onesBelow_eq_length x 64))

/-- R159, R296, R330: `divS`, `divU`, `remS` and `remU` are the statement's quotients and remainders as they stand. -/
theorem claims_division : Claims.Division := by
  intro s gd d a b h x y fl
  rw [exec_div, exec_divu, exec_rem, exec_remu]
  exact ⟨gives_division h d a b divS, gives_division h d a b divU, gives_division h d a b remS,
    gives_division h d a b remU⟩

/-- Settles O46: its two parts, one for the bit counts and one for the division. -/
theorem bitCountsAndDivision : Obligations.BitCountsAndDivision := ⟨claims_bitCounts, claims_division⟩

/-- Settles O1: every operation is a result of two registers, with its value put in the statement's arithmetic. -/
theorem scalarTwoRegister : Obligations.ScalarTwoRegister := by
  intro s gd d a b h x y
  simp only [exec_add, exec_sub, exec_and, exec_andn, exec_or, exec_xor, exec_mul, exec_mulhu, exec_mulh, exec_max,
    exec_min, exec_maxu, exec_minu, exec_shl, exec_shr, exec_shra]
  refine ⟨?add, ?sub, ?and, ?andn, ?or, ?xor, ?mul, ?mulhu, ?mulh, ?max, ?min, ?maxu, ?minu, ?shl, ?shr, ?shra⟩
  case add | sub | and | andn | or | xor | mulhu | mulh => exact gives_alu2 h rfl
  case mul => exact gives_alu2 h (BitVec.mul_def ..)
  case max => exact gives_alu2 h (ite_slt_eq_max x y)
  case min => exact gives_alu2 h (ite_slt_eq_min x y)
  case maxu => exact gives_alu2 h (ite_ult_eq_max x y)
  case minu => exact gives_alu2 h (ite_ult_eq_min x y)
  case shl => exact gives_alu2 h (shiftLeft_eq_mul_two_pow x _)
  case shr => exact gives_alu2 h (ushiftRight_eq_div_two_pow x _)
  case shra => exact gives_alu2 h (sshiftRight_eq_div_two_pow x _)

/-- Settles O2: results of one register, but for LI, which reads none, and SEL, which reads two and a predicate. -/
theorem scalarImmediate : Obligations.ScalarImmediate := by
  intro s gd d a b imm sh c width sgn h x y i bits
  simp only [exec_addi, exec_andi, exec_ori, exec_xori, exec_shli, exec_shri, exec_shrai, exec_li, exec_lih, exec_ext,
    exec_sel]
  refine ⟨?addi, ?andi, ?ori, ?xori, ?shli, ?shri, ?shrai, ?li, ?lih, ?ext, ?sel⟩
  case addi | andi | ori | xori => exact gives_alu1 h rfl
  case shli => exact gives_alu1 h (shiftLeft_eq_mul_two_pow x _)
  case shri => exact gives_alu1 h (ushiftRight_eq_div_two_pow x _)
  case shrai => exact gives_alu1 h (sshiftRight_eq_div_two_pow x _)
  case li => exact (gives_issue h _ _).2 (regStep_result s d i)
  case lih => exact gives_alu1 h (append_low_eq imm x)
  case ext => cases width <;> exact gives_alu1 h (extendTo_eq_extend (by decide) (by decide) x sgn)
  case sel => exact (gives_issue h _ _).2 (regStep_result s d _)

end Sys2Proof.Machine
end

section
/-! PROOF. What CMP, CMPI, PSET and MLOG write (R295, R321, R328). -/
namespace Sys2Proof.Machine

/-- A predicate result completes with its value (R295, R328). -/
theorem gives_wp {s : State} {gd : Guard} (h : Issues s gd) {d : PNum} {f : Ctx → Bool} {b : Bool} (hb : f s.cur = b) :
    Gives (issue gd s (fun s => advance (s.setCur (fun c => c.wp d (f c))))) (fun t => PredStep s t d b) := by
  rw [gives_issue h, ← hb]
  exact predStep_wp s d _

/-- A mask result writes its register and sets no flag (R321). -/
theorem maskStep_wm (s : State) (d : MNum) (x : BitVec 128) : MaskStep s (advance (s.setCur (·.wm d x))) d x 0 :=
  ⟨Ctx.rm_wm_same s.cur d x, fun _ hr => Ctx.rm_wm_ne s.cur x hr, BitVec.or_zero.symm, rfl, rfl, fun _ => rfl,
    fun _ => rfl⟩

theorem tableBit_eq (tbl : BitVec 4) (a b : Bool) : tableBit tbl a b = tbl.getLsbD (2 * a.toNat + b.toNat) := by
  cases a <;> cases b <;> rfl

/-- Each bit of a mask result is the table's entry for the bits of the sources (R321): of the four terms only the one
that the two bits select can have its bit set. -/
theorem getLsbD_maskLogic (tbl : BitVec 4) (a b : BitVec 128) {i : Nat} (hi : i < 128) :
    (maskLogic tbl a b).getLsbD i = tableBit tbl (a.getLsbD i) (b.getLsbD i) := by
  have term (c : Bool) (x : BitVec 128) : (if c then x else 0).getLsbD i = (c && x.getLsbD i) := by cases c <;> simp
  simp only [maskLogic, BitVec.getLsbD_or, term, BitVec.getLsbD_and, BitVec.getLsbD_not, hi, decide_true, Bool.true_and]
  cases a.getLsbD i <;> cases b.getLsbD i <;> simp [tableBit]

/-- Settles O3: the comparison by cases of its condition, the truth table on two bits and then lane by lane. -/
theorem predicatesAndMasks : Obligations.PredicatesAndMasks := by
  intro s gd d p q a b cond imm md ma mb tbl h holds table
  have hcond : ∀ x y, condHolds cond x y = holds x y := by
    intro x y
    cases cond with
    | eq | lt | ltu => rfl
    | ne => exact decide_not.symm
    | ge => exact BitVec.sle_eq_not_slt.symm
    | geu => exact (BitVec.ule_eq_not_ult y x).symm
  rw [exec_cmp, exec_cmpi, exec_pset, exec_mlog]
  refine ⟨?cmp, ?cmpi, ?pset, ?mlog⟩
  case cmp | cmpi => exact gives_wp h (hcond _ _)
  case pset => exact gives_wp h (tableBit_eq tbl _ _)
  case mlog =>
    refine (gives_issue h _ _).2 ⟨maskLogic tbl (s.cur.rm ma) (s.cur.rm mb), maskStep_wm s md _, fun i hi => ?_⟩
    rw [getLsbD_maskLogic tbl _ _ hi, tableBit_eq]

end Sys2Proof.Machine
end
